-- ==== Sys2Proof/Word.lean ====
section
/-! DEFINITION. The word types of the Percia 9100 (R4, R24, R44): bytes, 64-bit words, the 1,024-bit CE
value, and the plainest reading of a bit field. -/

namespace Sys2Proof

/-- One byte of any storage (R4). -/
abbrev Byte := BitVec 8

/-- A 64-bit instruction word, token payload, lane or register (R4, R24, R64). -/
abbrev Word := BitVec 64

/-- A CE value: sixteen 64-bit lanes, lane i in bits [64i+63:64i] (R4, R44). -/
abbrev Value := BitVec 1024

/-- A 256-bit frame of a block or of a configuration image (R76, R80). -/
abbrev Frame := BitVec 256

/-- Bits [lo+len-1:lo] of a bit pattern, as a number. -/
def fieldOf {w : Nat} (v : BitVec w) (lo len : Nat) : Nat := (v.toNat >>> lo) % 2 ^ len

/-- Bit n of a bit pattern. -/
def bitOf {w : Nat} (v : BitVec w) (n : Nat) : Bool := v.getLsbD n

end Sys2Proof
end

