-- ==== Sys2Proof/Config.lean ====
section
/-! DEFINITION. What the part fixes (R9, R13, R46, R114, R285) and the values that the manual leaves to SEC's secrets or to the
device's own choice. A free value is an opaque constant without a body: nothing can be proved about which value it has. -/

namespace Sys2Proof.Config

/-- Clusters of a package (R9): 8 C-dies of 36. -/
def clusters : Nat := 288

/-- Bytes of a C-die's die pad (R13): 36 slices of 16 MiB. -/
def dpBytes : Nat := 36 * 16 * 1048576

/-- Objects the device holds: contexts (R267), queues (R281), barriers (R328). -/
def objects : Nat := 4096

/-- Admitted launches and groups together (R306). -/
def maxGroups : Nat := 4096

/-- Kernels held at once (R297). -/
def maxKernels : Nat := 16384

/-- Records of a Cistern ring and of its queue (R428). -/
def ringRecords : Nat := 16384
def ringQueue : Nat := 64

/-- KMAC256 with a 256-bit output under a secret key (R435): the key is SEC's, so the value is free. (Model: DESIGN CHOICE, safe: notes/assumptions 5) -/
opaque kmac256 : (key : List Byte) → (x : List Byte) → (label : Nat) → BitVec 256

/-- ML-KEM-1024 decapsulation of a key blob's ciphertext and the AES-256-GCM opening of its job key (R408): the verdict and the
job key depend on the device's secret identity key, so both are free. -/
opaque openKeyBlob : List Byte → Option (BitVec 256)

/-- ML-DSA-87 verification of a manifest's signature under the signer's key (R408). -/
opaque mldsaVerify : (key : List Byte) → (message : List Byte) → (signature : List Byte) → Bool

/-- ML-DSA-87 signature of a capsule by the device's capsule key (R435). -/
opaque capsuleSign : List Byte → List Byte

/-- The fresh random salt key of capsule number n (R435). -/
opaque saltKey : Nat → List Byte

/-- SHA3-512 of the device serial number (R434). -/
opaque serialDigest : BitVec 512

/-- The element-state megabyte of a saved cluster (R275) is in the device's own format: byte n of the area written by save number k. -/
opaque saveByte : Nat → Nat → Byte

/-- The key of a context's save area (R276): KMAC256 under the device's identity of CTXID and a count of CREATEs. The identity is SEC's secret, so the value is free. -/
opaque saveKey : (ctxid creates : Nat) → BitVec 256

/-- The AES-256-GCM tag of part n of a save area under a key (R276). -/
opaque areaTag : BitVec 256 → Nat → List (Nat × Byte) → BitVec 128

/-- The contents of an entry of a deferred-reader overflow area (R234), which are the owner's own: byte n of the entry that reader number k takes. -/
opaque overflowByte : Nat → Nat → Byte

/-- The entry index that a load report shows when no entry is at fault: number n of the reports (R301 names none for a success or a REJECT). -/
opaque reportIndex : Nat → BitVec 32

/-- The TYPE in the RESET record of an unstarted command whose packet is not valid: number n of these records (R286, R295). -/
opaque resetType : Nat → Byte

/-- Flits of receive buffer that the device grants a link's peer at first, in a credit class (R391). -/
opaque rxCredits : Nat → BitVec 32

/-- The percentage that a DROOP record shows for a largest stretch of n/32 of a period, where that is no whole number (R426). -/
opaque droopPercent : Nat → Nat

/-- Bytes that a failed EXPORT had written, of export number n (R437). -/
opaque exportWrote : Nat → Nat

/-- SEC's own detail in the SEC WDOG record (R426). -/
opaque secDetail : Nat → BitVec 16

/-- The address that the exit predictor gives for a branch whose target no block has produced yet (R170): number n of the predictions asked for. -/
opaque predicted : Nat → Nat

end Sys2Proof.Config
end

