-- ==== Sys2Proof/Syntax.lean ====
section
/-! DEFINITION. The steps of the part: ONE inductive `Instr` with a constructor for every row of the opcode
table.  Three sorts of row stand in it.  (1) Instruction words of 64 bits (R64-R75), whose constructor carries the
decoded fields of its X-field format.  (2) The operations of SU, MC, AG and MT frames of 256 bits (R87-R90),
whose constructor carries the decoded frame.  (3) The device's own events and the acts of the parties outside it
(commands, packets, link and power events), whose constructor carries what the event brings with it. -/

namespace Sys2Proof

/-- Element types, in TY code order (R44). -/
inductive Ty where
  | i8 | n8 | i16 | n16 | i32 | n32 | i64 | n64 | e4 | e5 | f4 | bf16 | f16 | f32 | f64 | a36
  deriving DecidableEq, Repr

/-- Predicate modes of PR (R65): always, the ordering guard, if false, if true. -/
inductive Pred where
  | always | guard | ifFalse | ifTrue
  deriving DecidableEq, Repr

/-- Operand entries (R66). -/
inductive Opnd where
  | a | b | c | p
  deriving DecidableEq, Repr

/-- A used target: SLOT and OPND (R66). -/
structure Target where
  slot : BitVec 7
  opnd : Opnd
  deriving DecidableEq, Repr

/-- Rounding modes (R51). -/
inductive Rnd where
  | rne | rtz | rup | rdn | rna | rsr
  deriving DecidableEq, Repr

/-- Memory spaces of SPC (R69). -/
inductive Space where
  | up | cp | dp | gm
  deriving DecidableEq, Repr

/-- Ordering policies of POL (R69, R125). -/
inductive Pol where
  | rlx | acq | rel | acqrel
  deriving DecidableEq, Repr

/-- Scopes 0 to 5 (R69, R120). -/
inductive Scope where
  | tile | cluster | die | package | domain | system
  deriving DecidableEq, Repr

/-- The four engine queues (R73). -/
inductive Qu where
  | ct | tm | mx | cl
  deriving DecidableEq, Repr

/-- Spaces of the tile-move engine and of the accumulator and remote instructions (R199, R253, R396). -/
inductive MvSpace where
  | up | cp | dp | bs | gm
  deriving DecidableEq, Repr

/-- Relations of CMP (R152). -/
inductive Cc where
  | eq | ne | lt | le | gt | ge
  deriving DecidableEq, Repr

/-- Relations of FCMP (R158). -/
inductive Fcc where
  | eq | ne | lt | le | gt | ge | un
  deriving DecidableEq, Repr

/-- Sub-ops of LRED and LSCAN (R162). -/
inductive RedOp where
  | add | mul | min | max | and | or | xor
  deriving DecidableEq, Repr

/-- Sub-ops of MSKOP (R166). -/
inductive MskOp where
  | any | all | none | cnt | first | last
  deriving DecidableEq, Repr

/-- Sub-ops of CVTMX (R168). -/
inductive MxOp where
  | qnt | dq
  deriving DecidableEq, Repr

/-- Forms of NULL (R173). -/
inductive NullForm where
  | targets | st0 | st1 | wr0 | wr1
  deriving DecidableEq, Repr

/-- Sub-ops of RATOM, in code order (R396): the atomics of R189. -/
inductive AtomOp where
  | add | min | max | and | or | xor | xchg | cas | fadd
  deriving DecidableEq, Repr

/-- Sub-ops of CRED (R399). -/
inductive CredOp where
  | add | min | max | and | or | xor
  deriving DecidableEq, Repr

/-- Format G (R67): `imm` holds IMM20, or IMM16 in its low bits for an instruction marked S (R68). -/
structure GFields where
  pr : Pred
  ty : Ty
  t0 : Option Target
  t1 : Option Target
  i : Bool
  rnd : Rnd
  na : Bool
  nb : Bool
  nc : Bool
  sat : Bool
  imm : BitVec 20
  deriving DecidableEq, Repr

/-- Format M (R69). -/
structure MFields where
  pr : Pred
  ty : Ty
  t0 : Option Target
  t1 : Option Target
  seq : BitVec 7
  pseq : BitVec 7
  sseq : BitVec 7
  spc : Space
  pol : Pol
  scope : Scope
  deriving DecidableEq, Repr

/-- Format B (R70). -/
structure BFields where
  pr : Pred
  hint : Bool
  exit : BitVec 3
  off : BitVec 48
  deriving DecidableEq, Repr

/-- Format K (R71). -/
structure KFields where
  pr : Pred
  ty : Ty
  t0 : Option Target
  imm : BitVec 38
  deriving DecidableEq, Repr

/-- Format W (R72). -/
structure WFields where
  pr : Pred
  t0 : Option Target
  t1 : Option Target
  word : BitVec 5
  ksel : BitVec 2
  deriving DecidableEq, Repr

/-- Format E (R73): SUBOP and ENG stand in the constructor's own fields where the instruction uses them. -/
structure EFields where
  pr : Pred
  ty : Ty
  pop : Option Qu
  push : Option Qu
  deriving DecidableEq, Repr

/-- ENG of the tile moves (R199): spaces and the element size, 1, 2, 4 or 8 bytes as its code 0 to 3. -/
structure MvEng where
  ssp : MvSpace
  dsp : MvSpace
  esz : BitVec 2
  deriving DecidableEq, Repr

/-- Accumulator formats AFMT (R253). -/
inductive AFmt where
  | a36 | f32 | f64
  deriving DecidableEq, Repr

/-- ENG of the accumulator instructions (R253). -/
structure AccEng where
  spc : MvSpace
  acc : BitVec 3
  ety : Ty
  afmt : AFmt
  deriving DecidableEq, Repr

/-- An SU frame without OP (R87). -/
structure SuFrame where
  valbase : BitVec 17
  param : BitVec 32
  len : BitVec 32
  segbase : BitVec 17
  crdbase : BitVec 17
  mtsel : BitVec 8
  bcout : Bool
  bcin : Bool
  level : BitVec 3
  redop : BitVec 4
  duppol : BitVec 2
  strict : Bool
  deriving DecidableEq, Repr

/-- An MC frame without OP (R88). -/
structure McFrame where
  wid : BitVec 5
  hgt : BitVec 6
  posx : BitVec 5
  posy : BitVec 6
  kblk : BitVec 8
  boff : BitVec 14
  mxs : Bool
  bty : Ty
  aty : Ty
  acc : BitVec 3
  deriving DecidableEq, Repr

/-- An AG frame without OP (R90). -/
structure AgFrame where
  stride3 : BitVec 32
  stride2 : BitVec 32
  stride1 : BitVec 32
  cnt3 : BitVec 16
  cnt2 : BitVec 16
  cnt1 : BitVec 16
  cnt0 : BitVec 16
  base : BitVec 64
  spc : Space
  ndim : BitVec 2
  ty : Ty
  irel : Bool
  wr : Bool
  deriving DecidableEq, Repr

/-- An MT function frame without OP (R89). -/
structure MtFrame where
  ovfbase : BitVec 32
  limit : BitVec 64
  base : BitVec 64
  param : BitVec 32
  deriving DecidableEq, Repr

/-- What a packet brings (R393): the header fields and the data bytes, lowest first. `flag` is the PTYPE-specific
part: a refusal in a response, the atomic operation's code in an atomic request. A job packet also carries its nonce, and whether its tag holds (R413). `resv` are the reserved bits above
VA. -/
structure Packet where
  src : BitVec 12
  dst : BitVec 12
  hasid : BitVec 16
  tag : BitVec 20
  va : BitVec 57
  jobid : BitVec 32
  flag : BitVec 21
  data : List (BitVec 8)
  nonce : BitVec 96 := 0
  tagOk : Bool := true
  resv : BitVec 7 := 0
  deriving DecidableEq, Repr

/-- A received flit (R389): its trailer fields, whether its CRC holds, and whether the GCM tag of the block that it
closes holds (R412; true for every other flit), and the payload of a circuit flit. -/
structure FlitIn where
  crcOk : Bool
  ack : BitVec 12
  seq : BitVec 12
  ftype : BitVec 4
  nak : Bool
  resv : BitVec 3
  tagOk : Bool
  data : List (BitVec 8)
  deriving DecidableEq, Repr

/-- The steps of the part, one constructor per row of the opcode table, in the table's order. -/
inductive Instr where
  -- integer instructions (R148-R154)
  | add (f : GFields) | sub (f : GFields) | mul (f : GFields) | mulh (f : GFields) | div (f : GFields)
  | rem (f : GFields) | min (f : GFields) | max (f : GFields) | abs (f : GFields) | mad (f : GFields)
  | and (f : GFields) | or (f : GFields) | xor (f : GFields) | not (f : GFields) | andn (f : GFields)
  | shl (f : GFields) | shr (f : GFields) | sra (f : GFields) | rol (f : GFields) | ror (f : GFields)
  | bfx (f : GFields) | bfi (f : GFields) | cmp (f : GFields) (cc : Cc) | sel (f : GFields)
  | adda (f : GFields) | movk (f : KFields) | movkh (f : KFields)
  -- floating-point instructions (R155-R158)
  | fadd (f : GFields) | fsub (f : GFields) | fmul (f : GFields) | fma (f : GFields) | fdiv (f : GFields)
  | fsqrt (f : GFields) | frcp (f : GFields) | frsq (f : GFields) | fexp2 (f : GFields) | flog2 (f : GFields)
  | fsin (f : GFields) | fcos (f : GFields) | ftanh (f : GFields) | fsigm (f : GFields) | fscale (f : GFields)
  | fmin (f : GFields) | fmax (f : GFields) | fabs (f : GFields) | frint (f : GFields)
  | fcmp (f : GFields) (cc : Fcc) | fclass (f : GFields)
  -- lane, bit and mask instructions and conversions (R159-R168)
  | shuf (f : GFields) | bcast (f : GFields) | lred (f : GFields) (op : RedOp) | lscan (f : GFields) (op : RedOp)
  | pack (f : GFields) | unpk (f : GFields) | cmpr (f : GFields) | expd (f : GFields) | clmul (f : GFields)
  | popc (f : GFields) | clz (f : GFields) | ctz (f : GFields) | brev (f : GFields) | mkmsk (f : GFields)
  | mskop (f : GFields) (op : MskOp) | laneid (f : GFields) | cvt (f : GFields) (src : Ty)
  | cvtmx (f : GFields) (op : MxOp)
  -- branches, window access and the rest of group 0x0C0 (R173-R182)
  | br (f : BFields) | bri (f : BFields) | call (f : BFields) | calli (f : BFields) | ret (f : BFields)
  | halt (f : BFields) | read (f : WFields) | write (f : WFields) | null (f : GFields) (form : NullForm)
  | mov (f : GFields) | krd (f : WFields)
  -- memory instructions (R183-R194)
  | ld (f : MFields) | st (f : MFields) | ldx (f : MFields) | stx (f : MFields) | aadd (f : MFields)
  | amin (f : MFields) | amax (f : MFields) | aand (f : MFields) | aor (f : MFields) | axor (f : MFields)
  | axchg (f : MFields) | acas (f : MFields) | afadd (f : MFields) | lde (f : MFields) | ldf (f : MFields)
  | stf (f : MFields) | fence (f : MFields)
  -- engine instructions (R197-R203, R247, R253, R396-R402)
  | tmov (f : EFields) (e : MvEng) | tmovt (f : EFields) (e : MvEng) | tmovc (f : EFields) (e : MvEng)
  | tmove (f : EFields) (e : MvEng) | mgo (f : EFields) (cfg : BitVec 2) (last : Bool)
  | accrd (f : EFields) (e : AccEng) | accwr (f : EFields) (e : AccEng)
  | accclr (f : EFields) (region : Bool) (acc : BitVec 3) (afmt : AFmt)
  | rld (f : EFields) (lsp : MvSpace) | rst (f : EFields) (lsp : MvSpace)
  | ratom (f : EFields) (op : AtomOp) (lsp : MvSpace) | rmst (f : EFields) (lsp : MvSpace)
  | rinv (f : EFields) (lsp : MvSpace) | rfence (f : EFields) | cred (f : EFields) (op : CredOp)
  | cgath (f : EFields) | ca2a (f : EFields) | cbcast (f : EFields) | enop (f : EFields) (q : Qu)
  -- synchronisation and system instructions (R280, R292, R321, R334, R356, R363, R439)
  | barv (f : GFields) | barw (f : GFields) | baraw (f : GFields) | bart (f : GFields) | bari (f : GFields)
  | qput (f : GFields) | qputw (f : GFields) | launch (f : GFields) | spawn (f : GFields) | getsr (f : GFields)
  | setsr (f : GFields) | trap (f : GFields) | tret (f : GFields) | brk (f : GFields) | mcut (f : GFields)
  | evt (f : GFields) | pginv (f : GFields) | pgprobe (f : GFields)
  -- stream-unit operations (R204-R226)
  | scanc (f : SuFrame) | scanb (f : SuFrame) | scand (f : SuFrame) | scanl (f : SuFrame) | skip (g gi tile : Nat)
  | isect (f : SuFrame) | union (f : SuFrame) | merge (f : SuFrame) | gate (f : SuFrame)
  | repeatOp (f : SuFrame) | reduce (f : SuFrame) | filter (f : SuFrame) | split (f : SuFrame) | lwrc (f : SuFrame)
  | lwrb (f : SuFrame) | lwrd (f : SuFrame)
  -- element events of a resident graph (R36, R40, R208)
  | mark (g gi tile port : Nat) | joinCompare (g gi tile : Nat) (upper : Bool) | frameAssign (g gi tile : Nat)
  -- memory-tile operations (R227-R236)
  | aglin (f : AgFrame) | agnd (f : AgFrame) | aggath (f : AgFrame) | agscat (f : AgFrame) | agrange (f : AgFrame)
  | completionToken (g gi tile lane : Nat)
  | mtcmpr (f : MtFrame) | mtexpd (f : MtFrame) | mtown (f : MtFrame) | mtsync (f : MtFrame) | mtinv (f : MtFrame)
  | parkedReaderServed (g gi tile : Nat)
  -- matrix operations (R241-R252)
  | sweep (g gi tile : Nat) | mma (f : McFrame) | mmas (f : McFrame) | mdrain (f : McFrame) | mzero (f : McFrame)
  | mpass (f : McFrame) | kblockAccumulate (g gi tile : Nat)
  -- block and engine events (R129, R169-R176, R195-R198, R237)
  | blockMap (g th : Nat) (exit : BitVec 3) | blockCommit (g th : Nat) | blockIncomplete (g th : Nat)
  | faultReport (g th : Nat) | engineIssue (g th : Nat) (q : Qu) | engineRetire (g th : Nat) (q : Qu)
  | engineStall (g th : Nat) | graphStall (g gi : Nat)
  -- memory and host-path events (R119, R120)
  | servingPointArrival (cl k : Nat) | pcieCompletion (ok : Bool)
  -- queues (R281-R296)
  | doorbell (fn q off size : Nat) (v : BitVec 32) | packetRead (q : Nat) | repoll (q : Nat) | commandStart (q : Nat)
  | nop (q : Nat) | launchCommand (q : Nat) | bararv (q : Nat) | barwt (q : Nat) | kload (q : Nat) | kevict (q : Nat)
  | tstamp (q : Nat) | traceon (q : Nat) | traceoff (q : Nat)
  | qcmdCreate (fn q : Nat) (v : Word) | qcmdReset (fn q : Nat) (v : Word) | qcmdResume (fn q : Nat) (v : Word)
  | qcmdDestroy (fn q : Nat) (v : Word)
  -- contexts (R267-R276)
  | ctxcmdCreate (fn c : Nat) (v : Word) | ctxcmdSuspend (fn c : Nat) (v : Word) | ctxcmdResume (fn c : Nat) (v : Word)
  | ctxcmdDestroy (fn c : Nat) (v : Word) | teardownComplete (c : Nat)
  -- barriers (R328-R340)
  | bcmdCreate (fn b : Nat) (v : Word) | bcmdReset (fn b : Nat) (v : Word) | bcmdDestroy (fn b : Nat) (v : Word)
  | barrierTimeout (b : Nat) | externalArrival (fn b off size : Nat) (v : BitVec 32) (relaxed : Bool)
  | bextdropRead (fn b : Nat)
  -- the Sluice and groups (R306-R326)
  | sluiceDecision (g : Nat) (place : List (Nat × Nat × Nat)) (victims : List Nat) | groupStart (g : Nat)
  | cut (g : Nat) | quiescent (g : Nat) | cutComplete (g : Nat) | saveComplete (g : Nat) | configDrain (g : Nat)
  | groupComplete (g : Nat) | groupPark (g : Nat) | promote (g : Nat) | clusterHold (g : Nat) | budget (g : Nat)
  | deadline (g : Nat) | gangArm (gang : BitVec 32) (midx : Nat) (nmem : BitVec 4) (gto : BitVec 16)
  | gangGo (gang : BitVec 32) | gangGoack (gang : BitVec 32) (midx : Nat) | gangAllgo (gang : BitVec 32)
  | gangAbort (gang : BitVec 32) | gangDone (gang : BitVec 32) (midx : Nat) | gangdone (gang : BitVec 32)
  | gangTimeout (g : Nat) | freezeLine (g : Nat)
  -- pages and registers (R269, R296, R347, R351)
  | pgicmdStart (fn c : Nat) (v : Word) | invalidation (c : Nat) | rpzero (fn die : Nat) (v : Word)
  | rpzeroComplete (die : Nat) | evstatWrite (fn : Nat) (v : Word) | registerWrite (fn off : Nat) (v : Word)
  -- links (R383-R403)
  | lcmdEnable (fn n : Nat) (v : Word) | lcmdDisable (fn n : Nat) (v : Word) | lcmdRetrain (fn n : Nat) (v : Word)
  | linkTrained (n : Nat) (lanes : BitVec 16) (sw : Bool) (peer : BitVec 12) (domainTime : Option (BitVec 64))
  | trainingTimeout (n : Nat) | laneFail (n lane : Nat) | replayLimit (n : Nat) | lreplayRead (fn n : Nat)
  | lresyncRead (fn n : Nat) | flit (n seqn : Nat) (f : FlitIn)
  | creditFlit (n : Nat) (g0 g1 g2 : BitVec 32) | resyncFlit (n : Nat) (g0 g1 g2 r0 r1 r2 : BitVec 32)
  | readRequest (n : Nat) (p : Packet) | readResponse (n : Nat) (p : Packet) | writeRequest (n : Nat) (p : Packet)
  | writeAcknowledgement (n : Nat) (p : Packet) | atomicRequest (n : Nat) (p : Packet) | atomicResponse (n : Nat) (p : Packet)
  | invocation (n : Nat) (p : Packet) | invocationResult (n : Nat) (p : Packet) | circuitSetup (n : Nat) (p : Packet)
  | circuitCompletion (n : Nat) (p : Packet) | collectiveStep (n : Nat) (p : Packet) | planRequest (n : Nat) (p : Packet)
  | plan (n : Nat) (p : Packet) | multicastAcknowledgement (n : Nat) (p : Packet) | requestTimeout (tag : BitVec 20)
  -- trust domains (R404-R419)
  | jcmdOpen (fn j : Nat) (v : Word) | jcmdAttest (fn j : Nat) (v : Word) | jcmdRevoke (fn j : Nat) (v : Word)
  | jcmdClose (fn j : Nat) (v : Word) | spdmResponse (n : Nat) (ok : Bool) (digest : BitVec 512) | spdmTimeout (n : Nat)
  | revokeComplete (n : Nat) | spdmRequest (ide : Bool) (fns : List Nat) | hostLinkFail
  -- debug units and the recorder (R373, R430-R448)
  | dbgcmdAttach (fn u : Nat) (v : Word) | dbgcmdDetach (fn u : Nat) (v : Word) | dbgcmdStop (fn u : Nat) (v : Word)
  | dbgcmdResume (fn u : Nat) (v : Word) | dbgcmdRead (fn u : Nat) (v : Word) | secWdog
  | freezeWave (cl : Nat) (skid : BitVec 6) | capsuleSeal | capcmdExport (fn : Nat) (v : Word) | exportComplete (fn : Nat) (ok : Bool)
  | capcmdAck (fn : Nat) (v : Word) | einjcmdFlip (fn : Nat) (v : Word)
  -- resets, bring-up, power and management (R457-R466)
  | rstcmdWarm (fn : Nat) (v : Word) | reccmdLoad (fn : Nat) (ok : Bool) | functionLevelReset (fn : Nat) | powerGood
  | bringupStep (ok : Bool) (failed : List Nat) (atomok : Bool) | powerLoss | supplySag (cl : Nat) (amount : BitVec 4)
  | droopEpisodeEnd (cl : Nat) | thermal (watts : BitVec 13) (temp : BitVec 8) | throttleClear
  | gatecmdGate (fn : Nat) (v : Word) | gatecmdUngate (fn : Nat) (v : Word) | d3hot | d0 | getstat | getpres
  | setpcap (watts : BitVec 13) | warmrst | mctpControl | beat (g gi ch node : Nat)
  | kernelLoadEnd (c kid : Nat) | peerAttestationRequest (n : Nat) (ok keys : Bool) | hostLinkUp
  | securityViolation (cl : Nat) (detail : BitVec 16)
  deriving DecidableEq, Repr

end Sys2Proof
end

