-- ==== Sys2Proof/Machine/State.lean ====
section
/-! DEFINITION. The state of a Percia 9100 module, as plain data, with everything the manual gives it; the reasons
a step can stop; and the state right after reset.  Objects that exist in fixed numbers with a reset value
(contexts, queues, barriers, links, ...) stand in sparse tables: an entry that is not listed holds its reset value. -/

namespace Sys2Proof.Machine

/-- A sparse table: pairs of a key and an entry, keys rising. -/
abbrev Tab (α : Type) := List (Nat × α)

/-- The hop log of a sampled token (R440, R441): its birth time, its arrival at the element where it is, and for each hop the work name, arrival and departure; at most 32. -/
structure HopLog where
  birth : Nat
  arrived : Nat
  hops : List (Nat × Nat × Nat)
  overflowed : Bool
  deriving DecidableEq, Repr

/-- A token: a 64-bit payload with an 8-bit tag, KIND [7:4], LEVEL [3:1], SAMPLED [0] (R24), and its hop log while it is sampled. -/
structure Token where
  payload : Word
  tag : BitVec 8
  log : Option HopLog
  deriving DecidableEq, Repr

/-! ## Which agent moves next -/

/-- Where an instruction acts: the slot of an in-flight block of a thread, a slot of a CE in a resident graph, the head of
an engine queue, or a configured element (SU, MC, or port lane 0 or 1 or function lane 2 of an MT). -/
inductive Site where
  | none
  | block (g th b slot : Nat)
  | ce (g gi tile frame slot : Nat)
  | engine (g th : Nat) (q : Qu)
  | elem (g gi tile lane : Nat)
  deriving DecidableEq, Repr

/-- A soft error that strikes memory which carries ECC, correctable or `double` (R34, R110, R254): a word of storage, by its flat key divided by 8, a beat
of a channel, an entry of an accumulator, a word of a cluster's ring by its ring index (R429, R433); and a PCIe error that the next read of a table in host memory meets (R350). -/
inductive Upset where
  | word (w : Nat) (double : Bool)
  | channel (g gi ch node : Nat) (double : Bool)
  | accumulator (g tile entry : Nat) (double : Bool)
  | ring (cl index : Nat) (double : Bool)
  | table
  deriving DecidableEq, Repr

/-- What moves next: the word or frame that a site holds, an event of the device or of a party outside it, or a soft error. -/
inductive Act where
  | fire
  | event (i : Instr)
  | upset (u : Upset)
  deriving DecidableEq, Repr

/-- One entry of the agenda: the time that passes before it, in ns of DTIME and in cycles (R7), the site, the act, and which part of it this is: 0 for all that it can do now; otherwise the number of elements that a
move takes, or one more than the entry of an accumulator or the word of a record that an engine or a cell takes (R246, R255); with a message of a gang it is the package that sends it (R325). -/
structure Sched where
  ns : Nat
  cycles : Nat
  site : Site
  act : Act
  part : Nat := 0
  deriving DecidableEq, Repr

/-! ## Blocks and threads -/

/-- The state of an operand entry of a block (R171, R173). -/
inductive BEntry where
  | val (v : Value)
  | void
  deriving DecidableEq, Repr

/-- A fault of a block (R357): the faulting slot if one instruction raised it, the code, the cause, and FLTADDR. -/
structure FaultInfo where
  slot : Option Nat
  code : Nat
  cause : Nat
  wr : Bool
  addr : Nat
  deriving DecidableEq, Repr

/-- A checked store that waits for commit (R175), by flat storage keys (`Ops`), in the order in which its bytes are written; `pages` are the gm pages of
64 KiB that it was checked against (R184). -/
structure PStore where
  pages : List Nat
  seq : Nat
  bytes : List (Nat × Byte)
  rel : Bool
  acq : Bool
  scope : Scope
  deriving DecidableEq, Repr

/-- A captured engine instruction (R195): its word, its operands, the arithmetic enables of its block (R57), the graph whose region it names (R247), and how far it has come. `mark` is the position of a move or the number of an MGO's sweep, `buf` what peers and host atomics
have answered by flat key, `asked` the keys asked for, `parts` the accumulator entries taken ahead of `mark`, with what was read (R255). -/
structure EngEntry where
  word : Word
  slot : Nat
  a : Value
  b : Value
  c : Value
  enables : BitVec 5
  inst : Nat
  blockAddr : Nat
  issued : Bool
  done : Bool
  popped : Bool
  mark : Nat
  buf : List (Nat × Byte)
  asked : List Nat
  parts : Tab Nat
  deriving DecidableEq, Repr

/-- Actions at step 4 of a commit (R175), besides the engine queues. `gen` tells the barrier that was checked from one created later under its number (R336). -/
inductive CommitAct where
  | barv (b gen : Nat)
  | baraw (b gen : Nat)
  | bari (b gen n : Nat)
  | trap (cause : Nat)
  | brk (id : Nat)
  | mcut
  | evt (code : Nat) (payload : Word) (tile : Nat)
  deriving DecidableEq, Repr

/-- What a waiting instruction of a block waits for: a sync word's owner, a barrier phase, room in a queue, a SPAWN's tag or
result, the answers of accesses at host memory or at a peer (what has been read, the mask, answers due, the byte at which the gather was cut, the byte of its first active
element), an invalidation. -/
inductive BWait where
  | reader (g gi tile word : Nat)
  | barw (b phase : Nat)
  | qputw (q : Nat)
  | spawnTag (gi tile : Nat)
  | spawn (gi tile tag : Nat)
  | load (v m : Value) (owed cut first : Nat)
  | pginv (id : Nat)
  deriving DecidableEq, Repr

/-- The kind of branch that a block has produced (R174, R178). -/
inductive BranchKind where
  | br | call | ret | halt
  deriving DecidableEq, Repr

/-- A block in flight (R169-R175). `half` is the block frame 0 or 1 of quad `quad` of the thread's cluster. `reads` are the locations that its loads have read, as storage keys divided by 8 (R119), `spoobs` its
accesses that reached no storage, which are recorded at commit (R104, R170). -/
structure Block where
  addr : Nat
  icnt : Nat
  rdmask : BitVec 32
  wrmask : BitVec 32
  stmask : BitVec 32
  calls : Bool
  rets : Bool
  self : Bool
  words : List Word
  quad : Nat
  half : Nat
  entries : Tab BEntry
  fired : List Nat
  issued : List Nat
  stDone : List Nat
  stDischarged : List Nat
  wrDone : List Nat
  wrDischarged : List Nat
  wrVals : Tab Value
  branch : Option (BranchKind × Nat)
  stores : List PStore
  engines : List EngEntry
  setsrs : List (Nat × Nat × Word)
  actions : List (Nat × CommitAct)
  tret : Option Nat
  ctPop : List Qu
  ctPopped : List Qu
  waits : List (Nat × BWait)
  perf : Bool
  reads : List Nat
  spoobs : List Nat
  flags : BitVec 5
  enables : BitVec 5
  fault : Option FaultInfo
  next : Nat
  deriving DecidableEq, Repr

/-- Whether a thread maps blocks, has committed HALT, or is halted with empty queues (R178). -/
inductive Run where
  | running
  | halting (addr : Nat)
  | halted
  deriving DecidableEq, Repr

/-- A control thread (R169, R179, R195, R196, R279, R360). `callers` holds the half-windows of the caller windows,
the newest first; its length is the depth. `fifos` is keyed 4 × source queue + destination queue. `arrivals` are arrivals that a commit has made and that wait for
earlier stores to perform (barrier, its generation, and whether a BARAW waits), `barWait` the barrier, its generation and the phase of each BARAW that waits, `history` the blocks of which the exit predictor holds a history and `returns` its return stack (R170), `stops` the page faults that stopped engine queues, by queue code (VA, cause, write, order of arrival). -/
structure Thread where
  run : Run
  pc : Nat
  from_ : Nat
  window : List Value
  callers : List (List Value)
  trapMode : Bool
  trapWindow : List Value
  winbase : BitVec 32
  winsize : BitVec 32
  wintop : BitVec 32
  trapvec : BitVec 64
  fltcode : BitVec 32
  fltaddr : BitVec 64
  blocks : List Block
  ctq : List EngEntry
  tmq : List EngEntry
  mxq : List EngEntry
  clq : List EngEntry
  fifos : Tab Nat
  barWait : List (Nat × Nat × Nat)
  arrivals : List (Nat × Nat × Bool)
  history : List Nat
  returns : List Nat
  lastProgress : Nat
  stops : Tab (Nat × Nat × Bool × Nat)
  deriving DecidableEq, Repr

/-! ## Resident graphs -/

/-- A node of a channel's route: a hop, or the buffer of a receiving port when it has a sink (tile, local sink); at most 4
beats at a hop and 16 at a port (R31). `next` names the nodes that a beat moves on to (R33). `kept` counts the beats of the buffer that a fibre kept for Reset fills (R41); `ended` says
that the channel's DONE has entered, `late` that a token has entered after it (R26). -/
structure ChNode where
  beats : List (List Token)
  next : List Nat
  sink : Option (Nat × Nat)
  entered : Nat
  kept : Nat
  ended : Bool
  late : Bool
  deriving DecidableEq, Repr

/-- A channel from a local source of a tile; node 0 is the first place a beat reaches (R29). `sentAt` is the cycle of its last beat. -/
structure Channel where
  tile : Nat
  src : Nat
  roots : List Nat
  nodes : List ChNode
  done : Bool
  sentAt : Option Nat
  unsampled : Nat
  deriving DecidableEq, Repr

/-- A port binding of CE port frame 0 (R85). -/
structure PortBind where
  bound : Bool
  slot : Nat
  opnd : Opnd
  join : Bool
  jact : BitVec 12
  deriving DecidableEq, Repr

/-- A loop counter's configuration (R86). -/
structure Counter where
  start : BitVec 32
  step : BitVec 16
  count : BitVec 32
  deriving DecidableEq, Repr

/-- An operand frame (R35, R36): the iteration it holds, its counter values, its entries, the entries whose producer fired
without sending (R38), and the slots that have fired. -/
structure CeFrame where
  live : Bool
  iter : Nat
  ks : List (BitVec 32)
  wraps : List Nat
  entries : Tab (List Token)
  closed : List Nat
  fired : List Nat
  deriving DecidableEq, Repr

/-- A result that waits for its turn on an output port (R146). -/
structure OutStage where
  port : Nat
  iter : Nat
  slot : Nat
  toks : List Token
  deriving DecidableEq, Repr

/-- One position of a memory node's firing (R183, R185): the token that it resolves to, or an access at the payloads of A, B and C. `owed` counts answers that
are still due, `val` and `mask` hold what it has read, `stop` the page fault that stopped its edge AG (VA, cause, write, order of arrival). -/
structure NodePos where
  src : Token
  access : Bool
  a : Word
  b : Word
  c : Word
  issued : Bool
  owed : Nat
  val : Word
  mask : Word
  stop : Option (Nat × Nat × Bool × Nat)
  deriving DecidableEq, Repr

/-- A firing of a memory node that is under way: its operand frame, slot and positions. -/
structure NodeWait where
  frame : Nat
  slot : Nat
  pos : List NodePos
  deriving DecidableEq, Repr

/-- A configured CE (R35-R41, R84-R86). `dlv` holds the tokens that a join has passed to each port's binding; `fib` the
tokens of the current fibre of a joined side, kept for Reset (R41); `last` its last coordinate; `carry` the tokens left for the next iteration (R38); `rd` how far a side has re-read its fibre; `marks` the cuts for which it has saved; `waits` the
firings of memory nodes that are under way. -/
structure Ce where
  words : List Word
  sloten : BitVec 16
  chain : List Nat
  ports : List PortBind
  counters : List Counter
  stopopt : BitVec 32
  idx : List Nat
  frames : List CeFrame
  nextIter : Nat
  lastFrame : Nat
  noMore : Bool
  doneIn : List Nat
  doneOut : List Nat
  stage : List OutStage
  dlv : List (List Token)
  fib : List (List Token)
  last : List (Option Nat)
  carry : Tab (List Token)
  rd : List Nat
  marks : List Nat
  waits : List NodeWait
  deriving DecidableEq, Repr

/-- States of the gate (R225). -/
inductive GateState where
  | seed | loop | drain | ended
  deriving DecidableEq, Repr

/-- The state that an SU's operation keeps: scanner (R211, R212), joiner (R213, R216), reduce (R219), writers (R222, R223), gate
(R224-R226). `recorded` are the tokens of I1 that the gate has taken in during a cut and has still to handle, `ring` its spill ring as the last cut left it. -/
structure SuState where
  openFib : Option (Nat × Nat × Nat)
  pending : Option Token
  eCount : BitVec 32
  aCount : BitVec 32
  backDone : Bool
  lastA : Option Nat
  lastB : Option Nat
  dupA : Option Token
  dupB : Option Token
  skipOut : Option Nat
  errClose : Bool
  fold : Option Token
  cnt : Nat
  err : Option (BitVec 8)
  openVals : Bool
  n : Nat
  fibre : Nat
  errFibres : Nat
  zeroed : Bool
  gate : GateState
  spill : Nat
  spillHead : Nat
  gateMark : Option Nat
  recorded : List Token
  ring : List Nat
  inDone : List Nat
  marks : List Nat
  ended : Bool
  deriving DecidableEq, Repr

/-- A configured SU: its frame and its operation's state. -/
structure Su where
  frame : Frame
  st : SuState
  deriving DecidableEq, Repr

/-- The state of an address generator (R228-R231): its next element, the elements written, the current range and the one read ahead with their tokens, the first token of its lowest-numbered input and its DONE (R27), the fault
that stopped it (VA, cause, write, order of arrival), the count that it still has to send, its circuit with the bytes not yet in a flit, the results that wait to leave in
order (number, token, whether answered), a refused access as number, PTYPE and packet, the writes that have not performed, and the faults that its translations
ahead of issue have met (page of 64 KiB, cause), held until its elements reach them (R348). -/
structure AgState where
  frame : Frame
  i : List Nat
  ended : Bool
  written : Nat
  range : List (Nat × Nat × Token)
  first : Option Token
  closing : Option Token
  stopped : Option (Nat × Nat × Bool × Nat)
  inDone : Bool
  owed : Option Nat
  run : Nat
  zeroed : Bool
  marks : List Nat
  circuit : Option (Nat × Nat)
  circBuf : List Byte
  refused : Option (Nat × Nat × Packet)
  queue : List (Nat × Token × Bool)
  writesOwed : Nat
  held : List (Nat × Nat)
  deriving DecidableEq, Repr

/-- A parked reader (R192): LDE takes and empties, LDF takes and leaves full; where its value goes; the entry that it takes in the overflow area (R234). -/
structure Reader where
  take : Bool
  entry : Nat
  site : Site
  seq : Nat
  deriving DecidableEq, Repr

/-- A sync word's full/empty state and its readers, on-chip first (R191, R192); `serving` while parked readers are being served. -/
structure SyncWord where
  full : Bool
  readers : List Reader
  overflow : List Reader
  serving : Bool
  deriving DecidableEq, Repr

/-- An outstanding invocation of an MTINV (R235, R322): its tag, and the site or packet that awaits it. -/
structure Invoc where
  tag : Nat
  site : Site
  pos : Nat
  packet : Option (Nat × Packet)
  spawned : Bool
  deriving DecidableEq, Repr

/-- The state of an MT function: sync words by pad byte, invocations outstanding and waiting, a REF seen on I2. -/
structure MtState where
  frame : Frame
  sync : Tab SyncWord
  invs : List Invoc
  waiting : List (Invoc × Word)
  inDone : Bool
  marks : List Nat
  deriving DecidableEq, Repr

/-- A configured MT: its function and its address generators (R227). -/
structure Mt where
  fn : Option MtState
  ag0 : Option AgState
  ag1 : Option AgState
  deriving DecidableEq, Repr

/-- A configured MC (R241-R252): its configurations, the sweeps it has received and completed, those queued (CFG, LAST), the running pass, the configuration
that ran last, its position, the A tokens of a partly received K-block by row, the rows' latched scales, the rows that it has drained and forwarded. -/
structure Mc where
  frames : List (Option Frame)
  rcvd : Nat
  completed : Nat
  sweeps : List (Nat × Bool)
  pass : Option (Nat × Bool)
  lastCfg : Option Nat
  kb : Nat
  row : Nat
  tok : Nat
  arows : List (List Token)
  scales : List (BitVec 8)
  seen : Tab Nat
  drained : Nat
  north : Nat
  aDone : Bool
  lastSeen : Bool
  ended : Bool
  marks : List Nat
  deriving DecidableEq, Repr

/-- A tile of a resident graph: its stage and what it carries (R22, R83). -/
structure Tile where
  stage : Nat
  ce : Option Ce
  su : Option Su
  mt : Option Mt
  mc : Option Mc
  deriving DecidableEq, Repr

/-- A region (R247, R249): the sweeps injected so far (CFG, LAST), and whether an MGO with LAST has entered a queue. Its key is the tile of its cell (0, 0). -/
structure RegionState where
  injected : List (Nat × Bool)
  lastQueued : Bool
  deriving DecidableEq, Repr

/-- A resident graph: its directory index, a number of its own, its tiles by logical address, its channels, its regions, and stall counting (R237). -/
structure Graph where
  dir : Nat
  inst : Nat
  tiles : Tab Tile
  chans : List Channel
  regions : Tab RegionState
  enables : BitVec 5
  lastMove : Nat
  stalled : Bool
  deriving DecidableEq, Repr

/-- The part of a group that a cut saves and a rollback restores (R317, R370): threads (4 × rank + thread), graphs, the LFSR of
every CE by logical tile (R54), and the accumulators by logical tile and entry 1024 × acc + 32 × row + column (R242, R254). -/
structure Image where
  threads : Tab Thread
  graphs : Tab Graph
  lfsr : Tab (BitVec 32)
  accs : Tab (Tab (BitVec 36))
  deriving DecidableEq, Repr

/-! ## Groups and the Sluice -/

/-- The states of a launch or group (R311). -/
inductive GState where
  | admitted | armed | running | parked | cutting | saved | stopped
  deriving DecidableEq, Repr

/-- Why a cut runs (R317, R367, R445): pre-emption, SUSPEND, a debugger stop, a checkpoint. -/
inductive CutWhy where
  | preempt | suspend | debug | check
  deriving DecidableEq, Repr

/-- What wakes a SAVED group (R320, R353): a sync word (group, tile, pad byte), a barrier, a queue, a faulting VA of its context. -/
inductive WakeOn where
  | word (g tile byte : Nat)
  | barrier (b : Nat)
  | queue (q : Nat)
  | page (va : Nat)
  deriving DecidableEq, Repr

/-- A gang member's progress (R325, R326); `pkgs` the packages of the other members that its messages have told, by member. -/
structure Gang where
  id : BitVec 32
  nmem : Nat
  midx : Nat
  gto : Nat
  timerStart : Nat
  go : Bool
  allgo : Bool
  arms : List Nat
  goacks : List Nat
  dones : List Nat
  done : Bool
  pkgs : Tab Nat
  deriving DecidableEq, Repr

/-- An admitted launch or a group (R285, R302, R306-R320). `place` gives, for each logical die, its physical die, DY and DX.
`effClass` is the effective class, `key` the urgency key, `startOrder` the order of start, `held` the freed clusters held for it (R315), `ending` the STATUS and DETAIL with
which it ends once its stores have performed; `savedSpaces` the bytes of its spaces by offset in its save area, `area` that area's HBM address, `areaCells` what stood there after
the save, `saving` a cut that is complete and whose save is under way, `fpRaised` a cycle and the flags that firings raised in it (R146), `seedPlace` the place at which its LFSRs were seeded (R54), `windows` the words w1 to w31 that its placement read (R308). -/
structure Group where
  ctx : Nat
  queue : Nat
  seq : Nat
  kid : Nat
  entry : Nat
  ncl : Nat
  dl : Nat
  budget : Nat
  srseed : BitVec 32
  dpbase : Nat
  dpsize : Nat
  args : List Word
  windows : List Value
  gang : Option Gang
  state : GState
  effClass : Nat
  key : Nat
  startTime : Nat
  startOrder : Nat
  waitStart : Nat
  place : Tab (Nat × Nat × Nat)
  config : Nat
  loaded : Bool
  started : Bool
  cutNo : Nat
  cutWhy : Option CutWhy
  saving : Bool
  marksGo : Bool
  markStill : Bool
  image : Image
  rollback : Option (Nat × Image)
  rollbackUsed : Bool
  ckptUnits : Nat
  poolUnits : Nat
  savedSpaces : List (Nat × Byte)
  area : Option Nat
  areaCells : List (Nat × Byte)
  seedPlace : Tab (Nat × Nat × Nat)
  wakes : List WakeOn
  runnable : Bool
  idleSince : Nat
  freeze : Option FaultInfo
  fpctl : BitVec 32
  fpRaised : Nat × BitVec 32
  streamerr : BitVec 32
  mstat : BitVec 32
  stallcyc : Nat
  samprate : Nat
  budgetUsed : Nat
  placedTime : Nat
  missed : Bool
  held : Option (BitVec 288)
  skids : Tab Nat
  frozenAt : Nat
  drove : List Nat
  stopHeld : Bool
  ending : Option (Nat × Nat)
  deriving DecidableEq, Repr

/-! ## Contexts, queues, barriers, kernels -/

/-- Context states (R270). -/
inductive CtxSt where
  | free | opened | active | switching | suspended | closing
  deriving DecidableEq, Repr

/-- An invalidation waiting or running (R351): VA, n, and who waits for it (a PGICMD, or a PGINV numbered by its id). -/
structure Inval where
  va : Nat
  n : Nat
  pginv : Option Nat
  started : Bool
  deriving DecidableEq, Repr

/-- A trace session (R442): its buffer, its size, bytes written, records dropped. -/
structure Trace where
  buf : Nat
  size : Nat
  written : Nat
  dropped : Nat
  opened : Nat
  deriving DecidableEq, Repr

/-- A context slot (R267-R279, R355, R404). -/
structure Context where
  st : CtxSt
  busy : Bool
  err : BitVec 8
  owner : BitVec 6
  tenant : BitVec 12
  asid : BitVec 16
  conf : Bool
  maxcl : BitVec 9
  maxdp : BitVec 14
  csabase : BitVec 64
  csasize : BitVec 24
  ptroot : BitVec 64
  pgiva : BitVec 64
  pgilen : BitVec 32
  pgidone : BitVec 32
  invals : List Inval
  nextInval : Nat
  ctxjob : BitVec 33
  stallcyc : BitVec 32
  samprate : BitVec 32
  dbgcons : BitVec 32
  ctime : Nat
  creates : Nat
  destroyDuringSwitch : Bool
  suspended : List Nat
  saveCells : Option (List (Nat × Byte))
  trace : Option Trace
  deriving DecidableEq, Repr

/-- Queue states (R282). -/
inductive QueueSt where
  | free | idle | active | stalled | resetting
  deriving DecidableEq, Repr

/-- A started command that has not completed: its SEQ, TYPE and packet, and where its record goes (context, completion ring, slots) whatever becomes of its queue (R295). A later
CREATE of the queue adds 2^32 to the SEQ of a command that still runs, which tells it from the new ones. -/
structure Cmd where
  seq : Nat
  typ : Nat
  words : List Word
  ring : Nat × Nat × Nat
  deriving DecidableEq, Repr

/-- A queue (R281-R296). `destroying` says that a reset ends in FREE, `resetCode` which event ends it (R296; 0 none). `head` is the head packet once it has read valid; `polls` the re-polls already made, with the time of the first read (R290). -/
structure Queue where
  st : QueueSt
  err : BitVec 8
  cfg : BitVec 64
  qbase : BitVec 64
  cqbase : BitVec 64
  pidx : BitVec 32
  cidx : BitVec 32
  head : Option (List Word)
  polls : Option (Nat × Nat)
  cmds : List Cmd
  waiters : List (Nat × Nat)
  destroying : Bool
  resetCode : Nat
  deriving DecidableEq, Repr

/-- Barrier states (R328). -/
inductive BarSt where
  | free | opened | broken
  deriving DecidableEq, Repr

/-- A barrier (R328, R329); `armedTmo` is the timeout that the running timer took at its start, `cmd` a command that runs (BUSY: the
function that wrote it, its code and the word), `gen` counts its creations, `due` says that its phase is complete but for stores to the host that
have still to perform (R332). -/
structure Barrier where
  st : BarSt
  cmd : Option (Nat × Nat × Word)
  gen : Nat
  due : Bool
  err : BitVec 8
  cfg : BitVec 64
  tmo : BitVec 32
  armedTmo : Nat
  timer : Option Nat
  phase : BitVec 32
  arrived : Nat
  extdrop : BitVec 32
  parties : List Nat
  deriving DecidableEq, Repr

/-- Kernel states (R304). -/
inductive KerSt where
  | loading | resident | evicting
  deriving DecidableEq, Repr

/-- A kernel of the configuration cache (R297-R304): its first cache unit, its units, the queue and SEQ of the KLOAD or KEVICT that is running, and the words of 8 bytes that a load has copied so far
ahead of the rest (R301). -/
structure Kernel where
  ctx : Nat
  kid : Nat
  st : KerSt
  base : Nat
  units : Nat
  imgaddr : Nat
  imglen : Nat
  report : Nat
  cmd : Option (Nat × Nat)
  unload : Bool
  copied : List Nat
  deriving DecidableEq, Repr

/-- What a function has of its own: the event ring (R296) and the capsule registers (R437) with the view that an EXPORT is writing (full, tenant, destination), and whether an IDE selective stream covers it (R272). -/
structure Fn where
  evbase : BitVec 64
  evsize : BitVec 5
  evprod : BitVec 32
  evcons : BitVec 32
  ovf : Bool
  capErr : BitVec 8
  capBusy : Bool
  capbuf : BitVec 64
  caplen : BitVec 32
  capdone : BitVec 32
  exportWhat : Option (Bool × Nat × Nat)
  ide : Bool
  deriving DecidableEq, Repr

/-! ## Accesses, links and jobs -/

/-- A store in a cluster's edge-AG write queue (R118, R120), by flat storage keys, with its party (group, thread or chain), whether a release holds it and
at which scope, whether later accesses wait for it (an acquire, R125), whether it is a release store to a scratchpad, which no other party sees in the queue, whether it has been sent to
its peer and waits for the acknowledgement, and the node position that awaits its performing. -/
structure WqEntry where
  bytes : List (Nat × Byte)
  party : Nat × Nat
  rel : Bool
  acq : Bool
  pad : Bool
  sent : Bool
  scope : Scope
  note : Option (Site × Nat)
  deriving DecidableEq, Repr

/-- Where the answer of an outstanding access goes. -/
inductive Dest where
  | load (site : Site) (pos byte len : Nat)
  | atomic (site : Site) (pos w : Nat)
  | store (party : Nat × Nat) (note : Option (Site × Nat))
  | engine (g th : Nat) (q : Qu) (key : Nat)
  | multicast (g th m : Nat)
  | rinv (g th : Nat)
  | ag (g gi tile lane id : Nat)
  deriving DecidableEq, Repr

/-- An access that is outstanding at host memory or at a peer: the packet sent, its time, and where its answer goes. -/
structure Req where
  tag : Nat
  ptype : Nat
  home : Nat
  pkt : Packet
  sent : Nat
  link : Nat
  dest : Dest
  deriving DecidableEq, Repr

/-- A request on the PCIe link, in order (R120, R134, R135): a posted write, a read, an AtomicOp. -/
inductive Pcie where
  | write (bytes : List (Nat × Byte)) (party : Nat × Nat) (note : Option (Site × Nat))
  | read (key len : Nat) (dest : Dest)
  | atomic (key w : Nat) (op : AtomOp) (b c : Word) (dest : Dest)
  deriving DecidableEq, Repr

/-- Link states (R384). -/
inductive LinkSt where
  | down | training | up | attesting | trusted | failed
  deriving DecidableEq, Repr

/-- A flit sequence (R387-R390): the next SEQ to send, the SEQ of the next flit to accept, the flits awaiting acknowledgement with their resend counts. -/
structure FlitSeq where
  txSeq : BitVec 12
  rxSeq : BitVec 12
  replay : List (Nat × Nat)
  nakOwed : Bool
  deriving DecidableEq, Repr

/-- A link (R383-R392, R405). `granted` and `sent` are the sender's counts by class; `rgranted` and `rcount` the receiver's. -/
structure Link where
  st : LinkSt
  busy : Bool
  err : BitVec 8
  lanes : BitVec 16
  peersw : Bool
  peer : BitVec 12
  atomok : Bool
  replayed : BitVec 32
  crcFail : BitVec 32
  resyncs : BitVec 32
  circuits : BitVec 6
  holders : Tab (Nat × Nat × Nat × Nat)
  jobSlot : Nat
  heldBy : Bool
  epoch : BitVec 16
  trainStart : Nat
  attestStart : Nat
  attestJob : Option Nat
  peerKeys : Bool
  ownKeys : Bool
  revoking : Bool
  packetGroups : BitVec 8
  seqs : Tab FlitSeq
  granted : List (BitVec 32)
  sent : List (BitVec 32)
  rgranted : List (BitVec 32)
  rcount : List (BitVec 32)
  accepted : Nat
  deriving DecidableEq, Repr

/-- The home side of a circuit (R388): its link and lane group, the AG frame, the requester's package, HASID, JOBID and TAG, the index of the next element, the elements served, the bytes that
have not filled an element or a flit, whether the stream has ended, and whether an element was refused. -/
structure HomeCirc where
  link : Nat
  lg : Nat
  frame : Frame
  src : Nat
  hasid : Nat
  jobid : Nat
  tag : Nat
  i : List Nat
  count : Nat
  buf : List Byte
  ended : Bool
  bad : Bool
  deriving DecidableEq, Repr

/-- Job-slot states (R405). -/
inductive JobSt where
  | free | opened | closing
  deriving DecidableEq, Repr

/-- A job slot (R405-R408): the manifest's entries as reference digest, SWITCH and REDUCE. -/
structure Job where
  st : JobSt
  busy : Bool
  err : BitVec 8
  jobid : BitVec 32
  keyblob : BitVec 64
  manbase : BitVec 64
  manlen : BitVec 24
  key : Option (BitVec 256)
  entries : List (BitVec 512 × Bool × Bool)
  trusted : BitVec 36
  reducers : BitVec 36
  cmdFn : Nat
  deriving DecidableEq, Repr

/-- A meeting of a collective (R400-R402, R415): its job, COMMID and number; the local group, thread, rank and collective at the head of the CL queue, once it has issued; by rank,
the parameters (`heads`: OP, TY, SUBOP and NRANK, COUNT, ROOT, then the member list), the source elements, and the switches named in plan requests; the HASIDs under which steps
came; the plan; the CAUSE of a failure, or 0. -/
structure Meeting where
  job : Nat
  commid : Nat
  num : Nat
  own : Option (Nat × Nat)
  rank : Nat
  heads : Tab (List Nat)
  src : Tab (List Nat)
  reqs : Tab (List Nat)
  asids : List Nat
  plan : Option Nat
  failed : Nat
  deriving DecidableEq, Repr

/-- A cached translation (R348, R349): context, first VA of the page, its size, the leaf. -/
structure Extent where
  ctx : Nat
  base : Nat
  size : Nat
  leaf : Word
  deriving DecidableEq, Repr

/-! ## The recorder, the capsule and debug units -/

/-- A cluster's own state: its Cistern ring (oldest first) with its queue and drop counts, its place in the freeze wave, its
droop episode, and its edge-AG write queue. -/
structure Cluster where
  ring : List (BitVec 128)
  ringBase : Nat
  hurt : List Nat
  ringq : List (BitVec 128)
  lostTok : Nat
  lostUsr : Nat
  lastTime : Option Nat
  frozen : Option (Nat × Nat)
  droopCycles : Nat
  droopMax : Nat
  droopClean : Nat
  droopNow : Nat
  writeq : List WqEntry
  deriving DecidableEq, Repr

/-- The freeze wave (R430-R432): the fault code, the origin cluster or H-die 0, the work name, the time, and the clusters still to come in visiting order (288 is H-die 0). -/
structure Wave where
  code : Nat
  origin : Option Nat
  work : Nat
  time : Nat
  todo : List Nat
  next : Nat
  hub : Bool
  deriving DecidableEq, Repr

/-- The capsule reserve (R433-R437). A section keeps the sealed records of a cluster with ANCHOR, sequence number and skid;
contexts keep the context table of R434. -/
structure Capsule where
  held : Bool
  sealing : Bool
  cseq : BitVec 32
  cause : BitVec 64
  ftime : Nat
  stime : Nat
  presentMap : BitVec 288
  sections : Tab (List (BitVec 128) × Nat × Nat × Nat)
  contexts : Tab (Nat × Nat)
  lost : BitVec 16
  resetPending : Bool
  deriving DecidableEq, Repr

/-- Debug-unit states (R444). -/
inductive DbgSt where
  | free | attached | stopping | stopped
  deriving DecidableEq, Repr

/-- A debug unit (R444). -/
structure Dbg where
  st : DbgSt
  err : BitVec 8
  why : Nat
  trigIdx : Nat
  trigWork : Nat
  grp : BitVec 64
  sel : BitVec 64
  data : BitVec 64
  hit : BitVec 64
  cutNo : BitVec 32
  wpcfg : Tab Word
  wpaddr : Tab Word
  brkid : Word
  brken : BitVec 4
  tbcfg : Tab Word
  tbcnt : Tab Word
  deriving DecidableEq, Repr

/-! ## The module -/

/-- DEVSTAT's states (R458). -/
inductive DevSt where
  | booting | ready | recovery | frozen | failed
  deriving DecidableEq, Repr

/-- The state of the module. -/
structure State where
  -- the model's own: who moves next, and a counter of fresh numbers
  agenda : List Sched
  site : Site
  part : Nat
  fresh : Nat
  -- time
  dtime : Nat
  cycle : Nat
  -- storage
  mem : List Host.Cell
  poison : List Nat
  soft : List Nat
  ownerWrites : List (Nat × Nat × Nat)
  tableError : Nat
  pcie : List Pcie
  -- bring-up, resets, power
  power : Bool
  dev : DevSt
  bootStep : Nat
  booterr : BitVec 8
  fatal : BitVec 8
  dstate : Nat
  present : BitVec 288
  gated : BitVec 288
  recaddr : BitVec 64
  reclen : BitVec 24
  pcap : BitVec 13
  watts : BitVec 13
  junction : BitVec 8
  level : Nat
  clearSince : Option Nat
  gateErr : BitVec 8
  -- clusters and the recorder
  clusters : Tab Cluster
  wave : Option Wave
  capsule : Capsule
  -- functions and objects
  fns : Tab Fn
  contexts : Tab Context
  queues : Tab Queue
  barriers : Tab Barrier
  ccbase : BitVec 64
  ccsize : BitVec 20
  kernels : List Kernel
  -- the Sluice
  prbase : BitVec 64
  prsize : BitVec 24
  clscfg : List Word
  nextGrp : BitVec 16
  startCount : Nat
  groups : Tab Group
  -- pages
  rpcfg : Tab (BitVec 28)
  rpzero : Tab (Nat × Nat)
  extents : Tab (List Extent)
  -- links and jobs
  pkgid : BitVec 12
  rtab : Tab (BitVec 36)
  links : Tab Link
  jobs : Tab Job
  reqs : List Req
  outbox : List (Nat × Nat × Packet)
  pairCounts : Tab Nat
  nonces : Tab (List Nat)
  meetings : List Meeting
  collCounts : Tab Nat
  hcircs : List HomeCirc
  earlyArms : List (BitVec 32 × Nat × BitVec 4 × BitVec 16 × BitVec 12)
  -- debug and injection
  dbgs : Tab Dbg
  einjoff : BitVec 64
  einjerr : BitVec 8
  einjcount : BitVec 32
  -- the model's own: the last response to the management controller (R466)
  mctpReply : List Word
  -- whether an Erdor link has trained since power-good or a warm reset (R457); whether entry to D3hot has begun (R464)
  timeJoined : Bool
  d3Pending : Bool
  deriving DecidableEq, Repr

/-! ## Reset values -/

def Image.empty : Image := { threads := [], graphs := [], lfsr := [], accs := [] }

/-- A context slot at reset (R270, R279, R355, R404). -/
def Context.reset : Context :=
  { st := .free, busy := false, err := 0, owner := 0, tenant := 0, asid := 0, conf := false, maxcl := 0, maxdp := 0
    csabase := 0, csasize := 0, ptroot := 0, pgiva := 0, pgilen := 0, pgidone := 0, invals := [], nextInval := 0
    ctxjob := 0, stallcyc := 0x100000, samprate := 0, dbgcons := 0, ctime := 0, creates := 0, destroyDuringSwitch := false
    suspended := [], saveCells := none, trace := none }

/-- A queue at reset (R282). -/
def Queue.reset : Queue :=
  { st := .free, err := 0, cfg := 0, qbase := 0, cqbase := 0, pidx := 0, cidx := 0, head := none, polls := none
    cmds := [], waiters := [], destroying := false, resetCode := 0 }

/-- A barrier at reset (R329). -/
def Barrier.reset : Barrier :=
  { st := .free, cmd := none, gen := 0, due := false, err := 0, cfg := 0, tmo := 0, armedTmo := 0, timer := none, phase := 0, arrived := 0, extdrop := 0
    parties := [] }

/-- A function's own registers at reset (R296, R437). -/
def Fn.reset : Fn :=
  { evbase := 0, evsize := 0, evprod := 0, evcons := 0, ovf := false, capErr := 0, capBusy := false, capbuf := 0
    caplen := 0, capdone := 0, exportWhat := none, ide := false }

/-- A link at reset (R384, R405). Lane groups 6 and 7 are the packet channel (R387). -/
def Link.reset : Link :=
  { st := .down, busy := false, err := 0, lanes := 0, peersw := false, peer := 0, atomok := false, replayed := 0, crcFail := 0
    resyncs := 0, circuits := 0, holders := [], jobSlot := 0, heldBy := false, epoch := 0, trainStart := 0, attestStart := 0
    attestJob := none, peerKeys := false, ownKeys := false, revoking := false, packetGroups := 0xC0, seqs := []
    granted := [0, 0, 0], sent := [0, 0, 0], rgranted := [0, 0, 0], rcount := [0, 0, 0], accepted := 0 }

/-- A job slot at reset (R405). -/
def Job.reset : Job :=
  { st := .free, busy := false, err := 0, jobid := 0, keyblob := 0, manbase := 0, manlen := 0, key := none, entries := []
    trusted := 0, reducers := 0, cmdFn := 0 }

/-- A cluster's own state at reset. -/
def Cluster.reset : Cluster :=
  { ring := [], ringBase := 0, hurt := [], ringq := [], lostTok := 0, lostUsr := 0, lastTime := none, frozen := none, droopCycles := 0, droopMax := 0
    droopClean := 0, droopNow := 0, writeq := [] }

/-- A debug unit at reset (R444). -/
def Dbg.reset : Dbg :=
  { st := .free, err := 0, why := 0, trigIdx := 0, trigWork := 0, grp := 0, sel := 0, data := 0, hit := 0, cutNo := 0
    wpcfg := [], wpaddr := [], brkid := 0, brken := 0, tbcfg := [], tbcnt := [] }

/-- The capsule reserve of a part that holds no capsule. -/
def Capsule.empty : Capsule :=
  { held := false, sealing := false, cseq := 0, cause := 0, ftime := 0, stime := 0, presentMap := 0, sections := []
    contexts := [], lost := 0, resetPending := false }

/-- CLSCFG0 to CLSCFG3 at reset (R314): IMPL in [31:0], PROMOTE in [47:32], SLACKMIN in [63:48]. -/
def clscfgReset : List Word :=
  [0x00C8_0000_0000_03E8, 0x00C8_0000_0000_3E80, 0x00C8_03E8_000F_4240, 0x00C8_2710_0393_8700]

/-- The module right after reset: power is good, DTIME is 0 and bring-up stands before its step 1 (R457). (Model: DEDUCED, unsafe, DESIGN CHOICE, unsafe: notes/assumptions 4, 82) -/
def State.reset : State :=
  { agenda := [], site := .none, part := 0, fresh := 0, dtime := 0, cycle := 0, mem := [], poison := [], soft := [], ownerWrites := [], tableError := 0, pcie := [], power := true
    dev := .booting, bootStep := 1, booterr := 0, fatal := 0, dstate := 0, present := 0, gated := 0, recaddr := 0, reclen := 0
    pcap := 0x15E0, watts := 0, junction := 0, level := 0, clearSince := none, gateErr := 0
    clusters := [], wave := none, capsule := Capsule.empty, fns := [], contexts := [], queues := [], barriers := []
    ccbase := 0, ccsize := 0, kernels := [], prbase := 0, prsize := 0, clscfg := clscfgReset, nextGrp := 0, startCount := 0
    groups := [], rpcfg := [], rpzero := [], extents := [], pkgid := 0, rtab := [], links := [], jobs := [], reqs := [], outbox := []
    pairCounts := [], nonces := [], meetings := [], collCounts := [], hcircs := [], earlyArms := [], dbgs := [], einjoff := 0, einjerr := 0, einjcount := 0, mctpReply := [], timeJoined := false, d3Pending := false }

/-! ## Why a step can stop -/

/-- Faults that would stop the model. There is none: the manual gives every fault of the device an outcome (a handler entry, a
stopped element, the freeze line, a fatal freeze), and each of those is a next state here. -/
inductive Fault where
  deriving DecidableEq, Repr

/-- Refusals. -/
inductive Refusal where
  /-- Raised by a dispatch arm whose instruction has no meaning yet. Safe. -/
  | notModelled (mnemonic : String)
  deriving DecidableEq, Repr

end Sys2Proof.Machine
end

