-- ==== Sys2Proof/Machine/Bits.lean ====
section
/-! DEFINITION. Bit fields, lanes and elements of values, byte order, sparse tables, and lists by position: the plain helpers of
every meaning. -/

namespace Sys2Proof.Machine

/-! ## Bit patterns -/

/-- The w-bit pattern of x modulo 2^w: LOW of R63. -/
def low (w : Nat) (x : Int) : BitVec w := BitVec.ofInt w x

/-- Replace bits [lo+len-1:lo] of v by x. -/
def setField {w : Nat} (v : BitVec w) (lo len x : Nat) : BitVec w :=
  let m := BitVec.ofNat w ((2 ^ len - 1) <<< lo)
  (v &&& ~~~m) ||| (BitVec.ofNat w ((x % 2 ^ len) <<< lo))

/-- SEXT of the low n bits of x (R63). -/
def sext (x n : Nat) : Int :=
  if n = 0 then 0
  else if (x % 2 ^ n) < 2 ^ (n - 1) then ((x % 2 ^ n : Nat) : Int) else ((x % 2 ^ n : Nat) : Int) - 2 ^ n

def boolBit (b : Bool) : Nat := if b then 1 else 0

/-- All ones or zero, the result of a comparison. -/
def mask (w : Nat) (b : Bool) : BitVec w := if b then BitVec.allOnes w else 0

/-- The width of an element type in bits (R44); a36 stands in its 64-bit container. -/
def Ty.width : Ty → Nat
  | .i8 | .n8 | .e4 | .e5 => 8
  | .i16 | .n16 | .bf16 | .f16 => 16
  | .i32 | .n32 | .f32 => 32
  | .i64 | .n64 | .f64 | .a36 => 64
  | .f4 => 4

/-- Whether a type is an integer type. -/
def Ty.isInt : Ty → Bool
  | .i8 | .n8 | .i16 | .n16 | .i32 | .n32 | .i64 | .n64 => true
  | _ => false

/-- Whether a type is a signed integer type (R45). -/
def Ty.isSigned : Ty → Bool
  | .i8 | .i16 | .i32 | .i64 => true
  | _ => false

/-- Elements per value (R44). -/
def Ty.count (t : Ty) : Nat := 1024 / Ty.width t

/-- Elements per lane. -/
def Ty.perLane (t : Ty) : Nat := 64 / Ty.width t

/-! ## Lanes and elements -/

/-- Lane i of a value (R4). -/
def lane (v : Value) (i : Nat) : Word := v.extractLsb' (64 * i) 64

/-- A value from its lanes. -/
def ofLanes (f : Nat → Word) : Value :=
  BitVec.ofNat 1024 ((List.range 16).foldl (fun a i => a + (f i).toNat * 2 ^ (64 * i)) 0)

/-- Every lane the same. -/
def splat (x : Word) : Value := ofLanes fun _ => x

/-- Lane 0 alone, the other lanes zero. -/
def lane0 (x : Word) : Value := x.setWidth 1024

/-- Element j of width w of a bit pattern, as a number: ELEM of R63. -/
def elem {n : Nat} (v : BitVec n) (w j : Nat) : Nat := fieldOf v (w * j) w

/-- Element j of a type as a compute instruction reads it: ELEM, of which a36 has bits [35:0] of its container and the others are ignored (R44, R47). -/
def elemTy {n : Nat} (t : Ty) (v : BitVec n) (j : Nat) : Nat := if t = .a36 then elem v 64 j % 2 ^ 36 else elem v (Ty.width t) j

/-- A pattern of n elements of width w, packed upward from bit 0 (R44). -/
def ofElems (size w n : Nat) (f : Nat → Nat) : BitVec size :=
  BitVec.ofNat size ((List.range n).foldl (fun a j => a + (f j % 2 ^ w) * 2 ^ (w * j)) 0)

/-- The same from a list. -/
def packList (size w : Nat) (l : List Nat) : BitVec size :=
  BitVec.ofNat size (l.foldr (fun x a => x % 2 ^ w + a * 2 ^ w) 0)

/-- The carry-less product of two numbers (R165). -/
def clmulNat (w a b : Nat) : Nat :=
  (List.range w).foldl (fun acc k => if a.testBit k then acc ^^^ (b <<< k) else acc) 0

/-- Number of set bits among the low w. -/
def popCount (w x : Nat) : Nat := (List.range w).foldl (fun a k => a + boolBit (x.testBit k)) 0

/-- Index of the lowest set bit below w, or w. -/
def lowestBit (w x : Nat) : Nat := ((List.range w).find? (fun k => x.testBit k)).getD w

/-- Zero bits above the highest set bit of a w-bit pattern. -/
def leadingZeros (w x : Nat) : Nat := if x % 2 ^ w = 0 then w else w - 1 - Nat.log2 (x % 2 ^ w)

/-- The low w bits in reverse order. -/
def reverseBits (w x : Nat) : Nat := (List.range w).foldl (fun a k => a + boolBit (x.testBit k) * 2 ^ (w - 1 - k)) 0

/-! ## Bytes -/

/-- The n bytes of a number, lowest first (R4). -/
def bytesOf (n x : Nat) : List Byte := (List.range n).map fun i => BitVec.ofNat 8 (x >>> (8 * i))

/-- The number that bytes hold, lowest first (R4). -/
def natOfBytes (l : List Byte) : Nat := l.foldr (fun b a => b.toNat + 256 * a) 0

/-! ## Sparse tables -/

/-- The entry at key k, or the given reset value. -/
def Tab.get {α : Type} (t : Tab α) (k : Nat) (dflt : α) : α :=
  match t with
  | [] => dflt
  | (j, x) :: r => if j = k then x else Tab.get r k dflt

/-- The entry at key k, if there is one. -/
def Tab.get? {α : Type} (t : Tab α) (k : Nat) : Option α :=
  match t with
  | [] => none
  | (j, x) :: r => if j = k then some x else Tab.get? r k

/-- Write the entry at key k, keeping the keys rising. -/
def Tab.set {α : Type} (t : Tab α) (k : Nat) (x : α) : Tab α :=
  match t with
  | [] => [(k, x)]
  | (j, y) :: r => if k < j then (k, x) :: (j, y) :: r else if j = k then (k, x) :: r else (j, y) :: Tab.set r k x

/-- Remove the entry at key k. -/
def Tab.erase {α : Type} (t : Tab α) (k : Nat) : Tab α := t.filter fun p => p.1 != k

/-- Change an entry that is there. -/
def Tab.modify {α : Type} (t : Tab α) (k : Nat) (f : α → α) : Tab α :=
  t.map fun p => if p.1 = k then (p.1, f p.2) else p

/-- Change every entry. -/
def Tab.mapVals {α β : Type} (t : Tab α) (f : Nat → α → β) : Tab β := t.map fun p => (p.1, f p.1 p.2)

/-! ## Lists by position -/

/-- Change the element at a position. -/
def modAt {α : Type} (l : List α) (i : Nat) (f : α → α) : List α :=
  match l, i with
  | [], _ => []
  | x :: r, 0 => f x :: r
  | x :: r, n + 1 => x :: modAt r n f

/-- Remove the element at a position. -/
def eraseAt {α : Type} (l : List α) (i : Nat) : List α := l.take i ++ l.drop (i + 1)

/-- Whether a number is in a list. -/
def has (l : List Nat) (n : Nat) : Bool := l.any (· == n)

/-- The smallest number of a list. -/
def minOf? (l : List Nat) : Option Nat := l.foldl (fun a x => match a with | none => some x | some y => some (min x y)) none

end Sys2Proof.Machine
end

