-- ==== Sys2Proof/Machine/OpTable.lean ====
section
/-! DEFINITION. The opcode map (R75) with what each opcode's row of its chapter accepts (R141-R203, R247, R253, R280, R292, R321,
R334, R356, R363, R396, R399, R439), and the correspondence of the instruction words' constructors with opcode, sub-op and X-field format. -/

namespace Sys2Proof.Machine

/-- The X-field formats (R64). -/
inductive Fmt where
  | g | m | b | k | w | e
  deriving DecidableEq, Repr

/-- Whether a row takes the immediate form: never, as a choice, or always (R68). -/
inductive ImmUse where
  | no | opt | must
  deriving DecidableEq, Repr

/-- What an opcode's row accepts. `subs` is the number of sub-op codes of an opcode marked S; `q` the queue of an E-format opcode. -/
structure Row where
  fmt : Fmt
  inB : Bool
  inG : Bool
  tys : List Ty
  a : Bool
  b : Bool
  c : Bool
  imm : ImmUse
  subs : Option Nat
  rnd : Bool
  sat : Bool
  na : Bool
  nb : Bool
  nc : Bool
  tmin : Nat
  tmax : Nat
  q : Qu
  deriving DecidableEq, Repr

/-- A row that accepts nothing beyond its opcode: both modes, no TY, no entries, no immediate, up to two targets. -/
def Row.base (fmt : Fmt) : Row :=
  { fmt := fmt, inB := true, inG := true, tys := [.i8], a := false, b := false, c := false, imm := .no, subs := none, rnd := false
    sat := false, na := false, nb := false, nc := false, tmin := 0, tmax := 2, q := .ct }

/-- The TY sets of R147. -/
def tyInt : List Ty := [.i8, .n8, .i16, .n16, .i32, .n32, .i64, .n64]
def tyIS : List Ty := [.i8, .i16, .i32, .i64]
def tyInt16 : List Ty := [.i16, .n16, .i32, .n32, .i64, .n64]
def tyFA : List Ty := [.bf16, .f16, .f32, .f64]
def tyF36 : List Ty := [.bf16, .f16, .f32, .f64, .a36]
def tyFT : List Ty := [.bf16, .f16, .f32]
def tyAny8 : List Ty := tyInt ++ [.e4, .e5, .bf16, .f16, .f32, .f64, .a36]
def tyAny : List Ty := tyAny8 ++ [.f4]
def tyAtom : List Ty := [.i32, .n32, .i64, .n64]
def tyXchg : List Ty := [.i32, .n32, .f32, .i64, .n64, .f64]

/-- An integer row with entry A, with B and its immediate as a choice, with C, and with SAT (R148, R150, R151). -/
def rowI (tys : List Ty) (b c sat : Bool) : Row :=
  { Row.base .g with tys := tys, a := true, b := b, c := c, imm := if b then .opt else .no, sat := sat }

/-- A floating-point row (R155, R157, R158). -/
def rowF (tys : List Ty) (b c rnd sat : Bool) : Row :=
  { Row.base .g with tys := tys, a := true, b := b, c := c, imm := if b then .opt else .no, rnd := rnd, sat := sat, na := true
                     nb := b, nc := c }

/-- A memory row (R187-R194). -/
def rowM (tys : List Ty) (a b c : Bool) : Row := { Row.base .m with tys := tys, a := a, b := b, c := c }

/-- An engine row (R199, R247, R253, R396, R399). -/
def rowE (q : Qu) (tys : List Ty) (a b c : Bool) : Row :=
  { Row.base .e with inG := false, tys := tys, a := a, b := b, c := c, tmax := 0, q := q }

/-- A synchronisation or system row of block mode. -/
def rowS (a b : Bool) (imm : ImmUse) (tmin tmax : Nat) : Row :=
  { Row.base .g with inG := false, a := a, b := b, imm := imm, tmin := tmin, tmax := tmax }

/-- A branch row (R178). -/
def rowB (a : Bool) : Row := { Row.base .b with inG := false, a := a, tmax := 0 }

/-- The opcode map: rows of the opcodes that stand in instruction words (R75). -/
def rowOf (op : Nat) : Option Row :=
  match op with
  | 0x000 | 0x001 | 0x002 => some (rowI tyInt true false true)
  | 0x003 => some (rowI tyInt true false false)
  | 0x004 => some (rowI tyInt true false true)
  | 0x005 | 0x006 | 0x007 => some (rowI tyInt true false false)
  | 0x008 => some (rowI tyIS false false true)
  | 0x009 | 0x00A | 0x00B => some (rowI tyInt true false false)
  | 0x00C => some (rowI tyInt false false false)
  | 0x00D => some (rowI tyInt true false false)
  | 0x00E => some (rowI tyInt true false true)
  | 0x00F | 0x010 | 0x011 | 0x012 => some (rowI tyInt true false false)
  | 0x013 => some (rowI tyInt16 true false false)
  | 0x014 => some (rowI tyInt16 true true false)
  | 0x015 => some { rowI tyInt true false false with subs := some 6 }
  | 0x016 => some (rowI tyAny true true false)
  | 0x017 => some (rowI tyInt true true true)
  | 0x018 => some (rowI [.n64] true false false)
  | 0x019 => some { Row.base .k with tys := tyInt, tmax := 1 }
  | 0x01A => some { Row.base .k with tys := [.i64, .n64], a := true, tmax := 1 }
  | 0x040 | 0x041 | 0x042 => some (rowF tyF36 true false true true)
  | 0x043 => some (rowF tyF36 true true true true)
  | 0x044 => some (rowF tyFA true false true true)
  | 0x045 => some (rowF tyFA false false true true)
  | 0x046 | 0x047 => some (rowF tyF36 true false false false)
  | 0x048 => some { rowF tyF36 false false false false with na := false }
  | 0x049 | 0x04A => some (rowF tyFA false false true true)
  | 0x04B | 0x04C | 0x04D | 0x04E | 0x04F | 0x050 => some (rowF tyFT false false true true)
  | 0x051 => some { rowF tyF36 true false false false with subs := some 7 }
  | 0x052 => some (rowF tyF36 false false false false)
  | 0x053 => some (rowF tyFA false false true false)
  | 0x054 => some (rowF tyFA true false true true)
  | 0x080 | 0x081 => some (rowI tyAny8 true false false)
  | 0x082 | 0x083 => some { rowI (tyInt ++ tyF36) false false true with rnd := true, subs := some 7 }
  | 0x084 => some (rowI tyInt16 true false true)
  | 0x085 => some (rowI tyInt16 true false false)
  | 0x086 | 0x087 => some { rowI tyAny true false false with imm := .no }
  | 0x088 => some (rowI [.n8, .n16, .n32] true false false)
  | 0x089 | 0x08A | 0x08B | 0x08C => some (rowI tyInt false false false)
  | 0x08D => some (rowI tyAny false false false)
  | 0x08E => some { rowI tyAny false false false with subs := some 6 }
  | 0x08F => some { Row.base .g with tys := tyInt }
  | 0x090 => some { rowI tyAny false false true with rnd := true, subs := some 16 }
  | 0x091 => some { rowI [.e4, .e5, .f4] false false true with rnd := true, subs := some 2 }
  | 0x0C0 | 0x0C2 | 0x0C5 => some (rowB false)
  | 0x0C1 | 0x0C3 | 0x0C4 => some (rowB true)
  | 0x0C8 => some { Row.base .w with inG := false, tmin := 1 }
  | 0x0C9 => some { Row.base .w with inG := false, a := true, tmax := 0 }
  | 0x0CA => some { Row.base .g with inG := false, imm := .opt, subs := some 5 }
  | 0x0CB => some { Row.base .g with a := true, tmin := 1 }
  | 0x0CC => some { Row.base .w with inB := false, tmin := 1 }
  | 0x100 => some (rowM [.i8] true false false)
  | 0x101 => some (rowM [.i8] true true false)
  | 0x102 => some (rowM tyAny8 true true false)
  | 0x103 => some (rowM tyAny8 true true true)
  | 0x104 | 0x105 | 0x106 | 0x107 | 0x108 | 0x109 => some (rowM tyAtom true true false)
  | 0x10A => some (rowM tyXchg true true false)
  | 0x10B => some (rowM tyXchg true true true)
  | 0x10C => some (rowM [.f32, .f64] true true false)
  | 0x10D | 0x10E => some (rowM [.i8] true false false)
  | 0x10F => some (rowM [.i8] true true false)
  | 0x110 => some (rowM [.i8] false false false)
  | 0x140 | 0x141 | 0x142 | 0x143 => some (rowE .tm [.i8] true true true)
  | 0x148 => some (rowE .mx [.i8] true false false)
  | 0x149 | 0x14A => some (rowE .mx [.i8] true true true)
  | 0x14B => some (rowE .mx [.i8] true false false)
  | 0x150 | 0x151 => some (rowE .cl [.i8] true true true)
  | 0x152 => some (rowE .cl tyXchg true true true)
  | 0x153 | 0x154 => some (rowE .cl [.i8] true true true)
  | 0x155 => some (rowE .cl [.i8] true false true)
  | 0x158 => some (rowE .cl [.i32, .n32, .i64, .n64, .bf16, .f16, .f32, .f64] true true true)
  | 0x159 | 0x15A | 0x15B => some (rowE .cl tyAny8 true true true)
  | 0x15F => some (rowE .ct [.i8] false false false)
  | 0x180 => some (rowS false true .opt 0 0)
  | 0x181 => some (rowS true true .opt 0 2)
  | 0x182 => some (rowS false true .opt 0 0)
  | 0x183 => some (rowS true true .opt 1 2)
  | 0x184 => some (rowS true true .opt 0 0)
  | 0x188 | 0x189 | 0x18A => some (rowS true true .opt 0 2)
  | 0x18B => some { rowS true false .must 0 2 with inG := true }
  | 0x1C0 => some (rowS false false .must 1 2)
  | 0x1C1 => some (rowS true false .must 0 0)
  | 0x1C2 => some (rowS false false .must 0 0)
  | 0x1C3 => some (rowS true false .no 0 0)
  | 0x1C4 => some { rowS false false .must 0 2 with inG := true }
  | 0x1C5 => some (rowS false false .no 0 0)
  | 0x1C6 => some { rowS true false .must 0 2 with inG := true }
  | 0x1C7 => some (rowS true true .opt 0 2)
  | 0x1C8 => some (rowS true false .no 1 2)
  | _ => none

/-- Whether an opcode names a frame operation (R75): cause 0x02 in a word. -/
def isFrameOp (op : Nat) : Bool :=
  [0x200, 0x201, 0x202, 0x203, 0x208, 0x209, 0x20A, 0x210, 0x211, 0x212, 0x213, 0x218, 0x219, 0x21A, 0x240, 0x241, 0x242, 0x243,
    0x244, 0x280, 0x281, 0x282, 0x283, 0x284, 0x288, 0x289, 0x28A, 0x28B, 0x28C].any (· == op)

/-! ## Constructors and their parts -/

/-- What an instruction word carries besides opcode and sub-op. -/
inductive Parts where
  | g (f : GFields)
  | m (f : MFields)
  | b (f : BFields)
  | k (f : KFields)
  | w (f : WFields)
  | e (f : EFields) (eng : BitVec 18)
  deriving DecidableEq, Repr

/-- Type codes (R44). -/
def Ty.code : Ty → Nat
  | .i8 => 0 | .n8 => 1 | .i16 => 2 | .n16 => 3 | .i32 => 4 | .n32 => 5 | .i64 => 6 | .n64 => 7 | .e4 => 8 | .e5 => 9 | .f4 => 10
  | .bf16 => 11 | .f16 => 12 | .f32 => 13 | .f64 => 14 | .a36 => 15

def tyOfCode (n : Nat) : Ty :=
  match n with
  | 0 => .i8 | 1 => .n8 | 2 => .i16 | 3 => .n16 | 4 => .i32 | 5 => .n32 | 6 => .i64 | 7 => .n64 | 8 => .e4 | 9 => .e5 | 10 => .f4
  | 11 => .bf16 | 12 => .f16 | 13 => .f32 | 14 => .f64 | _ => .a36

/-- Spaces of the tile moves (R199). -/
def MvSpace.code : MvSpace → Nat
  | .up => 0 | .cp => 1 | .dp => 2 | .bs => 3 | .gm => 4

def mvOfCode (n : Nat) : MvSpace :=
  match n with
  | 0 => .up | 1 => .cp | 2 => .dp | 3 => .bs | _ => .gm

def Cc.code : Cc → Nat
  | .eq => 0 | .ne => 1 | .lt => 2 | .le => 3 | .gt => 4 | .ge => 5

def ccOfCode (n : Nat) : Cc :=
  match n with
  | 0 => .eq | 1 => .ne | 2 => .lt | 3 => .le | 4 => .gt | _ => .ge

def Fcc.code : Fcc → Nat
  | .eq => 0 | .ne => 1 | .lt => 2 | .le => 3 | .gt => 4 | .ge => 5 | .un => 6

def fccOfCode (n : Nat) : Fcc :=
  match n with
  | 0 => .eq | 1 => .ne | 2 => .lt | 3 => .le | 4 => .gt | 5 => .ge | _ => .un

def RedOp.code : RedOp → Nat
  | .add => 0 | .mul => 1 | .min => 2 | .max => 3 | .and => 4 | .or => 5 | .xor => 6

def redOfCode (n : Nat) : RedOp :=
  match n with
  | 0 => .add | 1 => .mul | 2 => .min | 3 => .max | 4 => .and | 5 => .or | _ => .xor

def MskOp.code : MskOp → Nat
  | .any => 0 | .all => 1 | .none => 2 | .cnt => 3 | .first => 4 | .last => 5

def mskOfCode (n : Nat) : MskOp :=
  match n with
  | 0 => .any | 1 => .all | 2 => .none | 3 => .cnt | 4 => .first | _ => .last

def MxOp.code : MxOp → Nat
  | .qnt => 0 | .dq => 1

def mxOfCode (n : Nat) : MxOp := if n = 0 then .qnt else .dq

def NullForm.code : NullForm → Nat
  | .targets => 0 | .st0 => 1 | .st1 => 2 | .wr0 => 3 | .wr1 => 4

def nullOfCode (n : Nat) : NullForm :=
  match n with
  | 0 => .targets | 1 => .st0 | 2 => .st1 | 3 => .wr0 | _ => .wr1

def AtomOp.code : AtomOp → Nat
  | .add => 0 | .min => 1 | .max => 2 | .and => 3 | .or => 4 | .xor => 5 | .xchg => 6 | .cas => 7 | .fadd => 8

def atomOfCode (n : Nat) : AtomOp :=
  match n with
  | 0 => .add | 1 => .min | 2 => .max | 3 => .and | 4 => .or | 5 => .xor | 6 => .xchg | 7 => .cas | _ => .fadd

def CredOp.code : CredOp → Nat
  | .add => 0 | .min => 1 | .max => 2 | .and => 3 | .or => 4 | .xor => 5

def credOfCode (n : Nat) : CredOp :=
  match n with
  | 0 => .add | 1 => .min | 2 => .max | 3 => .and | 4 => .or | _ => .xor

def Qu.code : Qu → Nat
  | .ct => 0 | .tm => 1 | .mx => 2 | .cl => 3

def quOfCode (n : Nat) : Qu :=
  match n with
  | 0 => .ct | 1 => .tm | 2 => .mx | _ => .cl

def AFmt.code : AFmt → Nat
  | .a36 => 0 | .f32 => 1 | .f64 => 2

def afmtOfCode (n : Nat) : AFmt :=
  match n with
  | 0 => .a36 | 1 => .f32 | _ => .f64

/-- ENG of the tile moves (R199). -/
def MvEng.code (e : MvEng) : BitVec 18 :=
  BitVec.ofNat 18 (MvSpace.code e.ssp * 2 ^ 15 + MvSpace.code e.dsp * 2 ^ 12 + e.esz.toNat * 2 ^ 10)

def mvEngOf (x : BitVec 18) : MvEng :=
  { ssp := mvOfCode (fieldOf x 15 3), dsp := mvOfCode (fieldOf x 12 3), esz := BitVec.ofNat 2 (fieldOf x 10 2) }

/-- ENG of ACCRD and ACCWR (R253). -/
def AccEng.code (e : AccEng) : BitVec 18 :=
  BitVec.ofNat 18 (MvSpace.code e.spc * 2 ^ 15 + e.acc.toNat * 2 ^ 12 + Ty.code e.ety * 2 ^ 8 + AFmt.code e.afmt * 2 ^ 6)

def accEngOf (x : BitVec 18) : AccEng :=
  { spc := mvOfCode (fieldOf x 15 3), acc := BitVec.ofNat 3 (fieldOf x 12 3), ety := tyOfCode (fieldOf x 8 4)
    afmt := afmtOfCode (fieldOf x 6 2) }

/-- ENG of ACCCLR: ACC and AFMT alone (R253). -/
def clrEngCode (acc : BitVec 3) (afmt : AFmt) : BitVec 18 := BitVec.ofNat 18 (acc.toNat * 2 ^ 12 + AFmt.code afmt * 2 ^ 6)

/-- ENG of the remote instructions: LSP alone (R396). -/
def lspEngCode (sp : MvSpace) : BitVec 18 := BitVec.ofNat 18 (MvSpace.code sp * 2 ^ 15)

def lspOf (x : BitVec 18) : MvSpace := mvOfCode (fieldOf x 15 3)

/-- The opcode, sub-op and fields of an instruction word's constructor; none for frames and events. -/
def Instr.parts (i : Instr) : Option (Nat × Nat × Parts) :=
  match i with
  | .add f => some (0x000, 0, .g f) | .sub f => some (0x001, 0, .g f) | .mul f => some (0x002, 0, .g f)
  | .mulh f => some (0x003, 0, .g f) | .div f => some (0x004, 0, .g f) | .rem f => some (0x005, 0, .g f)
  | .min f => some (0x006, 0, .g f) | .max f => some (0x007, 0, .g f) | .abs f => some (0x008, 0, .g f)
  | .and f => some (0x009, 0, .g f) | .or f => some (0x00A, 0, .g f) | .xor f => some (0x00B, 0, .g f)
  | .not f => some (0x00C, 0, .g f) | .andn f => some (0x00D, 0, .g f) | .shl f => some (0x00E, 0, .g f)
  | .shr f => some (0x00F, 0, .g f) | .sra f => some (0x010, 0, .g f) | .rol f => some (0x011, 0, .g f)
  | .ror f => some (0x012, 0, .g f) | .bfx f => some (0x013, 0, .g f) | .bfi f => some (0x014, 0, .g f)
  | .cmp f cc => some (0x015, Cc.code cc, .g f) | .sel f => some (0x016, 0, .g f) | .mad f => some (0x017, 0, .g f)
  | .adda f => some (0x018, 0, .g f) | .movk f => some (0x019, 0, .k f) | .movkh f => some (0x01A, 0, .k f)
  | .fadd f => some (0x040, 0, .g f) | .fsub f => some (0x041, 0, .g f) | .fmul f => some (0x042, 0, .g f)
  | .fma f => some (0x043, 0, .g f) | .fdiv f => some (0x044, 0, .g f) | .fsqrt f => some (0x045, 0, .g f)
  | .fmin f => some (0x046, 0, .g f) | .fmax f => some (0x047, 0, .g f) | .fabs f => some (0x048, 0, .g f)
  | .frcp f => some (0x049, 0, .g f) | .frsq f => some (0x04A, 0, .g f) | .fexp2 f => some (0x04B, 0, .g f)
  | .flog2 f => some (0x04C, 0, .g f) | .fsin f => some (0x04D, 0, .g f) | .fcos f => some (0x04E, 0, .g f)
  | .ftanh f => some (0x04F, 0, .g f) | .fsigm f => some (0x050, 0, .g f) | .fcmp f cc => some (0x051, Fcc.code cc, .g f)
  | .fclass f => some (0x052, 0, .g f) | .frint f => some (0x053, 0, .g f) | .fscale f => some (0x054, 0, .g f)
  | .shuf f => some (0x080, 0, .g f) | .bcast f => some (0x081, 0, .g f) | .lred f op => some (0x082, RedOp.code op, .g f)
  | .lscan f op => some (0x083, RedOp.code op, .g f) | .pack f => some (0x084, 0, .g f) | .unpk f => some (0x085, 0, .g f)
  | .cmpr f => some (0x086, 0, .g f) | .expd f => some (0x087, 0, .g f) | .clmul f => some (0x088, 0, .g f)
  | .popc f => some (0x089, 0, .g f) | .clz f => some (0x08A, 0, .g f) | .ctz f => some (0x08B, 0, .g f)
  | .brev f => some (0x08C, 0, .g f) | .mkmsk f => some (0x08D, 0, .g f) | .mskop f op => some (0x08E, MskOp.code op, .g f)
  | .laneid f => some (0x08F, 0, .g f) | .cvt f src => some (0x090, Ty.code src, .g f)
  | .cvtmx f op => some (0x091, MxOp.code op, .g f)
  | .br f => some (0x0C0, 0, .b f) | .bri f => some (0x0C1, 0, .b f) | .call f => some (0x0C2, 0, .b f)
  | .calli f => some (0x0C3, 0, .b f) | .ret f => some (0x0C4, 0, .b f) | .halt f => some (0x0C5, 0, .b f)
  | .read f => some (0x0C8, 0, .w f) | .write f => some (0x0C9, 0, .w f)
  | .null f form => some (0x0CA, NullForm.code form, .g f) | .mov f => some (0x0CB, 0, .g f) | .krd f => some (0x0CC, 0, .w f)
  | .ld f => some (0x100, 0, .m f) | .st f => some (0x101, 0, .m f) | .ldx f => some (0x102, 0, .m f)
  | .stx f => some (0x103, 0, .m f) | .aadd f => some (0x104, 0, .m f) | .amin f => some (0x105, 0, .m f)
  | .amax f => some (0x106, 0, .m f) | .aand f => some (0x107, 0, .m f) | .aor f => some (0x108, 0, .m f)
  | .axor f => some (0x109, 0, .m f) | .axchg f => some (0x10A, 0, .m f) | .acas f => some (0x10B, 0, .m f)
  | .afadd f => some (0x10C, 0, .m f) | .lde f => some (0x10D, 0, .m f) | .ldf f => some (0x10E, 0, .m f)
  | .stf f => some (0x10F, 0, .m f) | .fence f => some (0x110, 0, .m f)
  | .tmov f e => some (0x140, 0, .e f (MvEng.code e)) | .tmovt f e => some (0x141, 0, .e f (MvEng.code e))
  | .tmovc f e => some (0x142, 0, .e f (MvEng.code e)) | .tmove f e => some (0x143, 0, .e f (MvEng.code e))
  | .mgo f cfg last => some (0x148, cfg.toNat + (if last then 4 else 0), .e f 0)
  | .accrd f e => some (0x149, 0, .e f (AccEng.code e)) | .accwr f e => some (0x14A, 0, .e f (AccEng.code e))
  | .accclr f region acc afmt => some (0x14B, if region then 1 else 0, .e f (clrEngCode acc afmt))
  | .rld f sp => some (0x150, 0, .e f (lspEngCode sp)) | .rst f sp => some (0x151, 0, .e f (lspEngCode sp))
  | .ratom f op sp => some (0x152, AtomOp.code op, .e f (lspEngCode sp)) | .rmst f sp => some (0x153, 0, .e f (lspEngCode sp))
  | .rinv f sp => some (0x154, 0, .e f (lspEngCode sp)) | .rfence f => some (0x155, 0, .e f 0)
  | .cred f op => some (0x158, CredOp.code op, .e f 0) | .cgath f => some (0x159, 0, .e f 0) | .ca2a f => some (0x15A, 0, .e f 0)
  | .cbcast f => some (0x15B, 0, .e f 0) | .enop f q => some (0x15F, Qu.code q, .e f 0)
  | .barv f => some (0x180, 0, .g f) | .barw f => some (0x181, 0, .g f) | .baraw f => some (0x182, 0, .g f)
  | .bart f => some (0x183, 0, .g f) | .bari f => some (0x184, 0, .g f) | .qput f => some (0x188, 0, .g f)
  | .qputw f => some (0x189, 0, .g f) | .launch f => some (0x18A, 0, .g f) | .spawn f => some (0x18B, 0, .g f)
  | .getsr f => some (0x1C0, 0, .g f) | .setsr f => some (0x1C1, 0, .g f) | .trap f => some (0x1C2, 0, .g f)
  | .tret f => some (0x1C3, 0, .g f) | .brk f => some (0x1C4, 0, .g f) | .mcut f => some (0x1C5, 0, .g f)
  | .evt f => some (0x1C6, 0, .g f) | .pginv f => some (0x1C7, 0, .g f) | .pgprobe f => some (0x1C8, 0, .g f)
  | _ => none

/-- The constructor of an opcode, a sub-op and fields. -/
def instrOf (op sub : Nat) (p : Parts) : Option Instr :=
  match p with
  | .g f =>
    match op with
    | 0x000 => some (.add f) | 0x001 => some (.sub f) | 0x002 => some (.mul f) | 0x003 => some (.mulh f) | 0x004 => some (.div f)
    | 0x005 => some (.rem f) | 0x006 => some (.min f) | 0x007 => some (.max f) | 0x008 => some (.abs f) | 0x009 => some (.and f)
    | 0x00A => some (.or f) | 0x00B => some (.xor f) | 0x00C => some (.not f) | 0x00D => some (.andn f) | 0x00E => some (.shl f)
    | 0x00F => some (.shr f) | 0x010 => some (.sra f) | 0x011 => some (.rol f) | 0x012 => some (.ror f) | 0x013 => some (.bfx f)
    | 0x014 => some (.bfi f) | 0x015 => some (.cmp f (ccOfCode sub)) | 0x016 => some (.sel f) | 0x017 => some (.mad f)
    | 0x018 => some (.adda f) | 0x040 => some (.fadd f) | 0x041 => some (.fsub f) | 0x042 => some (.fmul f)
    | 0x043 => some (.fma f) | 0x044 => some (.fdiv f) | 0x045 => some (.fsqrt f) | 0x046 => some (.fmin f)
    | 0x047 => some (.fmax f) | 0x048 => some (.fabs f) | 0x049 => some (.frcp f) | 0x04A => some (.frsq f)
    | 0x04B => some (.fexp2 f) | 0x04C => some (.flog2 f) | 0x04D => some (.fsin f) | 0x04E => some (.fcos f)
    | 0x04F => some (.ftanh f) | 0x050 => some (.fsigm f) | 0x051 => some (.fcmp f (fccOfCode sub)) | 0x052 => some (.fclass f)
    | 0x053 => some (.frint f) | 0x054 => some (.fscale f) | 0x080 => some (.shuf f) | 0x081 => some (.bcast f)
    | 0x082 => some (.lred f (redOfCode sub)) | 0x083 => some (.lscan f (redOfCode sub)) | 0x084 => some (.pack f)
    | 0x085 => some (.unpk f) | 0x086 => some (.cmpr f) | 0x087 => some (.expd f) | 0x088 => some (.clmul f)
    | 0x089 => some (.popc f) | 0x08A => some (.clz f) | 0x08B => some (.ctz f) | 0x08C => some (.brev f)
    | 0x08D => some (.mkmsk f) | 0x08E => some (.mskop f (mskOfCode sub)) | 0x08F => some (.laneid f)
    | 0x090 => some (.cvt f (tyOfCode sub)) | 0x091 => some (.cvtmx f (mxOfCode sub)) | 0x0CA => some (.null f (nullOfCode sub))
    | 0x0CB => some (.mov f) | 0x180 => some (.barv f) | 0x181 => some (.barw f) | 0x182 => some (.baraw f)
    | 0x183 => some (.bart f) | 0x184 => some (.bari f) | 0x188 => some (.qput f) | 0x189 => some (.qputw f)
    | 0x18A => some (.launch f) | 0x18B => some (.spawn f) | 0x1C0 => some (.getsr f) | 0x1C1 => some (.setsr f)
    | 0x1C2 => some (.trap f) | 0x1C3 => some (.tret f) | 0x1C4 => some (.brk f) | 0x1C5 => some (.mcut f) | 0x1C6 => some (.evt f)
    | 0x1C7 => some (.pginv f) | 0x1C8 => some (.pgprobe f)
    | _ => none
  | .m f =>
    match op with
    | 0x100 => some (.ld f) | 0x101 => some (.st f) | 0x102 => some (.ldx f) | 0x103 => some (.stx f) | 0x104 => some (.aadd f)
    | 0x105 => some (.amin f) | 0x106 => some (.amax f) | 0x107 => some (.aand f) | 0x108 => some (.aor f) | 0x109 => some (.axor f)
    | 0x10A => some (.axchg f) | 0x10B => some (.acas f) | 0x10C => some (.afadd f) | 0x10D => some (.lde f) | 0x10E => some (.ldf f)
    | 0x10F => some (.stf f) | 0x110 => some (.fence f)
    | _ => none
  | .b f =>
    match op with
    | 0x0C0 => some (.br f) | 0x0C1 => some (.bri f) | 0x0C2 => some (.call f) | 0x0C3 => some (.calli f) | 0x0C4 => some (.ret f)
    | 0x0C5 => some (.halt f)
    | _ => none
  | .k f =>
    match op with
    | 0x019 => some (.movk f) | 0x01A => some (.movkh f)
    | _ => none
  | .w f =>
    match op with
    | 0x0C8 => some (.read f) | 0x0C9 => some (.write f) | 0x0CC => some (.krd f)
    | _ => none
  | .e f eng =>
    match op with
    | 0x140 => some (.tmov f (mvEngOf eng)) | 0x141 => some (.tmovt f (mvEngOf eng)) | 0x142 => some (.tmovc f (mvEngOf eng))
    | 0x143 => some (.tmove f (mvEngOf eng)) | 0x148 => some (.mgo f (BitVec.ofNat 2 sub) (decide (4 ≤ sub)))
    | 0x149 => some (.accrd f (accEngOf eng)) | 0x14A => some (.accwr f (accEngOf eng))
    | 0x14B => some (.accclr f (decide (sub = 1)) (accEngOf eng).acc (accEngOf eng).afmt)
    | 0x150 => some (.rld f (lspOf eng)) | 0x151 => some (.rst f (lspOf eng)) | 0x152 => some (.ratom f (atomOfCode sub) (lspOf eng))
    | 0x153 => some (.rmst f (lspOf eng)) | 0x154 => some (.rinv f (lspOf eng)) | 0x155 => some (.rfence f)
    | 0x158 => some (.cred f (credOfCode sub)) | 0x159 => some (.cgath f) | 0x15A => some (.ca2a f) | 0x15B => some (.cbcast f)
    | 0x15F => some (.enop f (quOfCode sub))
    | _ => none

/-- Whether an integer type, by code (R44). -/
def Ty.isIntCode (t : Ty) : Bool := decide (Ty.code t < 8)

/-- The TY values of a sub-op (R189, R396, R399, R162): a type outside them is cause 0x05. -/
def subTyOk (op sub : Nat) (t : Ty) : Bool :=
  match op with
  | 0x082 | 0x083 => decide (sub < 4) || decide (7 ≤ sub) || Ty.isIntCode t
  | 0x152 => if sub < 6 then tyAtom.any (· == t) else if sub ≠ 8 then true else t == .f32 || t == .f64
  | 0x158 => decide (sub < 3) || decide (6 ≤ sub) || Ty.isIntCode t
  | _ => true

end Sys2Proof.Machine
end

