-- ==== Sys2Proof/WellFormed.lean ====
section
/-! DEFINITION. Well-formed instructions: the rules of R64-R74 and R83-R90 that one word or one frame can break by itself, each with
the cause under which R92 and R93 reject it, and the predicate that holds when no cause applies.  The rules that take a whole block
or image stand in `Image` and `Block`. -/

namespace Sys2Proof.Machine

/-- Where a word stands: in a block (mode B) or in a CE instruction frame (mode G) (R75). -/
inductive Mode where
  | block | graph
  deriving DecidableEq, Repr

/-- A cause, if a breach holds. -/
def causeIf (breach : Bool) (cause : Nat) : List Nat := if breach then [cause] else []

/-- A target's own part of R66: in a graph, slots 0-15, or 64-71 with OPND A. -/
def Target.ok (m : Mode) (t : Target) : Bool :=
  match m with
  | .block => true
  | .graph => decide (t.slot.toNat < 16) || (decide (64 ≤ t.slot.toNat) && decide (t.slot.toNat < 72) && t.opnd == .a)

/-- R66 on a pair of targets, with the row's bounds on how many there are. -/
def targetCauses (m : Mode) (tmin tmax : Nat) (t0 t1 : Option Target) : List Nat :=
  let n := (if t0.isSome then 1 else 0) + (if t1.isSome then 1 else 0)
  causeIf (t0.isNone && t1.isSome) 7 ++ causeIf (t0.isSome && t0 == t1) 7 ++ causeIf (decide (n < tmin) || decide (tmax < n)) 7
    ++ causeIf ((t0.any fun t => !Target.ok m t) || (t1.any fun t => !Target.ok m t)) 7

/-- Whether an immediate's bits fit what the opcode uses (R151-R439): NULL's mask and form, numbers of 12 bits, SR numbers, causes. -/
def immOk (op sub : Nat) (i : Bool) (imm : Nat) : Bool :=
  if !i then decide (imm = 0)
  else
    match op with
    | 0x180 | 0x181 | 0x182 | 0x183 | 0x184 | 0x188 | 0x189 | 0x18A => decide (imm < 4096)
    | 0x18B => decide (imm < 2 ^ 18)
    | 0x1C0 => decide (imm ≤ 0x14)
    | 0x1C1 => [0x07, 0x0B, 0x0C, 0x0D, 0x0F, 0x14].any (· == imm)
    | 0x1C2 | 0x1C6 => decide (imm < 256)
    | 0x1C4 => decide (imm < 65536)
    | 0x015 | 0x051 | 0x0CA => decide (imm < 65536)
    | _ => decide (sub ≤ 16)

/-- Format G (R67, R68). -/
def gCauses (m : Mode) (op sub : Nat) (r : Row) (f : GFields) : List Nat :=
  let fp := !Ty.isIntCode f.ty
  let rnd := r.rnd && (fp || decide (op = 0x090))
  let sat := r.sat && !(decide (op = 0x091) && decide (sub = 1))
  let imms : List Nat :=
    match r.imm with
    | .no => causeIf f.i 6
    | .must => causeIf (!f.i) 6
    | .opt => []
  let tmin := if op = 0x1C4 && m == .graph then 1 else if op = 0x0CA && sub = 0 then 1 else r.tmin
  let tmax := if op = 0x1C4 && m == .block then 0 else if op = 0x0CA && sub ≠ 0 then 0 else r.tmax
  causeIf (!(r.tys.any (· == f.ty)) || !subTyOk op sub f.ty) 5
    ++ causeIf (match r.subs with | some n => decide (n ≤ sub) | none => decide (sub ≠ 0)) 6
    ++ imms ++ causeIf (!immOk op sub f.i f.imm.toNat) 6
    ++ causeIf (decide (op = 0x0CA) && decide (sub = 0) && f.i) 7 ++ causeIf (decide (op = 0x0CA) && decide (sub ≠ 0) && !f.i) 6
    ++ causeIf ((f.rnd != .rne && !rnd) || (f.sat && !sat) || (f.na && !(r.na && fp)) || (f.nb && !(r.nb && fp))
        || (f.nc && !(r.nc && fp))) 6
    ++ targetCauses m tmin tmax f.t0 f.t1

/-- Spaces of the memory instructions (R187-R194). -/
def spcOk (op : Nat) (sp : Space) : Bool :=
  match op with
  | 0x10D | 0x10E | 0x10F => sp == .gm
  | 0x110 => sp == .up
  | _ => true

/-- Format M (R69): in a block SEQ is at most 31, ST and STX have no target, and every other memory instruction but FENCE has one (R185); in a graph SEQ is at most 126. (Model: DEDUCED, unsafe: notes/assumptions 126) -/
def mCauses (m : Mode) (op : Nat) (r : Row) (f : MFields) : List Nat :=
  let lim := match m with | .block => 32 | .graph => 127
  let tmax := if m == .block && (op = 0x101 || op = 0x103) then 0 else r.tmax
  let tmin := if m == .block && !(op = 0x101 || op = 0x103 || op = 0x110) then 1 else 0
  causeIf (!(r.tys.any (· == f.ty))) 5 ++ causeIf (!spcOk op f.spc) 6 ++ targetCauses m tmin tmax f.t0 f.t1
    ++ causeIf (decide (lim ≤ f.seq.toNat)) 9

/-- Format E (R73): the queue codes, SUBOP and ENG. -/
def eCauses (op sub : Nat) (r : Row) (f : EFields) (eng : BitVec 18) : List Nat :=
  let own := if op = 0x15F then quOfCode sub else r.q
  let subMax := match op with
    | 0x148 => 8 | 0x14B => 2 | 0x152 => 9 | 0x158 => 6 | 0x15F => 4 | _ => 1
  let sp := fieldOf eng 15 3
  let ssp := fieldOf eng 12 3
  let accBad := decide (fieldOf eng 6 2 = 3) || (decide (fieldOf eng 6 2 = 2) && decide (fieldOf eng 12 1 = 1))
    || decide (fieldOf eng 0 6 ≠ 0)
  let etyBad := !([.i32, .e4, .e5, .bf16, .f16, .f32, .f64, .a36].any (· == tyOfCode (fieldOf eng 8 4)))
  let spBad := decide (sp = 3) || decide (4 < sp)
  let engBad := match op with
    | 0x140 | 0x141 | 0x142 | 0x143 => decide (4 < sp) || decide (4 < ssp) || decide (fieldOf eng 0 10 ≠ 0)
    | 0x149 | 0x14A => spBad || accBad || etyBad
    | 0x14B => accBad || decide (sp ≠ 0) || decide (fieldOf eng 8 4 ≠ 0)
    | 0x150 | 0x151 | 0x152 | 0x153 | 0x154 => spBad || decide (fieldOf eng 0 15 ≠ 0)
    | _ => decide (eng.toNat ≠ 0)
  causeIf (!(r.tys.any (· == f.ty)) || !subTyOk op sub f.ty) 5 ++ causeIf (decide (subMax ≤ sub)) 6 ++ causeIf engBad 6
    ++ causeIf (f.pop == some own || f.push == some own) 6

/-- Format B (R70): RET and HALT, which take no offset, hold OFF48 zero. -/
def bCauses (op : Nat) (f : BFields) : List Nat :=
  causeIf (decide (op = 0x0C4 ∨ op = 0x0C5) && decide (f.off ≠ 0)) 6

/-- Format W (R72). -/
def wCauses (m : Mode) (op : Nat) (r : Row) (f : WFields) : List Nat :=
  causeIf (if op = 0x0CC then decide (f.word ≠ 0) else decide (f.ksel ≠ 0)) 6 ++ targetCauses m r.tmin r.tmax f.t0 f.t1

/-- Format K (R71). -/
def kCauses (m : Mode) (r : Row) (f : KFields) : List Nat :=
  causeIf (!(r.tys.any (· == f.ty))) 5 ++ targetCauses m 0 1 f.t0 none

/-- Every cause of R92 that a word's parts break by themselves. -/
def partsCauses (m : Mode) (op sub : Nat) (r : Row) (p : Parts) : List Nat :=
  causeIf (match m with | .block => !r.inB | .graph => !r.inG) 3 ++
    match r.fmt, p with
    | .g, .g f => gCauses m op sub r f
    | .m, .m f => mCauses m op r f
    | .b, .b f => bCauses op f
    | .k, .k f => kCauses m r f
    | .w, .w f => wCauses m op r f
    | .e, .e f eng => eCauses op sub r f eng
    | _, _ => [1]

/-! ## Frames -/

/-- The unit-pad offsets of an SU frame that an operation does not use are zero, and so on (R204): `x` a value, `used` its use. -/
def unused (used : Bool) (x : Nat) : Bool := !used && decide (x ≠ 0)

/-- R204 and the operation's own rules, on an SU frame: cause 0x16. -/
def suCauses (op : Nat) (f : SuFrame) : List Nat :=
  let p := f.param.toNat
  let scan := decide (0x200 ≤ op) && decide (op ≤ 0x203)
  let join := decide (0x208 ≤ op) && decide (op ≤ 0x20A)
  let wr := decide (0x218 ≤ op) && decide (op ≤ 0x21A)
  let gate := decide (op = 0x20A) && p.testBit 0
  let valout := scan && p.testBit 1
  let lenient := join && !f.strict && !gate
  let uniq := decide (op = 0x20A) && p.testBit 1
  let skip := decide (op = 0x208) && f.bcout
  let dup := join && !gate && (lenient || uniq)
  causeIf
    (unused (valout || gate || decide (op = 0x21A)) f.valbase.toNat
      || unused (scan || wr || gate) f.len.toNat
      || unused (op = 0x200 || op = 0x201 || op = 0x218 || op = 0x219) f.segbase.toNat
      || unused (op = 0x200 || op = 0x201 || op = 0x203 || op = 0x218 || op = 0x219) f.crdbase.toNat
      || unused (scan || wr || gate) f.mtsel.toNat || decide (64 ≤ f.mtsel.toNat)
      || unused (scan || skip || gate) f.level.toNat
      || unused (dup || decide (op = 0x211)) f.redop.toNat || unused dup f.duppol.toNat
      || (f.strict && !(join && !gate))
      || (f.bcin && !(op = 0x200 || op = 0x201 || op = 0x202)) || (f.bcout && decide (op ≠ 0x208))
      || (scan && (decide ((p / 4) % 1024 ≠ 0) || decide (f.len.toNat = 0)
            || (if op = 0x203 then decide (p / 4096 ≠ 0) else decide (p / 4096 = 0))))
      || (decide (op = 0x208) && (if skip then decide ((p / 2) % 2 ^ 15 ≠ 0) || decide (p / 65536 = 0) else decide (p ≠ 0)))
      || (decide (op = 0x20A) && (decide (4 ≤ p) || (gate && uniq)))
      || (decide (op = 0x212) && decide (2 ≤ p)) || (decide (op = 0x213) && decide (128 ≤ p))
      || ((decide (op = 0x209) || decide (op = 0x210) || decide (op = 0x211) || wr) && decide (p ≠ 0))
      || (dup && (decide (f.duppol = 3) || decide (10 ≤ f.redop.toNat)))
      || (decide (op = 0x211) && decide (11 ≤ f.redop.toNat))) 0x16

/-- The type pairs of MMA and MMAS (R242). -/
def mmaTypesOk (aty bty : Ty) (mxs : Bool) : Bool :=
  let fp8 : Ty → Bool := fun t => t == .e4 || t == .e5
  let int8 : Ty → Bool := fun t => t == .i8 || t == .n8
  if fp8 aty && fp8 bty then true
  else if aty == .f4 && bty == .f4 then true
  else !mxs && ((int8 aty && int8 bty)
    || (aty == bty && (aty == .bf16 || aty == .f16 || aty == .f32 || aty == .f64)))

/-- The accumulator format of a pair (R242): that of its A type. -/
def accFmtOf (aty : Ty) : Ty :=
  match aty with
  | .f32 => .f32 | .f64 => .f64 | _ => .a36

/-- R88, R241-R243 on an MC frame: cause 0x16 for type combinations, 0x17 for the rest. -/
def mcCauses (op : Nat) (f : McFrame) : List Nat :=
  let mma := op = 0x240 || op = 0x241
  let mdr := op = 0x242
  let mz := op = 0x243
  let mp := op = 0x244
  let accBad : Bool :=
    if mma then accFmtOf f.aty == .f64 && f.acc.getLsbD 0 else if mdr || mz then f.bty == .f64 && f.acc.getLsbD 0 else false
  let tyBad : Bool :=
    if mma then !mmaTypesOk f.aty f.bty f.mxs
    else if mdr then !([.a36, .f32, .f64].any (· == f.bty))
      || !([.i32, .e4, .e5, .bf16, .f16, .f32, .f64, .a36].any (· == f.aty))
    else if mz then !([.a36, .f32, .f64].any (· == f.bty))
    else !mmaTypesOk f.aty f.aty f.mxs
  causeIf (tyBad || accBad) 0x16
    ++ causeIf (decide (f.wid.toNat < f.posx.toNat) || decide (f.hgt.toNat < f.posy.toNat) || decide (f.boff.toNat % 32 ≠ 0)
        || unused mma f.boff.toNat || unused (mma || mp) f.kblk.toNat || unused (!mp) f.acc.toNat
        || (f.mxs && !(mma || mp)) || unused (!mz) (Ty.code f.aty) || unused (!mp) (Ty.code f.bty)) 0x17

/-- R90 and R228-R230 on an AG frame: cause 0x16 for f4, 0x17 for the rest. (Model: DEDUCED, unsafe: notes/assumptions 148) -/
def agCauses (op : Nat) (f : AgFrame) : List Nat :=
  let nd := f.ndim.toNat
  causeIf (f.ty == .f4) 0x16
    ++ causeIf ((decide (op ≠ 0x281) && decide (nd ≠ 0))
        || (decide (nd < 1) && (decide (f.cnt1 ≠ 0) || decide (f.stride1 ≠ 0)))
        || (decide (nd < 2) && (decide (f.cnt2 ≠ 0) || decide (f.stride2 ≠ 0)))
        || (decide (nd < 3) && (decide (f.cnt3 ≠ 0) || decide (f.stride3 ≠ 0)))
        || (f.irel && f.spc != .gm) || (f.spc == .gm && !f.irel && decide (2 ^ 57 ≤ f.base.toNat))
        || (decide (op = 0x282) && f.wr) || (decide (op = 0x283) && !f.wr)) 0x17

/-- R89 and R232-R235 on an MT function frame: cause 0x16. (Model: DEDUCED, safe: notes/assumptions 18) -/
def mtCauses (op : Nat) (f : MtFrame) : List Nat :=
  let p := f.param.toNat
  let base := f.base.toNat
  let limit := f.limit.toNat
  let rangeBad (k : Nat) : Bool := decide (base % k ≠ 0) || decide (limit % k ≠ 0) || decide (limit ≤ base) || decide (0x20000 < limit)
  causeIf
    ((decide (op = 0x288 ∨ op = 0x289) && (decide (p ≠ 0) || decide (base ≠ 0) || decide (limit ≠ 0)))
      || (decide (op = 0x28A) && (rangeBad 4 || decide (32 ≤ p) || decide (10 ≤ p % 16)))
      || (decide (op = 0x28B) && (rangeBad 8 || decide (2 ^ 17 ≤ p)))
      || (decide (op = 0x28C) && (decide (64 ≤ p) || decide (base ≠ 0) || decide (limit ≠ 0)))
      || unused (op = 0x28B) f.ovfbase.toNat) 0x16

/-- The opcode of a frame's constructor (R75); GATE is MERGE with PARAM[0] set (R215, R224). -/
def Instr.frameOp (i : Instr) : Option Nat :=
  match i with
  | .scanc _ => some 0x200 | .scanb _ => some 0x201 | .scand _ => some 0x202 | .scanl _ => some 0x203 | .isect _ => some 0x208
  | .union _ => some 0x209 | .merge _ => some 0x20A | .gate _ => some 0x20A | .repeatOp _ => some 0x210 | .reduce _ => some 0x211
  | .filter _ => some 0x212 | .split _ => some 0x213 | .lwrc _ => some 0x218 | .lwrb _ => some 0x219 | .lwrd _ => some 0x21A
  | .mma _ => some 0x240 | .mmas _ => some 0x241 | .mdrain _ => some 0x242 | .mzero _ => some 0x243 | .mpass _ => some 0x244
  | .aglin _ => some 0x280 | .agnd _ => some 0x281 | .aggath _ => some 0x282 | .agscat _ => some 0x283 | .agrange _ => some 0x284
  | .mtcmpr _ => some 0x288 | .mtexpd _ => some 0x289 | .mtown _ => some 0x28A | .mtsync _ => some 0x28B | .mtinv _ => some 0x28C
  | _ => none

/-- Every cause of R93 that a frame breaks by itself. -/
def frameCauses (op : Nat) (i : Instr) : List Nat :=
  match i with
  | .scanc f | .scanb f | .scand f | .scanl f | .isect f | .union f | .repeatOp f | .reduce f | .filter f | .split f | .lwrc f
  | .lwrb f | .lwrd f => suCauses op f
  | .merge f => suCauses op f ++ causeIf (f.param.getLsbD 0) 0x16
  | .gate f => suCauses op f ++ causeIf (!f.param.getLsbD 0) 0x16
  | .mma f | .mmas f | .mdrain f | .mzero f | .mpass f => mcCauses op f
  | .aglin f | .agnd f | .aggath f | .agscat f | .agrange f => agCauses op f
  | .mtcmpr f | .mtexpd f | .mtown f | .mtsync f | .mtinv f => mtCauses op f
  | _ => []

/-- A well-formed instruction word or frame: its parts break no rule of their own. Device events are not encoded. -/
def Instr.wf (m : Mode) (i : Instr) : Bool :=
  match Instr.frameOp i with
  | some op => frameCauses op i == []
  | none =>
    match Instr.parts i with
    | none => false
    | some (op, sub, p) =>
      match rowOf op with
      | none => false
      | some r => partsCauses m op sub r p == []

end Sys2Proof.Machine
end

