-- ==== Sys2Proof/Decode.lean ====
section
/-! DEFINITION. Decoding of instruction words and tile frames, total, with the causes of R92 and R93 by which they are rejected;
then the encoder, from the same tables; then the words and frames of the opcode table as the host numbers them. -/

namespace Sys2Proof

open Sys2Proof.Machine

/-! ## Fields -/

def predOf (n : Nat) : Pred :=
  match n with
  | 0 => .always | 1 => .guard | 2 => .ifFalse | _ => .ifTrue

def predCode : Pred → Nat
  | .always => 0 | .guard => 1 | .ifFalse => 2 | .ifTrue => 3

def opndOf (n : Nat) : Opnd :=
  match n with
  | 0 => .a | 1 => .b | 2 => .c | _ => .p

def opndCode : Opnd → Nat
  | .a => 0 | .b => 1 | .c => 2 | .p => 3

def rndOf (n : Nat) : Rnd :=
  match n with
  | 0 => .rne | 1 => .rtz | 2 => .rup | 3 => .rdn | 4 => .rna | _ => .rsr

def rndCode : Rnd → Nat
  | .rne => 0 | .rtz => 1 | .rup => 2 | .rdn => 3 | .rna => 4 | .rsr => 5

def spaceOf (n : Nat) : Space :=
  match n with
  | 0 => .up | 1 => .cp | 2 => .dp | _ => .gm

def spaceCode : Space → Nat
  | .up => 0 | .cp => 1 | .dp => 2 | .gm => 3

def polOf (n : Nat) : Pol :=
  match n with
  | 0 => .rlx | 1 => .acq | 2 => .rel | _ => .acqrel

def polCode : Pol → Nat
  | .rlx => 0 | .acq => 1 | .rel => 2 | .acqrel => 3

def scopeOf (n : Nat) : Scope :=
  match n with
  | 0 => .tile | 1 => .cluster | 2 => .die | 3 => .package | 4 => .domain | _ => .system

def scopeCode : Scope → Nat
  | .tile => 0 | .cluster => 1 | .die => 2 | .package => 3 | .domain => 4 | .system => 5

/-- Queue codes of POP and PUSH (R73): 0 none, 1 CT, 2 TM, 3 MX, 4 CL. -/
def popOf (n : Nat) : Option Qu := if n = 0 then none else some (quOfCode (n - 1))

def popCode : Option Qu → Nat
  | none => 0
  | some q => Qu.code q + 1

/-- A target field (R66): V in bit 9, SLOT, OPND. -/
def targetOf (n : Nat) : Option Target :=
  if n / 512 % 2 = 0 then none else some { slot := BitVec.ofNat 7 (n / 4), opnd := opndOf (n % 4) }

def targetCode : Option Target → Nat
  | none => 0
  | some t => 512 + t.slot.toNat * 4 + opndCode t.opnd

/-! ## Words -/

/-- OP of a word (R64). -/
def opOfWord (w : Word) : Nat := fieldOf w 54 10

/-- SUBOP of a word, where its row marks it S or its format is E (R68, R73). -/
def subOfWord (r : Row) (w : Word) : Nat :=
  match r.fmt with
  | .g => if r.subs.isSome then fieldOf w 16 4 else 0
  | .e => fieldOf w 18 4
  | _ => 0

/-- The fields of a word under its row's format (R67-R73). -/
def partsOfWord (r : Row) (w : Word) : Parts :=
  let pr := predOf (fieldOf w 52 2)
  let ty := tyOfCode (fieldOf w 48 4)
  let t0 := targetOf (fieldOf w 38 10)
  let t1 := targetOf (fieldOf w 28 10)
  match r.fmt with
  | .g => .g { pr := pr, ty := ty, t0 := t0, t1 := t1, i := w.getLsbD 27, rnd := rndOf (fieldOf w 24 3), na := w.getLsbD 23
               nb := w.getLsbD 22, nc := w.getLsbD 21, sat := w.getLsbD 20
               imm := BitVec.ofNat 20 (if r.subs.isSome then fieldOf w 0 16 else fieldOf w 0 20) }
  | .m => .m { pr := pr, ty := ty, t0 := t0, t1 := t1, seq := BitVec.ofNat 7 (fieldOf w 21 7), pseq := BitVec.ofNat 7 (fieldOf w 14 7)
               sseq := BitVec.ofNat 7 (fieldOf w 7 7), spc := spaceOf (fieldOf w 5 2), pol := polOf (fieldOf w 3 2)
               scope := scopeOf (fieldOf w 0 3) }
  | .b => .b { pr := pr, hint := w.getLsbD 51, exit := BitVec.ofNat 3 (fieldOf w 48 3), off := BitVec.ofNat 48 (fieldOf w 0 48) }
  | .k => .k { pr := pr, ty := ty, t0 := t0, imm := BitVec.ofNat 38 (fieldOf w 0 38) }
  | .w => .w { pr := pr, t0 := t0, t1 := t1, word := BitVec.ofNat 5 (fieldOf w 23 5), ksel := BitVec.ofNat 2 (fieldOf w 21 2) }
  | .e => .e { pr := pr, ty := ty, pop := popOf (fieldOf w 25 3), push := popOf (fieldOf w 22 3) } (BitVec.ofNat 18 (fieldOf w 0 18))

/-- What a word holds that its parts cannot: a clear target with SLOT or OPND set (R66), RND 110 or 111 (R51), SCOPE 6 or 7 (R69), a
queue code above 100 (R73), reserved bits of formats W and E, a TY where the format has none, SUBOP bits beyond a non-S row. -/
def rawCauses (r : Row) (w : Word) : List Nat :=
  let tgt (n : Nat) : Bool := decide (n / 512 % 2 = 0) && decide (n % 512 ≠ 0)
  let bad0 := tgt (fieldOf w 38 10)
  let bad1 := tgt (fieldOf w 28 10)
  match r.fmt with
  | .g => causeIf (decide (6 ≤ fieldOf w 24 3)) 6 ++ causeIf (bad0 || bad1) 7
  | .m => causeIf (decide (6 ≤ fieldOf w 0 3)) 6 ++ causeIf (bad0 || bad1) 7
  | .b => []
  | .k => causeIf bad0 7
  | .w => causeIf (decide (fieldOf w 48 4 ≠ 0)) 5 ++ causeIf (decide (fieldOf w 0 21 ≠ 0)) 6 ++ causeIf (bad0 || bad1) 7
  | .e => causeIf (decide (5 ≤ fieldOf w 25 3) || decide (5 ≤ fieldOf w 22 3)) 6 ++ causeIf (decide (fieldOf w 28 20 ≠ 0)) 7

/-- Every cause of R92 that a word breaks by itself. -/
def wordCauses (m : Mode) (w : Word) : List Nat :=
  let op := opOfWord w
  match rowOf op with
  | none => [if isFrameOp op then 2 else 1]
  | some r => rawCauses r w ++ partsCauses m op (subOfWord r w) r (partsOfWord r w)

/-- The lowest cause of a list (R92). -/
def lowestCause (l : List Nat) : Option Nat := minOf? l

/-- Decoding of a word (R64-R75): its instruction, or the lowest cause that applies. -/
def decodeWord (m : Mode) (w : Word) : Except Nat Instr :=
  match lowestCause (wordCauses m w) with
  | some c => .error c
  | none =>
    match rowOf (opOfWord w) with
    | none => .error 1
    | some r =>
      match instrOf (opOfWord w) (subOfWord r w) (partsOfWord r w) with
      | some i => .ok i
      | none => .error 1

/-- A word read without its checks, for a word that has been checked when its block was mapped or its image loaded. -/
def readWord (w : Word) : Option Instr :=
  match rowOf (opOfWord w) with
  | none => none
  | some r => instrOf (opOfWord w) (subOfWord r w) (partsOfWord r w)

/-! ## The encoder of words -/

/-- The bits of a word from its fields (R64). -/
def packHead (op : Nat) (pr : Pred) (ty t0 t1 x : Nat) : Word :=
  BitVec.ofNat 64 (op * 2 ^ 54 + predCode pr * 2 ^ 52 + ty * 2 ^ 48 + t0 * 2 ^ 38 + t1 * 2 ^ 28 + x)

/-- The word of an opcode, a sub-op and fields (R64-R73). -/
def encodeParts (op sub : Nat) (s : Bool) (p : Parts) : Word :=
  match p with
  | .g f =>
    packHead op f.pr (Ty.code f.ty) (targetCode f.t0) (targetCode f.t1)
      (boolBit f.i * 2 ^ 27 + rndCode f.rnd * 2 ^ 24 + boolBit f.na * 2 ^ 23 + boolBit f.nb * 2 ^ 22 + boolBit f.nc * 2 ^ 21
        + boolBit f.sat * 2 ^ 20 + (if s then sub * 2 ^ 16 + f.imm.toNat % 65536 else f.imm.toNat))
  | .m f =>
    packHead op f.pr (Ty.code f.ty) (targetCode f.t0) (targetCode f.t1)
      (f.seq.toNat * 2 ^ 21 + f.pseq.toNat * 2 ^ 14 + f.sseq.toNat * 2 ^ 7 + spaceCode f.spc * 32 + polCode f.pol * 8
        + scopeCode f.scope)
  | .b f => BitVec.ofNat 64 (op * 2 ^ 54 + predCode f.pr * 2 ^ 52 + boolBit f.hint * 2 ^ 51 + f.exit.toNat * 2 ^ 48 + f.off.toNat)
  | .k f => BitVec.ofNat 64 (op * 2 ^ 54 + predCode f.pr * 2 ^ 52 + Ty.code f.ty * 2 ^ 48 + targetCode f.t0 * 2 ^ 38 + f.imm.toNat)
  | .w f => packHead op f.pr 0 (targetCode f.t0) (targetCode f.t1) (f.word.toNat * 2 ^ 23 + f.ksel.toNat * 2 ^ 21)
  | .e f eng =>
    packHead op f.pr (Ty.code f.ty) 0 0 (popCode f.pop * 2 ^ 25 + popCode f.push * 2 ^ 22 + sub * 2 ^ 18 + eng.toNat)

/-- The word of an instruction (R64-R75); none for a frame or an event. -/
def encode (i : Instr) : Option Word :=
  match Instr.parts i with
  | none => none
  | some (op, sub, p) =>
    match rowOf op with
    | none => none
    | some r => some (encodeParts op sub r.subs.isSome p)

/-! ## Frames -/

/-- The fields of an SU frame (R87). -/
def suFrameOf (f : Frame) : SuFrame :=
  { valbase := BitVec.ofNat 17 (fieldOf f 192 17), param := BitVec.ofNat 32 (fieldOf f 160 32), len := BitVec.ofNat 32 (fieldOf f 128 32)
    segbase := BitVec.ofNat 17 (fieldOf f 96 17), crdbase := BitVec.ofNat 17 (fieldOf f 64 17), mtsel := BitVec.ofNat 8 (fieldOf f 32 8)
    bcout := f.getLsbD 27, bcin := f.getLsbD 26, level := BitVec.ofNat 3 (fieldOf f 23 3), redop := BitVec.ofNat 4 (fieldOf f 19 4)
    duppol := BitVec.ofNat 2 (fieldOf f 17 2), strict := f.getLsbD 16 }

def suReserved (f : Frame) : Bool :=
  decide (fieldOf f 224 32 ≠ 0) || decide (fieldOf f 209 15 ≠ 0) || decide (fieldOf f 113 15 ≠ 0) || decide (fieldOf f 81 15 ≠ 0)
    || decide (fieldOf f 40 24 ≠ 0) || decide (fieldOf f 28 4 ≠ 0) || decide (fieldOf f 10 6 ≠ 0)

def suFrameBits (op : Nat) (f : SuFrame) : Frame :=
  BitVec.ofNat 256 (op + boolBit f.strict * 2 ^ 16 + f.duppol.toNat * 2 ^ 17 + f.redop.toNat * 2 ^ 19 + f.level.toNat * 2 ^ 23
    + boolBit f.bcin * 2 ^ 26 + boolBit f.bcout * 2 ^ 27 + f.mtsel.toNat * 2 ^ 32 + f.crdbase.toNat * 2 ^ 64
    + f.segbase.toNat * 2 ^ 96 + f.len.toNat * 2 ^ 128 + f.param.toNat * 2 ^ 160 + f.valbase.toNat * 2 ^ 192)

/-- The fields of an MC frame (R88). -/
def mcFrameOf (f : Frame) : McFrame :=
  { wid := BitVec.ofNat 5 (fieldOf f 86 5), hgt := BitVec.ofNat 6 (fieldOf f 80 6), posx := BitVec.ofNat 5 (fieldOf f 72 5)
    posy := BitVec.ofNat 6 (fieldOf f 64 6), kblk := BitVec.ofNat 8 (fieldOf f 48 8), boff := BitVec.ofNat 14 (fieldOf f 32 14)
    mxs := f.getLsbD 21, bty := tyOfCode (fieldOf f 17 4), aty := tyOfCode (fieldOf f 13 4), acc := BitVec.ofNat 3 (fieldOf f 10 3) }

def mcReserved (f : Frame) : Bool :=
  decide (fieldOf f 91 165 ≠ 0) || decide (fieldOf f 77 3 ≠ 0) || decide (fieldOf f 70 2 ≠ 0) || decide (fieldOf f 56 8 ≠ 0)
    || decide (fieldOf f 46 2 ≠ 0) || decide (fieldOf f 22 10 ≠ 0)

def mcFrameBits (op : Nat) (f : McFrame) : Frame :=
  BitVec.ofNat 256 (op + f.acc.toNat * 2 ^ 10 + Ty.code f.aty * 2 ^ 13 + Ty.code f.bty * 2 ^ 17 + boolBit f.mxs * 2 ^ 21
    + f.boff.toNat * 2 ^ 32 + f.kblk.toNat * 2 ^ 48 + f.posy.toNat * 2 ^ 64 + f.posx.toNat * 2 ^ 72 + f.hgt.toNat * 2 ^ 80
    + f.wid.toNat * 2 ^ 86)

/-- The fields of an AG frame (R90). -/
def agFrameOf (f : Frame) : AgFrame :=
  { stride3 := BitVec.ofNat 32 (fieldOf f 224 32), stride2 := BitVec.ofNat 32 (fieldOf f 192 32)
    stride1 := BitVec.ofNat 32 (fieldOf f 160 32), cnt3 := BitVec.ofNat 16 (fieldOf f 144 16), cnt2 := BitVec.ofNat 16 (fieldOf f 128 16)
    cnt1 := BitVec.ofNat 16 (fieldOf f 112 16), cnt0 := BitVec.ofNat 16 (fieldOf f 96 16), base := BitVec.ofNat 64 (fieldOf f 32 64)
    spc := spaceOf (fieldOf f 18 2), ndim := BitVec.ofNat 2 (fieldOf f 16 2), ty := tyOfCode (fieldOf f 12 4), irel := f.getLsbD 11
    wr := f.getLsbD 10 }

def agReserved (f : Frame) : Bool := decide (fieldOf f 20 12 ≠ 0)

def agFrameBits (op : Nat) (f : AgFrame) : Frame :=
  BitVec.ofNat 256 (op + boolBit f.wr * 2 ^ 10 + boolBit f.irel * 2 ^ 11 + Ty.code f.ty * 2 ^ 12 + f.ndim.toNat * 2 ^ 16
    + spaceCode f.spc * 2 ^ 18 + f.base.toNat * 2 ^ 32 + f.cnt0.toNat * 2 ^ 96 + f.cnt1.toNat * 2 ^ 112 + f.cnt2.toNat * 2 ^ 128
    + f.cnt3.toNat * 2 ^ 144 + f.stride1.toNat * 2 ^ 160 + f.stride2.toNat * 2 ^ 192 + f.stride3.toNat * 2 ^ 224)

/-- The fields of an MT function frame (R89). -/
def mtFrameOf (f : Frame) : MtFrame :=
  { ovfbase := BitVec.ofNat 32 (fieldOf f 192 32), limit := BitVec.ofNat 64 (fieldOf f 128 64), base := BitVec.ofNat 64 (fieldOf f 64 64)
    param := BitVec.ofNat 32 (fieldOf f 32 32) }

def mtReserved (f : Frame) : Bool := decide (fieldOf f 224 32 ≠ 0) || decide (fieldOf f 10 22 ≠ 0)

def mtFrameBits (op : Nat) (f : MtFrame) : Frame :=
  BitVec.ofNat 256 (op + f.param.toNat * 2 ^ 32 + f.base.toNat * 2 ^ 64 + f.limit.toNat * 2 ^ 128 + f.ovfbase.toNat * 2 ^ 192)

/-- The frame kinds that hold an operation (R81, R83): SU frames, MC frames, and the function and AG frames of an MT. -/
inductive FrameKind where
  | su | mc | mtf | ag
  deriving DecidableEq, Repr

/-- The operation of a frame, by its opcode and kind. -/
def frameInstr (k : FrameKind) (f : Frame) : Option Instr :=
  match k, fieldOf f 0 10 with
  | .su, 0x200 => some (.scanc (suFrameOf f)) | .su, 0x201 => some (.scanb (suFrameOf f)) | .su, 0x202 => some (.scand (suFrameOf f))
  | .su, 0x203 => some (.scanl (suFrameOf f)) | .su, 0x208 => some (.isect (suFrameOf f)) | .su, 0x209 => some (.union (suFrameOf f))
  | .su, 0x20A => if f.getLsbD 160 then some (.gate (suFrameOf f)) else some (.merge (suFrameOf f))
  | .su, 0x210 => some (.repeatOp (suFrameOf f)) | .su, 0x211 => some (.reduce (suFrameOf f))
  | .su, 0x212 => some (.filter (suFrameOf f)) | .su, 0x213 => some (.split (suFrameOf f)) | .su, 0x218 => some (.lwrc (suFrameOf f))
  | .su, 0x219 => some (.lwrb (suFrameOf f)) | .su, 0x21A => some (.lwrd (suFrameOf f))
  | .mc, 0x240 => some (.mma (mcFrameOf f)) | .mc, 0x241 => some (.mmas (mcFrameOf f)) | .mc, 0x242 => some (.mdrain (mcFrameOf f))
  | .mc, 0x243 => some (.mzero (mcFrameOf f)) | .mc, 0x244 => some (.mpass (mcFrameOf f))
  | .ag, 0x280 => some (.aglin (agFrameOf f)) | .ag, 0x281 => some (.agnd (agFrameOf f)) | .ag, 0x282 => some (.aggath (agFrameOf f))
  | .ag, 0x283 => some (.agscat (agFrameOf f)) | .ag, 0x284 => some (.agrange (agFrameOf f))
  | .mtf, 0x288 => some (.mtcmpr (mtFrameOf f)) | .mtf, 0x289 => some (.mtexpd (mtFrameOf f)) | .mtf, 0x28A => some (.mtown (mtFrameOf f))
  | .mtf, 0x28B => some (.mtsync (mtFrameOf f)) | .mtf, 0x28C => some (.mtinv (mtFrameOf f))
  | _, _ => none

/-- Every cause of R93 that a frame breaks by itself. An OP outside its range is cause 0x16. (Model: DEDUCED, unsafe: notes/assumptions 19) -/
def frameBitsCauses (k : FrameKind) (f : Frame) : List Nat :=
  match frameInstr k f with
  | none => [0x16]
  | some i =>
    causeIf (match k with | .su => suReserved f | .mtf => mtReserved f | _ => false) 0x16
      ++ causeIf (match k with | .mc => mcReserved f | .ag => agReserved f | _ => false) 0x17 ++ frameCauses (fieldOf f 0 10) i

/-- Decoding of a frame: its operation, or the lowest cause that applies. -/
def decodeFrame (k : FrameKind) (f : Frame) : Except Nat Instr :=
  match lowestCause (frameBitsCauses k f) with
  | some c => .error c
  | none =>
    match frameInstr k f with
    | some i => .ok i
    | none => .error 0x16

/-- The kind of frame in which an opcode stands (R75). -/
def kindOfOp (op : Nat) : FrameKind := if op < 0x240 then .su else if op < 0x280 then .mc else if op < 0x288 then .ag else .mtf

/-- The frame of an operation (R87-R90); none for a word or an event. -/
def encodeFrame (i : Instr) : Option Frame :=
  match i with
  | .scanc f => some (suFrameBits 0x200 f) | .scanb f => some (suFrameBits 0x201 f) | .scand f => some (suFrameBits 0x202 f)
  | .scanl f => some (suFrameBits 0x203 f) | .isect f => some (suFrameBits 0x208 f) | .union f => some (suFrameBits 0x209 f)
  | .merge f => some (suFrameBits 0x20A f) | .gate f => some (suFrameBits 0x20A f) | .repeatOp f => some (suFrameBits 0x210 f)
  | .reduce f => some (suFrameBits 0x211 f) | .filter f => some (suFrameBits 0x212 f) | .split f => some (suFrameBits 0x213 f)
  | .lwrc f => some (suFrameBits 0x218 f) | .lwrb f => some (suFrameBits 0x219 f) | .lwrd f => some (suFrameBits 0x21A f)
  | .mma f => some (mcFrameBits 0x240 f) | .mmas f => some (mcFrameBits 0x241 f) | .mdrain f => some (mcFrameBits 0x242 f)
  | .mzero f => some (mcFrameBits 0x243 f) | .mpass f => some (mcFrameBits 0x244 f)
  | .aglin f => some (agFrameBits 0x280 f) | .agnd f => some (agFrameBits 0x281 f) | .aggath f => some (agFrameBits 0x282 f)
  | .agscat f => some (agFrameBits 0x283 f) | .agrange f => some (agFrameBits 0x284 f)
  | .mtcmpr f => some (mtFrameBits 0x288 f) | .mtexpd f => some (mtFrameBits 0x289 f) | .mtown f => some (mtFrameBits 0x28A f)
  | .mtsync f => some (mtFrameBits 0x28B f) | .mtinv f => some (mtFrameBits 0x28C f)
  | _ => none

/-! ## The opcode table's words -/

/-- Whether the low ten bits of a table word name a frame operation whose frame bits alone are given: a frame's OP stands in [9:0]. -/
def isFrameBits (nbits w : Nat) : Bool := decide (64 < nbits) || (decide (w < 2 ^ 54) && isFrameOp (w % 1024))

/-- The instruction that the decoder reads from a table word: the bits above nbits are zero. A frame's words are its four 64-bit
words, lowest first; an instruction word is read in mode B, or in mode G where its opcode has no mode B (R75). -/
def decodeTableWord (nbits w : Nat) : Option Instr :=
  let bits := w % 2 ^ nbits
  if isFrameBits nbits bits then
    (decodeFrame (kindOfOp (bits % 1024)) (BitVec.ofNat 256 bits)).toOption
  else
    match decodeWord .block (BitVec.ofNat 64 bits) with
    | .ok i => some i
    | .error c => if c = 3 then (decodeWord .graph (BitVec.ofNat 64 bits)).toOption else none

end Sys2Proof
end

