-- ==== Sys2Proof/Machine/Ops.lean ====
section
/-! DEFINITION. The named operations over the state: storage in canonical form (R103-R111), the parts of the state by name, Cistern
records (R424-R428), events (R296), faults of blocks, groups and the module (R357-R373), and taking an exception and returning
from one (R360, R364, R365). -/

namespace Sys2Proof.Machine

/-! ## Storage

All storage that holds bytes is one list of cells in canonical form: keys strictly rising, no zero byte; an unlisted byte reads as zero.  The
flat keys give each space its own range. -/

/-- HBM, by physical address (R115). -/
def hbmKey (pa : Nat) : Nat := pa % 2 ^ 40
/-- The die pad of a physical C-die, by die-pad physical address (R107). -/
def dieKey (die off : Nat) : Nat := 2 ^ 60 + die * 2 ^ 30 + off % 2 ^ 30
/-- The unit pads of a physical cluster, by up offset (R105). -/
def upKey (cl o : Nat) : Nat := 2 ^ 61 + cl * 2 ^ 23 + o % 2 ^ 23
/-- The cluster pad. -/
def cpKey (cl o : Nat) : Nat := 2 ^ 62 + cl * 2 ^ 23 + o % 2 ^ 23
/-- The B-store of a cluster, by bs offset (R106). -/
def bsKey (cl o : Nat) : Nat := 2 ^ 63 + cl * 2 ^ 25 + o % 2 ^ 25
/-- Host memory, by bus address. -/
def hostKey (bus : Nat) : Nat := 2 ^ 64 + bus % 2 ^ 64

/-- A physical address as R341 reads it: HBM below 2^40, a host bus address otherwise. -/
def physKey (pa : Nat) : Nat := if pa < 2 ^ 40 then hbmKey pa else hostKey pa

/-- The byte at a key. (Model: DESIGN CHOICE, unsafe: notes/assumptions 3) -/
def cellRead (m : List Host.Cell) (k : Nat) : Byte :=
  match m with
  | [] => 0
  | (j, b) :: r => if j = k then b else if k < j then 0 else cellRead r k

/-- Write the byte at a key, in canonical form. -/
def cellWrite (m : List Host.Cell) (k : Nat) (b : Byte) : List Host.Cell :=
  match m with
  | [] => if b = 0 then [] else [(k, b)]
  | (j, c) :: r =>
    if k < j then (if b = 0 then (j, c) :: r else (k, b) :: (j, c) :: r)
    else if j = k then (if b = 0 then r else (k, b) :: r)
    else (j, c) :: cellWrite r k b

/-- Canonical form: keys strictly rising, no zero byte. -/
def Memory.wf (m : List Host.Cell) : Bool :=
  match m with
  | [] => true
  | [(_, b)] => b != 0
  | (j, b) :: (k, c) :: r => decide (j < k) && b != 0 && Memory.wf ((k, c) :: r)

/-- Write bytes at consecutive keys. -/
def cellsWrite (m : List Host.Cell) (k : Nat) (l : List Byte) : List Host.Cell :=
  match l with
  | [] => m
  | b :: r => cellsWrite (cellWrite m k b) (k + 1) r

/-- Write bytes at their own keys, in order. -/
def cellsPut (m : List Host.Cell) (l : List (Nat × Byte)) : List Host.Cell :=
  match l with
  | [] => m
  | (k, b) :: r => cellsPut (cellWrite m k b) r

/-- Zero a range of keys (R111, R347). -/
def cellsZero (m : List Host.Cell) (k n : Nat) : List Host.Cell := m.filter fun c => decide (c.1 < k) || decide (k + n ≤ c.1)

def rdByte (s : State) (k : Nat) : Byte := cellRead s.mem k
def rdBytes (s : State) (k n : Nat) : List Byte := (List.range n).map fun i => cellRead s.mem (k + i)
/-- n bytes as a number, little-endian (R4). -/
def rdNum (s : State) (k n : Nat) : Nat := natOfBytes (rdBytes s k n)
def rdWord (s : State) (k : Nat) : Word := BitVec.ofNat 64 (rdNum s k 8)

/-- The words whose ECC an error injection has broken are whole again once written (R110, R450). -/
def mendPoison (p : List Nat) (l : List (Nat × Byte)) : List Nat := p.filter fun w => !(l.any fun c => decide (c.1 / 8 = w))

/-- The words of a list that do not lie in a range of keys. -/
def outside (k n : Nat) (l : List Nat) : List Nat := l.filter fun w => decide (w < k / 8) || decide ((k + n) / 8 ≤ w)

def wrBytes (s : State) (k : Nat) (l : List Byte) : State :=
  { s with mem := cellsWrite s.mem k l, poison := outside k (l.length + 7) s.poison, soft := outside k (l.length + 7) s.soft }
def wrNum (s : State) (k n x : Nat) : State := wrBytes s k (bytesOf n x)
def putBytes (s : State) (l : List (Nat × Byte)) : State := { s with mem := cellsPut s.mem l, poison := mendPoison s.poison l, soft := mendPoison s.soft l }
def zeroRange (s : State) (k n : Nat) : State :=
  { s with mem := cellsZero s.mem k n, poison := outside k n s.poison, soft := outside k n s.soft }

/-- Writes of owners' atomics that are due (key, bytes, value) take effect (R130). -/
def ownerSettle (s : State) : State :=
  if s.ownerWrites = [] then s else s.ownerWrites.foldl (fun s w => wrNum s w.1 w.2.1 w.2.2) { s with ownerWrites := [] }

/-- Bytes paired with their consecutive keys. -/
def keyed (k : Nat) (l : List Byte) : List (Nat × Byte) :=
  match l with
  | [] => []
  | b :: r => (k, b) :: keyed (k + 1) r

/-- Whether an error stands in a word of the range (R110). -/
def poisoned (s : State) (k n : Nat) : Bool := s.poison.any fun w => decide (k / 8 ≤ w) && decide (w < (k + n + 7) / 8)

/-! ## Parts of the state by name -/

def grp? (s : State) (g : Nat) : Option Group := Tab.get? s.groups g
def modGrp (s : State) (g : Nat) (f : Group → Group) : State := { s with groups := Tab.modify s.groups g f }
def modImage (s : State) (g : Nat) (f : Image → Image) : State := modGrp s g fun x => { x with image := f x.image }
def thread? (s : State) (g th : Nat) : Option Thread := (grp? s g).bind fun x => Tab.get? x.image.threads th
def modThread (s : State) (g th : Nat) (f : Thread → Thread) : State :=
  modImage s g fun i => { i with threads := Tab.modify i.threads th f }
def block? (s : State) (g th b : Nat) : Option Block := (thread? s g th).bind fun t => t.blocks[b]?
def modBlock (s : State) (g th b : Nat) (f : Block → Block) : State :=
  modThread s g th fun t => { t with blocks := modAt t.blocks b f }
def graph? (s : State) (g gi : Nat) : Option Graph := (grp? s g).bind fun x => Tab.get? x.image.graphs gi
def modGraph (s : State) (g gi : Nat) (f : Graph → Graph) : State :=
  modImage s g fun i => { i with graphs := Tab.modify i.graphs gi f }
def tile? (s : State) (g gi t : Nat) : Option Tile := (graph? s g gi).bind fun x => Tab.get? x.tiles t
def modTile (s : State) (g gi t : Nat) (f : Tile → Tile) : State :=
  modGraph s g gi fun x => { x with tiles := Tab.modify x.tiles t f }
def ce? (s : State) (g gi t : Nat) : Option Ce := (tile? s g gi t).bind (·.ce)
def modCe (s : State) (g gi t : Nat) (f : Ce → Ce) : State := modTile s g gi t fun x => { x with ce := x.ce.map f }
def su? (s : State) (g gi t : Nat) : Option Su := (tile? s g gi t).bind (·.su)
def modSu (s : State) (g gi t : Nat) (f : SuState → SuState) : State :=
  modTile s g gi t fun x => { x with su := x.su.map fun u => { u with st := f u.st } }
def mc? (s : State) (g gi t : Nat) : Option Mc := (tile? s g gi t).bind (·.mc)
def modMc (s : State) (g gi t : Nat) (f : Mc → Mc) : State := modTile s g gi t fun x => { x with mc := x.mc.map f }
def mt? (s : State) (g gi t : Nat) : Option Mt := (tile? s g gi t).bind (·.mt)
def modMt (s : State) (g gi t : Nat) (f : Mt → Mt) : State := modTile s g gi t fun x => { x with mt := x.mt.map f }
def modMtFn (s : State) (g gi t : Nat) (f : MtState → MtState) : State :=
  modMt s g gi t fun m => { m with fn := m.fn.map f }
/-- The AG of a port lane: 0 AG0, 1 AG1 (R227). -/
def ag? (s : State) (g gi t lane : Nat) : Option AgState := (mt? s g gi t).bind fun m => if lane = 0 then m.ag0 else m.ag1
def modAg (s : State) (g gi t lane : Nat) (f : AgState → AgState) : State :=
  modMt s g gi t fun m => if lane = 0 then { m with ag0 := m.ag0.map f } else { m with ag1 := m.ag1.map f }
def ctx (s : State) (c : Nat) : Context := Tab.get s.contexts c Context.reset
def setCtx (s : State) (c : Nat) (x : Context) : State := { s with contexts := Tab.set s.contexts c x }
def modCtx (s : State) (c : Nat) (f : Context → Context) : State := setCtx s c (f (ctx s c))
def queue (s : State) (q : Nat) : Queue := Tab.get s.queues q Queue.reset
def setQueue (s : State) (q : Nat) (x : Queue) : State := { s with queues := Tab.set s.queues q x }
def modQueue (s : State) (q : Nat) (f : Queue → Queue) : State := setQueue s q (f (queue s q))
def barrier (s : State) (b : Nat) : Barrier := Tab.get s.barriers b Barrier.reset
def setBarrier (s : State) (b : Nat) (x : Barrier) : State := { s with barriers := Tab.set s.barriers b x }
def fnOf (s : State) (f : Nat) : Fn := Tab.get s.fns f Fn.reset
def setFn (s : State) (f : Nat) (x : Fn) : State := { s with fns := Tab.set s.fns f x }
def link (s : State) (n : Nat) : Link := Tab.get s.links n Link.reset
def setLink (s : State) (n : Nat) (x : Link) : State := { s with links := Tab.set s.links n x }
def modLink (s : State) (n : Nat) (f : Link → Link) : State := setLink s n (f (link s n))
def job (s : State) (j : Nat) : Job := Tab.get s.jobs j Job.reset
def setJob (s : State) (j : Nat) (x : Job) : State := { s with jobs := Tab.set s.jobs j x }
def cluster (s : State) (c : Nat) : Cluster := Tab.get s.clusters c Cluster.reset
def setCluster (s : State) (c : Nat) (x : Cluster) : State := { s with clusters := Tab.set s.clusters c x }
def modCluster (s : State) (c : Nat) (f : Cluster → Cluster) : State := setCluster s c (f (cluster s c))
def dbg (s : State) (u : Nat) : Dbg := Tab.get s.dbgs u Dbg.reset
def setDbg (s : State) (u : Nat) (x : Dbg) : State := { s with dbgs := Tab.set s.dbgs u x }

/-! ## Clusters, tiles, placement -/

/-- The logical cluster index of a tile address (R20). -/
def logicalCluster (t : Nat) : Nat := (t / 32768) * 36 + (t / 4096) % 8 * 6 + (t / 512) % 8
/-- The tile in cluster (R20). -/
def tileInCluster (t : Nat) : Nat := t % 256
/-- Whether an 18-bit number names a tile (R19). -/
def namesTile (t : Nat) : Bool :=
  decide (t < 2 ^ 18) && decide ((t / 4096) % 8 < 6) && decide ((t / 512) % 8 < 6) && decide ((t / 256) % 2 = 0)
/-- The tile row, which fixes the kind (R11). -/
def tileRow (t : Nat) : Nat := (t / 16) % 16

/-- The physical cluster of a logical cluster of a group (R302). -/
def physCluster (x : Group) (l : Nat) : Nat :=
  match Tab.get? x.place (l / 36) with
  | some (p, dy, dx) => p * 36 + ((l % 36) / 6 + dy) * 6 + (l % 6 + dx)
  | none => 0

/-- The physical clusters that a group holds, in rank order. -/
def clustersOf (x : Group) : List Nat := if x.place = [] then [] else (List.range x.ncl).map (physCluster x)

/-- The physical cluster of a tile of a group, by logical tile address. -/
def clusterOfTile (x : Group) (t : Nat) : Nat := physCluster x (logicalCluster t)
/-- The physical cluster of a thread of a group: threads are numbered 4 × rank + thread in cluster (R279). -/
def clusterOfThread (x : Group) (th : Nat) : Nat := physCluster x (th / 4)
/-- A tile address on a physical cluster (R302). -/
def physTile (x : Group) (t : Nat) : Nat :=
  let p := clusterOfTile x t
  (p / 36) * 32768 + ((p % 36) / 6) * 4096 + (p % 6) * 512 + tileInCluster t

/-- The physical cluster of a group's tile or thread; 0 for a group that is not there. -/
def tileCl (s : State) (g t : Nat) : Nat := ((grp? s g).map fun x => clusterOfTile x t).getD 0
def threadCl (s : State) (g th : Nat) : Nat := ((grp? s g).map fun x => clusterOfThread x th).getD 0

/-- The work name of a tile of a graph (R23), with the physical tile. -/
def workName (s : State) (g gi t : Nat) : Nat :=
  match grp? s g with
  | none => 0
  | some x => ((tile? s g gi t).map (·.stage)).getD 0 * 2 ^ 18 + physTile x t

/-- The work name of a logical tile of a group, by the stage that a resident graph gives it; stage 0 where none does (R23). -/
def workOfTile (s : State) (x : Group) (t : Nat) : Nat :=
  ((x.image.graphs.findSome? fun p => (Tab.get? p.2.tiles t).map (·.stage)).getD 0) * 2 ^ 18 + physTile x t

/-- Whether a group is placed: it holds clusters (R311). -/
def placed (x : Group) : Bool :=
  x.state == .armed || x.state == .running || x.state == .parked || x.state == .cutting || x.state == .stopped

/-- The present clusters, ascending. -/
def presentClusters (s : State) : List Nat := (List.range Config.clusters).filter fun c => s.present.getLsbD c
def firstPresent (s : State) : Nat := ((presentClusters s).head?).getD 0

/-! ## Cistern records (R424-R428) -/

def mkRecord (time cls code tile c payload : Nat) : BitVec 128 :=
  BitVec.ofNat 128 ((time % 2 ^ 32) * 2 ^ 96 + (c % 4096) * 2 ^ 84 + cls * 2 ^ 80 + code * 2 ^ 72 + (tile % 256) * 2 ^ 64
    + payload % 2 ^ 64)

/-- A ring takes its queued records, each new one overwriting the oldest beyond 16,384. `ringBase` counts the records that have gone from it. -/
def ringPush (c : Cluster) : Cluster :=
  let r := c.ring ++ c.ringq
  let n := r.length - Config.ringRecords
  { c with ring := r.drop n, ringq := [], ringBase := c.ringBase + n, hurt := c.hurt.filter fun i => decide (c.ringBase + n ≤ i) }

/-- A cluster moves its queued records to its ring, with a LOST record when some were dropped. -/
def ringFlush (time : Nat) (c : Cluster) : Cluster :=
  let c := ringPush c
  if c.lostTok = 0 ∧ c.lostUsr = 0 then c
  else { c with ringq := [mkRecord time 0 3 0 0 (c.lostUsr % 2 ^ 32 * 2 ^ 32 + c.lostTok % 2 ^ 32)], lostTok := 0, lostUsr := 0 }

/-- Queue a record at a cluster: TIME first where R427 asks; TOK and USR are dropped and counted when the queue is full. -/
def recordAt (time cls code tile c payload : Nat) (k : Cluster) : Cluster :=
  if k.frozen.isSome then k
  else
    let late := k.lastTime.map (fun t => t / 2 ^ 31) != some (time / 2 ^ 31)
    let new := (if late then [mkRecord time 0 1 0 0 time] else []) ++ [mkRecord time cls code tile c payload]
    let k := if late then { k with lastTime := some time } else k
    if k.ringq.length + new.length ≤ Config.ringQueue then { k with ringq := k.ringq ++ new }
    else if cls = 4 then { k with lostTok := k.lostTok + 1 }
    else if cls = 8 then { k with lostUsr := k.lostUsr + 1 }
    else let k := ringFlush time k; { k with ringq := k.ringq ++ new }

/-- Write one record to a cluster's ring. -/
def record (s : State) (cl cls code tile c payload : Nat) : State :=
  modCluster s cl (recordAt s.dtime cls code tile c payload)

/-- Write one record to each of a list of clusters. -/
def recordAll (s : State) (cls code c payload : Nat) (l : List Nat) : State :=
  l.foldl (fun s cl => record s cl cls code 0 c payload) s

/-- A SCH record of a group goes to every cluster that it occupies (R425); a group that occupies none has it in the ring of the lowest-indexed present cluster. (Model: DEDUCED, unsafe: notes/assumptions 123) -/
def schRecord (s : State) (g code payload : Nat) : State :=
  match grp? s g with
  | none => s
  | some x => recordAll s 3 code x.ctx payload (if placed x then clustersOf x else [firstPresent s])

/-- The physical clusters that a graph of a group occupies. -/
def graphClusters (x : Group) (gr : Graph) : List Nat := (gr.tiles.map fun p => clusterOfTile x p.1).eraseDups

/-- A device record that concerns no cluster (R425). -/
def devRecord (s : State) (cls code payload : Nat) : State := record s (firstPresent s) cls code 0 0 payload

/-! ## Events to functions (R296) -/

/-- Write one event: CODE, the CTXID and QID fields, ERR and [63:40]. (Model: DESIGN CHOICE, safe: notes/assumptions 9) -/
def event (s : State) (f code c q err low : Nat) : State :=
  let x := fnOf s f
  let n := x.evsize.toNat
  if n = 0 then s
  else if (x.evprod - x.evcons).toNat = 2 ^ n then setFn s f { x with ovf := true }
  else
    let w0 := code + c % 4096 * 2 ^ 8 + q % 4096 * 2 ^ 20 + err % 256 * 2 ^ 32 + low % 2 ^ 24 * 2 ^ 40
    let s := wrNum s (physKey (x.evbase.toNat + 16 * (x.evprod.toNat % 2 ^ n))) 16 (w0 + s.dtime % 2 ^ 64 * 2 ^ 64)
    setFn s f { x with evprod := x.evprod + 1 }

/-- The function that owns a context. -/
def ownerOf (s : State) (c : Nat) : Nat := (ctx s c).owner.toNat

/-- Whether a context is live (R267). -/
def ctxLive (x : Context) : Bool := x.st != .free

/-! ## Fatal faults (R373, R430) -/

/-- The clusters in the order of the freeze wave, with H-die 0 as 288 (R430). -/
def waveOrder (s : State) (origin : Option Nat) : List Nat :=
  let die (d : Nat) : List Nat := (List.range 36).map (fun n => d * 36 + n)
  let here (l : List Nat) : List Nat := l.filter fun c => s.present.getLsbD c
  match origin with
  | none => 288 :: here (List.range 288)
  | some c =>
    let d := c / 36
    let own := (List.range 36).map fun k => d * 36 + (c % 36 + k) % 36
    here own ++ [288] ++ here (((List.range 8).filter (· != d)).flatMap die)

/-- A fatal fault starts the freeze wave, or joins the one that runs (R432). -/
def raiseFatal (s : State) (code : Nat) (origin : Option Nat) (work : Nat) : State :=
  match s.wave with
  | some _ => s
  | none =>
    { s with
      wave := some { code := code, origin := origin, work := work % 2 ^ 24, time := s.dtime, todo := waveOrder s origin, next := 0, hub := false }
      fatal := BitVec.ofNat 8 code }

/-- The cluster whose storage a key names: its unit pads, its cluster pad or its B-store, or the one below whose slice of the die pad it stands (R105-R107). -/
def keyCluster (k : Nat) : Nat :=
  if k < 2 ^ 61 then k % 2 ^ 60 / 2 ^ 30 * 36 + k % 2 ^ 30 / 2 ^ 24
  else if k < 2 ^ 62 then k % 2 ^ 61 / 2 ^ 23
  else if k < 2 ^ 63 then k % 2 ^ 62 / 2 ^ 23
  else k % 2 ^ 63 / 2 ^ 25

/-- The work name that an error at a key gives the capsule: that of the pad's MT for a unit pad, by its stage where a placed graph holds it, and 0 for every other pad and the B-store (R450). -/
def eccWork (s : State) (k : Nat) : Nat :=
  if k < 2 ^ 61 ∨ 2 ^ 62 ≤ k then 0
  else
    let p := keyCluster k
    let t := (p / 36) * 32768 + ((p % 36) / 6) * 4096 + (p % 6) * 512 + k % 2 ^ 23 / 131072
    let stage := s.groups.findSome? fun (_, x) =>
      if placed x then x.image.graphs.findSome? fun (_, gr) => (gr.tiles.find? fun (l, y) => y.mt.isSome && decide (physTile x l = t)).map fun p => p.2.stage
      else none
    stage.getD 0 * 2 ^ 18 + t

/-- Whether a word stands in a scratchpad or a B-store. -/
def onChipWord (w : Nat) : Bool := decide (2 ^ 60 ≤ 8 * w) && decide (8 * w < 2 ^ 64)

/-- ECC_ARCH at a word, found by the cluster that holds it. (Model: DEDUCED, unsafe: notes/assumptions 129) -/
def eccRaise (s : State) (w : Nat) : State := raiseFatal s 0x40 (some (keyCluster (8 * w))) (eccWork s (8 * w))

/-- The code and the offset that an ECCFIX record gives for a key (R426). (Model: DESIGN CHOICE, unsafe: notes/assumptions 151) -/
def eccSpace (k : Nat) : Nat :=
  if k < 2 ^ 60 then 4 * 2 ^ 40 + k % 2 ^ 40
  else if k < 2 ^ 61 then 2 * 2 ^ 40 + k % 2 ^ 30
  else if k < 2 ^ 62 then k % 2 ^ 23
  else if k < 2 ^ 63 then 2 ^ 40 + k % 2 ^ 23
  else 3 * 2 ^ 40 + k % 2 ^ 25

/-- Correctable errors that an access finds are corrected in place, with a MEM ECCFIX record each (R110). A word of HBM is named in the ring of the lowest-indexed present cluster. -/
def eccFix (s : State) (hit : Nat → Bool) : State :=
  if s.soft = [] then s
  else
    let l := s.soft.filter hit
    l.foldl (fun s w => record s (if onChipWord w then keyCluster (8 * w) else firstPresent s) 2 3 0 0 (eccSpace (8 * w))) { s with soft := s.soft.filter fun w => !hit w }

/-- Correctable errors in the words of n bytes at a key. -/
def eccFixAt (s : State) (k n : Nat) : State := eccFix s fun w => decide (k < 8 * w + 8) && decide (8 * w < k + n)

/-- What an access of n bytes at a key finds: a read or a narrower write meets the error of a word, and a write of the whole word removes it (R110, R450). -/
def eccTouch (s : State) (k n : Nat) (write : Bool) : State :=
  let s := eccFix s fun w => decide (k < 8 * w + 8) && decide (8 * w < k + n) && !(write && decide (k ≤ 8 * w) && decide (8 * w + 8 ≤ k + n))
  match s.poison.find? fun w => onChipWord w && decide (k < 8 * w + 8) && decide (8 * w < k + n) && !(write && decide (k ≤ 8 * w) && decide (8 * w + 8 ≤ k + n)) with
  | some w => eccRaise s w
  | none => s

/-- What the bytes of a store find: a word of which they hold only a part is merged inside its bank, which reads it (R109, R450). -/
def eccStore (s : State) (l : List (Nat × Byte)) : State :=
  let s := eccFix s fun w => l.any (fun p => decide (p.1 / 8 = w)) && !((List.range 8).all fun i => l.any fun p => decide (p.1 = 8 * w + i))
  match s.poison.find? fun w => onChipWord w && l.any (fun p => decide (p.1 / 8 = w)) && !((List.range 8).all fun i => l.any fun p => decide (p.1 = 8 * w + i)) with
  | some w => eccRaise s w
  | none => s

/-- What reads of single bytes find. -/
def eccBytes (s : State) (l : List Nat) : State :=
  let s := eccFix s fun w => l.any fun k => decide (k / 8 = w)
  match s.poison.find? fun w => onChipWord w && l.any fun k => decide (k / 8 = w) with
  | some w => eccRaise s w
  | none => s

/-- Whether a cluster has stopped: the freeze wave has reached it. -/
def stoppedCl (s : State) (cl : Nat) : Bool := (cluster s cl).frozen.isSome

/-- Whether the device takes commands and register writes: READY, power on, and H-die 0 not frozen (R430, R458). -/
def devReady (s : State) : Bool := s.power && s.dev == .ready && !((s.wave.map (·.hub)).getD false) && decide (s.dstate = 0)

/-- Whether every register answers a read: from READY on, and while the device is FROZEN, since the freeze wave stops writes alone (R430, R457). -/
def readsServed (s : State) : Bool := s.power && (s.dev == .ready || s.dev == .frozen)

/-- Whether the clusters run: READY and power on. A cluster that the freeze wave has not reached runs on when H-die 0 has stopped (R430). -/
def coreUp (s : State) : Bool := s.power && s.dev == .ready && decide (s.dstate = 0)

/-- Whether H-die 0 has stopped for the freeze wave, and link egress with it (R430). -/
def hubStopped (s : State) : Bool := (s.wave.map (·.hub)).getD false

/-! ## Faults of blocks and groups (R357-R373) -/

/-- A block takes a fault: the mapping fault first, then the fault of the lowest slot (R359). -/
def blockFault (s : State) (g th b : Nat) (slot : Option Nat) (code cause : Nat) (wr : Bool) (addr : Nat) : State :=
  modBlock s g th b fun k =>
    let new : FaultInfo := { slot := slot, code := code, cause := cause, wr := wr, addr := addr }
    match k.fault with
    | none => { k with fault := some new }
    | some old =>
      match old.slot, slot with
      | some i, some j => if j < i then { k with fault := some new } else k
      | none, some _ => if old.code = 3 ∨ old.code = 0x11 then { k with fault := some new } else k
      | _, _ => k

/-- FLTCODE of a fault (R357). -/
def fltcodeOf (f : FaultInfo) (perf : Bool) : BitVec 32 :=
  BitVec.ofNat 32 (f.cause % 256 + f.code % 256 * 2 ^ 8 + boolBit f.wr * 2 ^ 16 + boolBit perf * 2 ^ 17
    + (f.slot.getD 0) % 128 * 2 ^ 18 + boolBit f.slot.isSome * 2 ^ 25)

/-- Where an element stands among those that fault in one cycle: its cluster index, then its tile in cluster (R369). -/
def workPlace (work : Nat) : Nat := logicalCluster (work % 2 ^ 18) * 256 + tileInCluster work

/-- An element drives the freeze line of its group. The line reports the first fault, and of those of one cycle the one of the lowest cluster index and tile (R369). `work` is the element's work name, kept in place of a slot. -/
def raiseFreeze (s : State) (g code cause addr work : Nat) : State :=
  let f : FaultInfo := { slot := some work, code := code, cause := cause, wr := false, addr := addr }
  modGrp s g fun x =>
    match x.freeze with
    | none => { x with freeze := some f, frozenAt := s.cycle, drove := [work], skids := [] }
    | some e =>
      let first := x.frozenAt = s.cycle ∧ work ≠ 0 ∧ workPlace work < workPlace (e.slot.getD 0)
      { x with freeze := if first then some f else some e, drove := work :: x.drove }

/-- Cycles after a fault within which every part of the group has stopped (R369). -/
def skidLimit : Nat := 32

/-- Whether the freeze line lets what it reaches within the skid limit go on (R369). -/
def skidding (s : State) (x : Group) : Bool := x.freeze.isNone || decide (s.cycle < x.frozenAt + skidLimit)

/-- Whether the freeze line lets an element act: one that has driven the line has stopped, and the others stop within the skid limit (R369). (Model: DEDUCED, unsafe: notes/assumptions 12) -/
def lineLets (s : State) (x : Group) (work : Nat) : Bool :=
  x.freeze.isNone || (skidding s x && !has x.drove work && decide (Tab.get x.skids work 0 < skidLimit))

/-- An element that goes on after the fault counts what it completes: its skid (R369). -/
def addSkid (s : State) (g work n : Nat) : State :=
  match grp? s g with
  | none => s
  | some x => if x.freeze.isNone then s else modGrp s g fun x => { x with skids := Tab.set x.skids work (min skidLimit (Tab.get x.skids work 0 + n)) }

/-- A freeze of a resident element: FLTADDR is its work name (R358). -/
def elemFreeze (s : State) (g gi t code : Nat) : State := raiseFreeze s g code 0 (workName s g gi t) (workName s g gi t)

def TOKEN_BAD : Nat := 0x20
def TOKEN_ALIGN : Nat := 0x21
def STREAM_ORDER : Nat := 0x22
def FIBRE_SPAN : Nat := 0x23
def CHAN_ECC : Nat := 0x24

/-- An answer that a discarded block awaited is dropped when it comes (R136). -/
def dropDest (g th : Nat) (d : Dest) : Dest :=
  match d with
  | .load (.block g' th' _ _) _ _ _ | .atomic (.block g' th' _ _) _ _ => if g' = g ∧ th' = th then .load .none 0 0 0 else d
  | _ => d

def dropPcie (g th : Nat) (r : Pcie) : Pcie :=
  match r with
  | .read k n d => .read k n (dropDest g th d)
  | .atomic k n op b c d => .atomic k n op b c (dropDest g th d)
  | _ => r

/-- Discard the blocks of a thread (R136): their answers are dropped; parked readers, waiting puts and invocations are withdrawn (R193, R294); popped tokens
return to their FIFOs (R196). -/
def discardBlocks (s : State) (g th : Nat) : State :=
  let s := { s with reqs := s.reqs.map (fun (r : Req) => { r with dest := dropDest g th r.dest }), pcie := s.pcie.map (dropPcie g th) }
  let s := { s with queues := Tab.mapVals s.queues fun _ q => { q with waiters := q.waiters.filter (· != (g, th)) } }
  let gone (r : Reader) : Bool := match r.site with | .block g' th' _ _ => decide (g' = g ∧ th' = th) | _ => false
  let keep (w : SyncWord) : SyncWord := { w with readers := w.readers.filter (!gone ·), overflow := w.overflow.filter (!gone ·) }
  let dropInv (v : Invoc) : Invoc := match v.site with | .block g' th' _ _ => if g' = g ∧ th' = th then { v with site := .none } else v | _ => v
  let mtf (m : MtState) : MtState :=
    { m with sync := Tab.mapVals m.sync fun _ w => keep w, invs := m.invs.map dropInv
             waiting := m.waiting.filter fun p => match p.1.site with | .block g' th' _ _ => !decide (g' = g ∧ th' = th) | _ => true }
  let s := modImage s g fun i => { i with graphs := Tab.mapVals i.graphs fun _ gr =>
    { gr with tiles := Tab.mapVals gr.tiles fun _ t => { t with mt := t.mt.map fun m => { m with fn := m.fn.map mtf } } } }
  let popBack (t : Thread) : Thread :=
    { t with fifos := t.blocks.foldl (fun f b => b.ctPopped.foldl (fun f q => Tab.set f (4 * Qu.code q) (Tab.get f (4 * Qu.code q) 0 + 1)) f) t.fifos
             blocks := [] }
  modThread s g th popBack

/-- Discard the blocks of a thread from position n on (R170): they hold nothing that only a thread's oldest block can hold. -/
def discardYounger (s : State) (g th n : Nat) : State := modThread s g th fun t => { t with blocks := t.blocks.take n }

/-! ## Taking an exception and returning from one -/

/-- Handler entry (R360): blocks are already discarded. The registers are written, then the thread enters its handler; in trap mode, or
with TRAPVEC 0, the group ends instead, and the answer is the code and cause with which it ends. -/
def trapEntry (s : State) (g th : Nat) (f : FaultInfo) (perf : Bool) (retry : Nat) : State × Option (Nat × Nat) :=
  match thread? s g th with
  | none => (s, none)
  | some t =>
    let fc := fltcodeOf f perf
    let s := modThread s g th fun t => { t with fltcode := fc, fltaddr := BitVec.ofNat 64 f.addr }
    if t.trapMode then (s, some (0x33, f.code))
    else if t.trapvec = 0 then (s, some (f.code, f.cause))
    else
      let lanes : List Nat := [fc.toNat, f.addr, retry, t.callers.length, t.wintop.toNat, s.dtime]
      let w0 : Value := packList 1024 64 lanes
      (modThread s g th fun t =>
        { t with trapMode := true, trapWindow := w0 :: t.trapWindow.drop 1, pc := t.trapvec.toNat, from_ := retry }, none)

/-- Return from a trap (R365): PC from A lane 0, the call window current again. -/
def trapReturn (s : State) (g th target : Nat) : State :=
  modThread s g th fun t => { t with trapMode := false, pc := target % 2 ^ 57 / 32 * 32 }

end Sys2Proof.Machine
end

