-- ==== Sys2Proof/Machine/Pages.lean ====
section
/-! DEFINITION. Translation of gm (R341-R350), the extents that hold translations, scratchpad offsets (R104-R107), and the places that an
access reaches. -/

namespace Sys2Proof.Machine

/-! ## The page table (R341-R343) -/

def entryKind (e : Word) : Nat := fieldOf e 4 3

/-- Whether the host answers table reads: the PCIe link, number 36, is up (R350 cause 0x07, R403). -/
def hostUp (s : State) : Bool :=
  let l := link s 36
  l.st == .up || l.st == .attesting || l.st == .trusted

/-- log2 of the page size of a leaf at a level (R341). -/
def leafBits (level : Nat) : Nat := if level = 2 then 30 else if level = 3 then 21 else 16

/-- A malformed entry (R343). -/
def malformed (s : State) (level : Nat) (e : Word) : Bool :=
  let leaf := e.getLsbD 1
  let k := entryKind e
  let bits := leafBits level
  decide (fieldOf e 52 12 ≠ 0) || e.getLsbD 7
    || (if leaf then
          decide (level < 2) || decide (4 < k) || (decide (level = 2) && decide (k = 1 ∨ k = 2)) || (decide (level = 3) && decide (k = 2))
            || decide (fieldOf e 8 8 ≠ 0)
            || (match k with
                | 0 => decide (fieldOf e 40 12 ≠ 0) || decide (fieldOf e 0 bits / 65536 ≠ 0)
                | 1 =>
                  let d := fieldOf e 32 3
                  let u := fieldOf e 16 14
                  let r := Tab.get s.rpcfg d 0
                  let n := 2 ^ (bits - 16)
                  decide (fieldOf e 30 2 ≠ 0) || decide (fieldOf e 35 17 ≠ 0) || decide (u % n ≠ 0)
                    || !(decide (fieldOf r 0 14 ≤ u) && decide (u + n ≤ fieldOf r 0 14 + fieldOf r 14 14))
                | 2 => decide (fieldOf e 35 17 ≠ 0)
                | 3 => decide (fieldOf e 0 bits / 65536 ≠ 0)
                | _ => decide (fieldOf e 44 8 ≠ 0))
        else decide (level = 4) || decide (k ≠ 0))

/-- The index of a level (R341). -/
def levelIndex (level va : Nat) : Nat :=
  match level with
  | 0 => (va / 2 ^ 48) % 512 | 1 => (va / 2 ^ 39) % 512 | 2 => (va / 2 ^ 30) % 512 | 3 => (va / 2 ^ 21) % 512 | _ => (va / 2 ^ 16) % 32

/-- The walk from a table, with the levels still to go as fuel: the leaf and log2 of its page's size, or the cause of R350. -/
def walkFrom (s : State) (va : Nat) : Nat → Nat → Nat → Except Nat (Word × Nat)
  | 0, _, _ => .error 4
  | fuel + 1, level, table =>
    let a := table + 8 * levelIndex level va
    if (decide (2 ^ 40 ≤ a) && (!hostUp s || decide (s.tableError = 1))) || (decide (a < 2 ^ 40) && poisoned s (physKey a) 8) then .error 7
    else
      let e := rdWord s (physKey a)
      if !e.getLsbD 0 then .error 1
      else if malformed s level e then .error 4
      else if e.getLsbD 1 then .ok (e, leafBits level)
      else walkFrom s va fuel (level + 1) (fieldOf e 8 44 * 256)

/-- The walk of a VA in a context's table (R341). -/
def walk (s : State) (c va : Nat) : Except Nat (Word × Nat) :=
  if 2 ^ 57 ≤ va then .error 3 else walkFrom s va 5 0 ((ctx s c).ptroot.toNat % 2 ^ 52 / 4096 * 4096)

/-! ## Extents (R348, R349) -/

/-- The holders of translations and how many extents each keeps. -/
def edgeHolder (cl : Nat) : Nat := cl
def moveHolder (cl t : Nat) : Nat := 1000 + 4 * cl + t
def homeHolder : Nat := 3000
def agHolder (g gi t lane : Nat) : Nat := 2 ^ 20 + ((g * 8 + gi) * 2 ^ 18 + t) * 2 + lane
def holderCap (h : Nat) : Nat := if h < 1000 then 256 else if h < 3000 then 8 else if h = 3000 then 256 else 16

def findExtent (l : List Extent) (c va : Nat) : Option Extent :=
  l.find? fun e => decide (e.ctx = c) && decide (e.base ≤ va) && decide (va < e.base + 2 ^ e.size)

/-- A translation by a holder: from an extent that it keeps, or by a walk that fills one. Nothing caches a failed walk. -/
def translate (s : State) (h c va : Nat) : State × Except Nat (Word × Nat) :=
  match findExtent (Tab.get s.extents h []) c va with
  | some e => (s, .ok (e.leaf, e.size))
  | none =>
    match walk s c va with
    | .error e => (s, .error e)
    | .ok (leaf, size) =>
      let old := Tab.get s.extents h []
      let new : Extent := { ctx := c, base := va / 2 ^ size * 2 ^ size, size := size, leaf := leaf }
      ({ s with extents := Tab.set s.extents h (new :: old.take (holderCap h - 1)) }, .ok (leaf, size))

/-- A translation by the home side of peer accesses, which keeps extents of its own memory alone (R346). -/
def homeTranslate (s : State) (c va : Nat) : State × Except Nat (Word × Nat) :=
  let (s', r) := translate s homeHolder c va
  match r with
  | .ok (e, _) => if entryKind e ≤ 1 then (s', r) else (s, r)
  | .error _ => (s', r)

/-- Drop every extent of a context that overlaps a range (R351 step 2); a length of 0 names every VA. -/
def dropExtents (s : State) (c va n : Nat) : State :=
  { s with extents := Tab.mapVals s.extents fun _ l =>
      l.filter fun e => !(decide (e.ctx = c) && (decide (n = 0) || (decide (e.base < va + n * 65536) && decide (va < e.base + 2 ^ e.size)))) }

/-- Whether a started invalidation of the context holds the VA (R351 step 1). -/
def invalBlocks (s : State) (c va : Nat) : Bool :=
  (ctx s c).invals.any fun i => i.started && (decide (i.n = 0) || (decide (i.va ≤ va) && decide (va < i.va + i.n * 65536)))

/-! ## Places -/

/-- What an access needs of its leaf (R344). -/
inductive Need where
  | read | write | atomic | sync
  deriving DecidableEq, Repr

/-- Where an access is served (R117). -/
inductive Place where
  | store (key : Nat)
  | sync (gi tile byte : Nat)
  | host (bus : Nat)
  | peer (pkg hasid va : Nat)
  deriving DecidableEq, Repr

/-- SYNC_KIND is no cause of R350; translation reports it with this number. -/
def causeSyncKind : Nat := 0x100

/-- An access that an invalidation at its home holds back waits (R351); translation reports it with this number. -/
def causeWait : Nat := 0x101

/-- The live context of an ASID. -/
def ctxOfAsid (s : State) (asid : Nat) : Option Nat := (s.contexts.find? fun p => ctxLive p.2 && decide (p.2.asid.toNat = asid)).map (·.1)

/-- Whether the leaf allows the access (R344). -/
def needOk (e : Word) (n : Need) : Bool :=
  match n with
  | .read => e.getLsbD 2
  | .write => e.getLsbD 3
  | _ => e.getLsbD 2 && e.getLsbD 3

/-- The resident graph of a group whose MTOWN or MTSYNC serves a pad byte of a logical tile (R345). (Model: DESIGN CHOICE, safe: notes/assumptions 116) -/
def serverOf (s : State) (g tile byte : Nat) : Option Nat :=
  match grp? s g with
  | none => none
  | some x =>
    (x.image.graphs.find? fun (_, gr) =>
      match (Tab.get? gr.tiles tile).bind (·.mt) with
      | some m => (match m.fn with
          | some f =>
            let op := fieldOf f.frame 0 10
            decide (op = 0x28A ∨ op = 0x28B) && decide (fieldOf f.frame 64 64 ≤ byte) && decide (byte < fieldOf f.frame 128 64)
          | none => false)
      | none => false).map (·.1)

/-- The home side of a peer access, at this package (R346, R404): its translation in the live context whose ASID is HASID, of the same
job, with normal and resident leaves alone. -/
def homePlace (s : State) (hasid jobid va : Nat) (n : Need) : State × Option Place :=
  match s.contexts.find? fun (_, x) => ctxLive x && decide (x.asid.toNat = hasid) with
  | none => (s, none)
  | some (c, x) =>
    if !(x.ctxjob.getLsbD 32 && decide (fieldOf x.ctxjob 0 32 = jobid)) then (s, none)
    else
      let (s, r) := homeTranslate s c va
      match r with
      | .error _ => (s, none)
      | .ok (e, size) =>
        if !needOk e n then (s, none)
        else match entryKind e with
          | 0 => (s, some (.store (hbmKey (fieldOf e 16 24 * 65536 + va % 2 ^ size))))
          | 1 => (s, some (.store (dieKey (fieldOf e 32 3) (fieldOf e 16 14 * 65536 + va % 2 ^ size))))
          | _ => (s, none)

/-- The place of a leaf (R343-R346). `own` is the issuing group; none for the device's own accesses, which sync and peer leaves refuse. -/
def placeOf (s : State) (c va : Nat) (own : Option Nat) (n : Need) (e : Word) (size : Nat) : State × Except Nat Place :=
  let off := va % 2 ^ size
  let k := entryKind e
  if n == .sync && decide (k ≠ 2) then (s, .error causeSyncKind)
  else if !needOk e n then (s, .error 2)
  else match k with
    | 0 => (s, .ok (.store (hbmKey (fieldOf e 16 24 * 65536 + off))))
    | 1 => (s, .ok (.store (dieKey (fieldOf e 32 3) (fieldOf e 16 14 * 65536 + off))))
    | 2 =>
      let tile := fieldOf e 16 18
      let byte := fieldOf e 34 1 * 65536 + off
      match own with
      | none => (s, .error 5)
      | some g => match serverOf s g tile byte with
          | some gi => (s, .ok (.sync gi tile byte))
          | none => (s, .error 5)
    | 3 => if (ctx s c).conf && !(fnOf s (ownerOf s c)).ide then (s, .error 2) else (s, .ok (.host (fieldOf e 16 36 * 65536 + off)))
    | _ =>
      let pkg := fieldOf e 32 12
      let hasid := fieldOf e 16 16
      let x := ctx s c
      if own.isNone then (s, .error 6)
      else if !x.ctxjob.getLsbD 32 then (s, .error 6)
      else if pkg = s.pkgid.toNat then
        if (ctxOfAsid s hasid).any fun h => invalBlocks s h va then (s, .error causeWait)
        else match homePlace s hasid (fieldOf x.ctxjob 0 32) va n with
        | (s, some p) => (s, .ok p)
        | (s, none) => (s, .error 6)
      else (s, .ok (.peer pkg hasid va))

/-- The place of a gm access of a group (R344). -/
def resolve (s : State) (h c g va : Nat) (n : Need) : State × Except Nat Place :=
  match translate s h c va with
  | (s, .error e) => (s, .error e)
  | (s, .ok (e, size)) => placeOf s c va (some g) n e size

/-- The place of an access that the device itself makes in a context (R291, R301, R308): it keeps no extent. (Model: DEDUCED, unsafe: notes/assumptions 74) -/
def resolveOwn (s : State) (c va : Nat) (n : Need) : Except Nat Place :=
  match walk s c va with
  | .error e => .error e
  | .ok (e, size) => (placeOf s c va none n e size).2

/-- The key of a place that is storage of this module or host memory. -/
def placeKey (p : Place) : Option Nat :=
  match p with
  | .store k => some k
  | .host b => some (hostKey b)
  | _ => none

/-- Keys of an access that the device itself makes at n bytes from a VA, page by page; the first cause met. -/
def ownKeys (s : State) (c : Nat) (need : Need) : Nat → Nat → Except Nat (List Nat)
  | 0, _ => .ok []
  | n + 1, va =>
    match resolveOwn s c va need with
    | .error e => .error e
    | .ok p =>
      match placeKey p, ownKeys s c need n (va + 1) with
      | some k, .ok l => .ok (k :: l)
      | some _, .error e => .error e
      | none, _ => .error 5

/-- Read n bytes, n at most a page and not crossing one. Words with an uncorrectable error fail the read as they fail a walk. (Model: DEDUCED, unsafe: notes/assumptions 102) -/
def ownRead (s : State) (c va n : Nat) : Except Nat (List Byte) :=
  match resolveOwn s c va .read with
  | .error e => .error e
  | .ok p =>
    match placeKey p with
    | some k => if poisoned s k n then .error 7 else .ok (rdBytes s k n)
    | none => .error 5

/-- Write n bytes that do not cross a page; the write performs at system scope. (Model: DESIGN CHOICE, unsafe: notes/assumptions 28) -/
def ownWrite (s : State) (c va : Nat) (l : List Byte) : Except Nat State :=
  match resolveOwn s c va .write with
  | .error e => .error e
  | .ok p =>
    match placeKey p with
    | some k => .ok (wrBytes s k l)
    | none => .error 5

/-! ## Scratchpad offsets (R104-R107) -/

/-- A rounded up to a power of two, at least 64 KiB (R104). -/
def padPow2 (a : Nat) : Nat := if a ≤ 65536 then 65536 else if 2 ^ Nat.log2 a = a then a else 2 ^ (Nat.log2 a + 1)

/-- The allocation of a space for a group, in bytes (R103). -/
def spaceSize (x : Group) (sp : MvSpace) : Nat :=
  match sp with
  | .up | .cp => 2 ^ 23
  | .bs => 2 ^ 25
  | .dp => x.dpsize * 65536
  | .gm => 0

/-- The byte offset that an access of n bytes at x reaches (R104). -/
def padOffset (a n x : Nat) : Nat := x % padPow2 a / n * n

/-- The storage key of byte offset o of a space, seen from a physical cluster. -/
def spaceKey (x : Group) (sp : MvSpace) (cl o : Nat) : Nat :=
  match sp with
  | .up => upKey cl o
  | .cp => cpKey cl o
  | .bs => bsKey cl o
  | _ => dieKey (cl / 36) (x.dpbase * 65536 + o)

def mvOfSpace (sp : Space) : MvSpace :=
  match sp with
  | .up => .up | .cp => .cp | .dp => .dp | .gm => .gm

/-- The key that an access of n bytes at offset x reaches, or none beyond the allocation (R104). -/
def padKey (x : Group) (sp : MvSpace) (cl n off : Nat) : Option Nat :=
  let a := spaceSize x sp
  let o := padOffset a n off
  if a ≤ o then none else some (spaceKey x sp cl o)

/-- What a record of an access that reached no storage holds: offset and space (R104, R426). -/
def spoobPayload (sp : MvSpace) (o : Nat) : Nat := o % 2 ^ 32 + MvSpace.code sp * 2 ^ 32

/-- An access that reached no storage: MSTAT.SPOOB and one MEM record. -/
def spoobAt (s : State) (g cl payload : Nat) : State :=
  let s := modGrp s g fun x => { x with mstat := x.mstat ||| 1 }
  match grp? s g with
  | none => s
  | some x => record s cl 2 2 0 x.ctx payload

/-- An access that reached no storage (R104). -/
def spoob (s : State) (g cl : Nat) (sp : MvSpace) (o : Nat) : State := spoobAt s g cl (spoobPayload sp o)

/-! ## Watchpoints (R446) -/

/-- No work name: an access of an engine, which is no element. -/
def noWork : Nat := 2 ^ 24

/-- A work name as a debug unit's window shows it: by logical tile (R302, R444). -/
def logicalWork (x : Group) (w : Nat) : Nat :=
  if noWork ≤ w then 0
  else match (List.range x.ncl).find? fun l => decide (physCluster x l = logicalCluster (w % 2 ^ 18)) with
    | some l => w / 2 ^ 18 * 2 ^ 18 + (l / 36) * 32768 + ((l % 36) / 6) * 4096 + (l % 6) * 512 + tileInCluster w
    | none => 0

/-- A stop of a gang member cuts the members on this package too; their units show WHY 4 (R445). (Model: DESIGN CHOICE, safe: notes/assumptions 94) -/
def stopGang (s : State) (g : Nat) (x : Group) : State :=
  match x.gang with
  | none => s
  | some y =>
    let mine (h : Nat) (z : Group) : Bool := decide (h ≠ g) && (z.gang.map (·.id)) == some y.id && placed z && z.ending.isNone && (z.cutWhy.isNone || z.cutWhy == some .check)
    let hs := (s.groups.filter fun p => mine p.1 p.2).map (·.1)
    { s with
      groups := Tab.mapVals s.groups fun h z => if has hs h then { z with cutWhy := some .debug } else z
      dbgs := Tab.mapVals s.dbgs fun _ d => if d.st == .attached && has hs (fieldOf d.grp 0 16) then { d with st := .stopping, why := 4 } else d }

/-- A trigger of a debug unit begins to stop its group (R445). During a cut that saves the group, or while it is saved, it is held; any other running cut it joins without a report, and a checkpoint cut that it
joins ends in a stop (R446). (Model: DEDUCED, unsafe: notes/assumptions 64) -/
def trigger (s : State) (u why idx work hit : Nat) : State :=
  let d := dbg s u
  if d.st != .attached then s
  else
    let g := fieldOf d.grp 0 16
    let told : Dbg := { d with st := .stopping, why := why, trigIdx := idx, trigWork := ((grp? s g).map fun x => logicalWork x work).getD 0, hit := BitVec.ofNat 64 hit }
    match grp? s g with
    | none => s
    | some x =>
      if x.state == .saved then modGrp (setDbg s u told) g fun x => { x with stopHeld := true }
      else match x.cutWhy with
        | none => stopGang (modGrp (setDbg s u told) g fun x => { x with cutWhy := some .debug }) g x
        | some .preempt | some .suspend => modGrp (setDbg s u told) g fun x => { x with stopHeld := true }
        | some .check => stopGang (modGrp (setDbg s u { d with st := .stopping, why := 0 }) g fun x => { x with cutWhy := some .debug }) g x
        | some .debug => s

/-- The watchpoints of the group that a comparison matches trigger. -/
def watch (s : State) (g work hit : Nat) (wr : Bool) (matches_ : Word → Word → Bool) : State :=
  s.dbgs.foldl (fun s (u, d) =>
    if fieldOf d.grp 0 16 = g ∧ d.st = .attached then
      match (List.range 8).find? fun w =>
        let c := Tab.get d.wpcfg w 0
        c.getLsbD 63 && (if wr then c.getLsbD 59 else c.getLsbD 60) && matches_ c (Tab.get d.wpaddr w 0) with
      | some w => trigger s u 1 w work (hit % 2 ^ 32 + boolBit wr * 2 ^ 32)
      | none => s
    else s) s

/-- An access to a pad meets the TYPE 0 comparators, by offset o. -/
def watchPad (s : State) (g work : Nat) (sp : MvSpace) (o : Nat) (wr : Bool) : State :=
  watch s g work o wr fun c a =>
    decide (fieldOf c 61 2 = 0) && decide (fieldOf c 56 2 = MvSpace.code sp) && decide (fieldOf a 0 32 ≤ o) && decide (o ≤ fieldOf a 32 32)

end Sys2Proof.Machine
end

