-- ==== Sys2Proof/Machine/Channels.lean ====
section
/-! DEFINITION. Tokens (R24-R28), channels (R29-R34), the ports of a tile (R21, R91), and token sampling (R440, R441). -/

namespace Sys2Proof.Machine

/-! ## Tokens -/

def kindVAL : Nat := 0
def kindCV : Nat := 1
def kindCRD : Nat := 2
def kindREF : Nat := 3
def kindSTOP : Nat := 4
def kindDONE : Nat := 5
def kindEMPTY : Nat := 6
def kindMARK : Nat := 7
def kindSCALE : Nat := 8
def kindSKIP : Nat := 9
def kindERRSTOP : Nat := 10

/-- A token of a kind, level and payload, not sampled. -/
def tok (kind level payload : Nat) : Token :=
  { payload := BitVec.ofNat 64 payload, tag := BitVec.ofNat 8 (kind * 16 + level % 8 * 2), log := none }

def kindOf (t : Token) : Nat := fieldOf t.tag 4 4
def levelOf (t : Token) : Nat := fieldOf t.tag 1 3
def sampledOf (t : Token) : Bool := t.tag.getLsbD 0

/-- Value kinds, EMPTY and control kinds (R25). -/
def isValue (t : Token) : Bool := decide (kindOf t < 4)
def isEmpty (t : Token) : Bool := decide (kindOf t = 6)
def isControl (t : Token) : Bool := !isValue t && !isEmpty t

/-- The sorts of token that any receiving element refuses (R26): reserved kinds, a MARK whose LEVEL disagrees with its payload, a SKIP away from
a back-channel input. -/
def badToken (t : Token) : Bool :=
  decide (11 ≤ kindOf t) || decide (kindOf t = 9) || (decide (kindOf t = 7) && decide (levelOf t ≠ t.payload.toNat % 8))

/-- The same control token (R43): KIND, LEVEL and payload. -/
def sameControl (a b : Token) : Bool := decide (kindOf a = kindOf b) && decide (levelOf a = levelOf b) && decide (a.payload = b.payload)

/-- The coordinate of a CRD or CV token (R25). -/
def coordOf (t : Token) : Nat := if kindOf t = 1 then fieldOf t.payload 32 32 else fieldOf t.payload 0 32

/-- A token with the SAMPLED bit and the hop log of another, the one that was consumed first from its lowest-numbered source (R27). -/
def heir (src t : Token) : Token :=
  if sampledOf src then { t with tag := t.tag ||| 1, log := src.log } else { t with tag := t.tag &&& 0xFE, log := none }

/-- The hop of an element in the log of a token that leaves it (R441): its work name, the arrival of the token whose log it continues, and this departure. -/
def hop (time work : Nat) (t : Token) : Token :=
  { t with
    log := t.log.map fun l => if l.hops.length < 32 then { l with hops := l.hops ++ [(work, l.arrived, time % 2 ^ 32)] } else { l with overflowed := true } }

/-- The arrival of a token at an element (R441). -/
def arriveOn (time : Nat) (t : Token) : Token := { t with log := t.log.map fun l => { l with arrived := time % 2 ^ 32 } }

/-! ## Channels -/

/-- The channel of a local source of a tile. -/
def chanOf? (gr : Graph) (tile src : Nat) : Option Nat := gr.chans.findIdx? fun c => decide (c.tile = tile ∧ c.src = src)

/-- Whether an output is routed (R204). -/
def routedOut (gr : Graph) (tile src : Nat) : Bool := (chanOf? gr tile src).isSome

/-- Whether an input is routed. -/
def routedIn (gr : Graph) (tile sink : Nat) : Bool := gr.chans.any fun c => c.nodes.any fun n => n.sink == some (tile, sink)

/-- Beats that a node holds at most: 4 at a hop, 16 at a port (R31). -/
def nodeCap (n : ChNode) : Nat := if n.sink.isSome then 16 else 4
def nodeSpace (n : ChNode) : Bool := decide (n.beats.length + n.kept < nodeCap n)

/-- Whether a node has space for n beats more. -/
def nodeSpaceFor (k : Nat) (n : ChNode) : Bool := decide (n.beats.length + n.kept + k ≤ nodeCap n)

/-- Whether every first hop of a channel has space (R31, R33). -/
def rootsHaveSpace (c : Channel) : Bool := c.roots.all fun i => (c.nodes[i]?.map nodeSpace).getD false

/-- Whether an output can take a beat: it has space, or it is not routed and discards (R204). -/
def canSend (gr : Graph) (tile src : Nat) : Bool :=
  match chanOf? gr tile src with
  | none => true
  | some i => (gr.chans[i]?.map rootsHaveSpace).getD true

/-- Whether an output can take n tokens at once: every beat that carries them finds space in the first hops (R30, R31). -/
def canSendN (gr : Graph) (tile src n : Nat) : Bool :=
  match (chanOf? gr tile src).bind fun i => gr.chans[i]? with
  | none => true
  | some c => c.roots.all fun i => (c.nodes[i]?.map (nodeSpaceFor ((n + 15) / 16))).getD false

/-- Whether an output has sent its DONE. -/
def sentDone (gr : Graph) (tile src : Nat) : Bool := (((chanOf? gr tile src).bind fun i => gr.chans[i]?).map (·.done)).getD false

/-- What a node holds of a beat that enters it: a port is where a token arrives at an element (R441). -/
def beatAt (time : Nat) (b : List Token) (n : ChNode) : List Token := if n.sink.isSome then b.map (arriveOn time) else b

/-- A beat enters a node. A token after DONE is late (R26). -/
def nodePush (time : Nat) (b : List Token) (n : ChNode) : ChNode :=
  { n with beats := n.beats ++ [beatAt time b n], entered := n.entered + b.length, ended := n.ended || b.any fun t => decide (kindOf t = 5)
           late := n.late || (n.ended && !b.isEmpty) || b.dropLast.any fun t => decide (kindOf t = 5) }

/-- Tokens join the last beat of a node. -/
def nodeJoin (time : Nat) (b : List Token) (n : ChNode) : ChNode :=
  let m := nodePush time b n
  { m with beats := n.beats.dropLast ++ [n.beats.getLast?.getD [] ++ beatAt time b n] }

/-- Whether n tokens still go into the beat that a channel's producer has sent in this cycle: a beat holds what is ready, up to 16 tokens (R30). (Model: DESIGN CHOICE, safe: notes/assumptions 138) -/
def beatOpen (cycle n : Nat) (c : Channel) : Bool :=
  c.sentAt == some cycle && c.roots.all fun i => ((c.nodes[i]?).bind fun d => d.beats.getLast?).any fun b => decide (b.length + n ≤ 16)

/-- Tokens of one beat enter every root of a channel, in the beat of this cycle where it has room. -/
def chanPush (cycle time : Nat) (b : List Token) (c : Channel) : Channel :=
  let push := if beatOpen cycle b.length c then nodeJoin time b else nodePush time b
  { c with nodes := c.roots.foldl (fun l i => modAt l i push) c.nodes, done := c.done || b.any fun t => decide (kindOf t = 5), sentAt := some cycle }

/-- The sampler at a routed output port (R440): the token whose count reaches the rate takes SAMPLED, an empty log and a birth time, unless its cluster is at its limit. -/
def sampleToken (rate time : Nat) (full : Bool) (cnt : Nat) (t : Token) : Token × Nat :=
  if rate = 0 ∨ sampledOf t then (t, cnt)
  else if cnt + 1 ≥ rate && !full then ({ t with tag := t.tag ||| 1, log := some { birth := time, arrived := 0, hops := [], overflowed := false } }, 0)
  else (t, cnt + 1)

def sampleAll (rate time : Nat) (full : Bool) : Nat → List Token → List Token × Nat
  | cnt, [] => ([], cnt)
  | cnt, t :: r =>
    let (t', cnt') := sampleToken rate time full cnt t
    let (r', c) := sampleAll rate time full cnt' r
    (t' :: r', c)

/-- Sampled tokens in flight on the channels that start in a cluster. -/
def sampledIn (s : State) (cl : Nat) : Nat :=
  (s.groups.map fun (_, x) => (x.image.graphs.map fun (_, gr) =>
    ((gr.chans.filter fun c => decide (clusterOfTile x c.tile = cl)).map fun c => (c.nodes.map fun n => (n.beats.flatten.filter sampledOf).length).foldl (· + ·) 0).foldl (· + ·) 0).foldl
      (· + ·) 0).foldl (· + ·) 0

/-- Cut a list of tokens into beats of at most 16 (R30). -/
def beatsOf : Nat → List Token → List (List Token)
  | 0, _ => []
  | _, [] => []
  | fuel + 1, l => l.take 16 :: beatsOf fuel (l.drop 16)

/-! ## Trace sessions (R442, R443) -/

/-- Write bytes in a context's gm; a write that faults is dropped. -/
def ownPut (s : State) (c va : Nat) (l : List Byte) : State :=
  match ownWrite s c va l with
  | .ok s => s
  | .error _ => s

/-- The header of an open session, with its counts. -/
def traceHeader (s : State) (c : Nat) (t : Trace) : State := ownPut s c t.buf (bytesOf 8 t.written ++ bytesOf 8 t.dropped)

/-- Append a record of 16-byte granules, whole or not at all; a record that does not fit or whose page faults is counted in DROPPED. -/
def traceAppend (s : State) (c : Nat) (l : List Nat) : State :=
  match (ctx s c).trace with
  | none => s
  | some t =>
    let at_ (i : Nat) : Nat := t.buf + 64 + t.written + 16 * i
    let fits := decide (64 + t.written + 16 * l.length ≤ t.size)
      && (List.range l.length).all fun i => match resolveOwn s c (at_ i) .write with | .ok p => (placeKey p).isSome | .error _ => false
    let t' := if fits then { t with written := t.written + 16 * l.length } else { t with dropped := t.dropped + 1 }
    let s := if fits then l.zipIdx.foldl (fun s (x, i) => ownPut s c (at_ i) (bytesOf 16 x)) s else s
    traceHeader (modCtx s c fun x => { x with trace := some t' }) c t'

/-- Close a session: STATE 2 after a TRACEOFF; 3, with a TRUNC record, when it is cut short (R443). -/
def traceClose (s : State) (c : Nat) (cut : Bool) : State :=
  match (ctx s c).trace with
  | none => s
  | some t =>
    let s := if cut then traceAppend s c [3 + s.dtime % 2 ^ 64 * 2 ^ 64] else s
    let s := ownPut s c (t.buf + 24) (bytesOf 8 s.dtime ++ bytesOf 8 (if cut then 3 else 2))
    modCtx s c fun x => { x with trace := none }

/-- A sampled token reaches its sink (R441): one TOK SINK record, and a HOP record when a session is open (R442). -/
def sinkToken (s : State) (g gi tile : Nat) (t : Token) : State :=
  match t.log, grp? s g with
  | some l, some x =>
    let w := workName s g gi tile
    let s := record s (clusterOfTile x tile) 4 1 (tileInCluster tile) x.ctx (l.birth % 2 ^ 32 + l.hops.length % 256 * 2 ^ 32 + w * 2 ^ 40)
    let head := 1 + l.hops.length % 256 * 2 ^ 8 + boolBit l.overflowed * 2 ^ 16 + w * 2 ^ 40 + l.birth % 2 ^ 64 * 2 ^ 64
    traceAppend s x.ctx (head :: l.hops.map fun (h, a, d) => h + a % 2 ^ 32 * 2 ^ 32 + d % 2 ^ 32 * 2 ^ 64)
  | _, _ => s

/-- Tokens that an element has consumed and that none inherits reach their sink there (R441). -/
def sinkAll (s : State) (g gi tile : Nat) (l : List Token) : State := l.foldl (fun s t => if sampledOf t then sinkToken s g gi tile t else s) s

/-! ## Token breakpoints (R446) -/

/-- Put a token ahead of the last n tokens of a port's buffer. -/
def tokenAhead (n : Nat) (m : Token) (nd : ChNode) : ChNode :=
  let l := nd.beats.flatten
  let k := l.length - n
  { nd with beats := beatsOf (k + 1) (l.take k) ++ [[m]] ++ beatsOf (l.length + 1) (l.drop k) }

/-- The breakpoint of a unit for a port: its index and ordinal, by the consumer's logical work name and the sink. -/
def breakOf (d : Dbg) (work sink : Nat) : List (Nat × Nat) :=
  (List.range 4).filterMap fun t =>
    let c := Tab.get d.tbcfg t 0
    let n := Tab.get d.tbcnt t 0
    if c.getLsbD 63 && decide (fieldOf c 24 3 = sink) && decide (fieldOf c 0 24 = work) && !n.getLsbD 32 then some (t, fieldOf n 0 32) else none

/-- Tokens have entered ports of a channel: the n-th token of a breakpoint triggers, and a MARK of the stop's cut goes ahead of it. -/
def meetBreaks (s : State) (g gi ch : Nat) (old : Channel) : State :=
  match grp? s g, graph? s g gi with
  | some x, some gr =>
    match gr.chans[ch]? with
    | none => s
    | some c =>
      c.nodes.zipIdx.foldl (fun s (nd, j) =>
        match nd.sink with
        | none => s
        | some (tile, sink) =>
          let before := ((old.nodes[j]?).map (·.entered)).getD 0
          let work := ((Tab.get? gr.tiles tile).map (·.stage)).getD 0 * 2 ^ 18 + tile
          s.dbgs.foldl (fun s (u, d) =>
            if fieldOf d.grp 0 16 = g ∧ d.st = .attached then
              match (breakOf d work sink).find? fun b => decide (before < b.2 ∧ b.2 ≤ nd.entered) with
              | some (t, n) =>
                let fresh := x.cutWhy.isNone
                let s := trigger s u 2 t (workName s g gi tile) 0
                if fresh then modGraph s g gi fun gr =>
                  { gr with chans := modAt gr.chans ch fun c =>
                    { c with nodes := modAt c.nodes j (tokenAhead (nd.entered + 1 - n) (tok kindMARK ((x.cutNo + 1) % 8) (x.cutNo + 1))) } }
                else s
              | none => s
            else s) s) s
  | _, _ => s

/-- TOKEN_BAD at each port of a channel that a token has just entered after the channel's DONE (R26). -/
def lateTokens (s : State) (g gi ch : Nat) (old : Channel) : State :=
  match (graph? s g gi).bind fun gr => gr.chans[ch]? with
  | none => s
  | some c =>
    c.nodes.zipIdx.foldl (fun s (nd, j) =>
      match nd.sink with
      | some (tile, _) => if nd.late && !(((old.nodes[j]?).map (·.late)).getD false) then elemFreeze s g gi tile TOKEN_BAD else s
      | none => s) s

/-- A token of a group's graph moves: a parked group runs again (R311, R320). -/
def wake (s : State) (g : Nat) : State :=
  modGrp s g fun x => { x with state := if x.state == .parked then .running else x.state, idleSince := s.cycle }

/-- Send tokens on a local source of a tile. Tokens sent on an unrouted output are discarded (R204). -/
def send (s : State) (g gi tile src : Nat) (l : List Token) : State :=
  match graph? s g gi, l with
  | some gr, _ :: _ =>
    let s := if ((tile? s g gi tile).bind (·.ce)).isSome || ((tile? s g gi tile).bind (·.mc)).isSome then s else addSkid s g (workName s g gi tile) l.length
    match chanOf? gr tile src with
    | none => sinkAll s g gi tile l
    | some i =>
      let s := wake s g
      let work := workName s g gi tile
      let rate := ((grp? s g).map fun x => if (ctx s x.ctx).dbgcons.getLsbD 0 then x.samprate else 0).getD 0
      let s' := modGraph s g gi fun gr =>
        { gr with
          chans := modAt gr.chans i fun c =>
            let (l', cnt) := sampleAll rate s.dtime (decide (rate ≠ 0) && decide (1024 ≤ sampledIn s (tileCl s g tile))) c.unsampled (l.map (hop s.dtime work))
            (beatsOf (l'.length + 1) l').foldl (fun c b => chanPush s.cycle s.dtime b c) { c with unsampled := cnt }
          lastMove := s.cycle }
      match gr.chans[i]? with
      | some c => lateTokens (meetBreaks s' g gi i c) g gi i c
      | none => s'
  | _, _ => s

/-- The node of a local sink of a tile, as channel and node indices. -/
def sinkNode? (gr : Graph) (tile sink : Nat) : Option (Nat × Nat) :=
  let at_ (c : Channel) : Option Nat := c.nodes.findIdx? fun n => n.sink == some (tile, sink)
  match gr.chans.findIdx? fun c => (at_ c).isSome with
  | none => none
  | some i => ((gr.chans[i]?).bind at_).map fun j => (i, j)

/-- The tokens that wait at a local sink, oldest first. Beat boundaries have no meaning (R30). -/
def portTokens (gr : Graph) (tile sink : Nat) : List Token :=
  match sinkNode? gr tile sink with
  | none => []
  | some (i, j) => (((gr.chans[i]?).bind fun c => c.nodes[j]?).map fun n => n.beats.flatten).getD []

/-- The head token of a local sink. -/
def portHead (gr : Graph) (tile sink : Nat) : Option Token := (portTokens gr tile sink).head?

/-- Remove n tokens from the beats of a port. -/
def dropTokens (n : Nat) : List (List Token) → List (List Token)
  | [] => []
  | b :: r => if n = 0 then b :: r else if b.length ≤ n then dropTokens (n - b.length) r else b.drop n :: r

/-- Consume n tokens at a local sink. -/
def consume (s : State) (g gi tile sink n : Nat) : State :=
  match (graph? s g gi).bind fun gr => sinkNode? gr tile sink with
  | none => s
  | some (i, j) =>
    modGraph (wake s g) g gi fun gr =>
      { gr with
        chans := modAt gr.chans i fun c => { c with nodes := modAt c.nodes j fun nd => { nd with beats := dropTokens n nd.beats } }
        lastMove := s.cycle }

/-- Remove the k-th token from the beats of a port. -/
def eraseToken : Nat → List (List Token) → List (List Token)
  | _, [] => []
  | k, b :: r => if k < b.length then (if eraseAt b k = [] then r else eraseAt b k :: r) else b :: eraseToken (k - b.length) r

/-- Consume the k-th token of a local sink. -/
def consumeAt (s : State) (g gi tile sink k : Nat) : State :=
  match (graph? s g gi).bind fun gr => sinkNode? gr tile sink with
  | none => s
  | some (i, j) =>
    modGraph (wake s g) g gi fun gr =>
      { gr with
        chans := modAt gr.chans i fun c => { c with nodes := modAt c.nodes j fun nd => { nd with beats := eraseToken k nd.beats } }
        lastMove := s.cycle }

/-- A BEAT (R29-R33): the head beat of a node crosses to every following node, when all of them have space. -/
def moveBeat (time : Nat) (c : Channel) (node : Nat) : Option Channel :=
  match c.nodes[node]? with
  | none => none
  | some n =>
    match n.beats with
    | [] => none
    | b :: r =>
      if n.sink.isSome || n.next = [] then none
      else if n.next.all fun i => (c.nodes[i]?.map nodeSpace).getD false then
        some { c with nodes := n.next.foldl (fun l i => modAt l i (nodePush time b)) (modAt c.nodes node fun n => { n with beats := r }) }
      else none

/-- Whether the elements of a tile can act: its group is placed and runs, no freeze line has stopped them, no stall has stopped the graph, and
no freeze wave has reached the cluster. -/
def elemLive (s : State) (g gi tile : Nat) : Bool :=
  match grp? s g, graph? s g gi with
  | some x, some gr =>
    (x.state == .running || x.state == .parked || x.state == .cutting) && !x.saving && lineLets s x (workName s g gi tile) && x.ending.isNone && !gr.stalled && coreUp s
      && !stoppedCl s (clusterOfTile x tile)
  | _, _ => false


/-- Whether an element has saved its state for the cut that runs (R208, R317): it then acts no more until the cut is complete. -/
def savedCut (x : Group) (marks : List Nat) : Bool := x.cutWhy.isSome && has marks x.cutNo

/-- Whether MARK c waits in a port's buffer. -/
def markAt (gr : Graph) (tile sink c : Nat) : Bool :=
  (portTokens gr tile sink).any fun t => decide (kindOf t = 7) && decide (fieldOf t.payload 0 32 = c)

/-- Remove the first MARK c of a list of beats. -/
def dropMarkIn (c : Nat) : List (List Token) → List (List Token)
  | [] => []
  | b :: r =>
    match b.findIdx? fun t => decide (kindOf t = 7) && decide (fieldOf t.payload 0 32 = c) with
    | some i => if eraseAt b i = [] then r else eraseAt b i :: r
    | none => b :: dropMarkIn c r

/-- Take MARK c out of a port's buffer. -/
def dropMark (s : State) (g gi tile sink c : Nat) : State :=
  match (graph? s g gi).bind fun gr => sinkNode? gr tile sink with
  | none => s
  | some (i, j) =>
    modGraph (wake s g) g gi fun gr =>
      { gr with
        chans := modAt gr.chans i fun h => { h with nodes := modAt h.nodes j fun nd => { nd with beats := dropMarkIn c nd.beats } }
        lastMove := s.cycle }

/-! ## What wakes a SAVED group (R320, R353) -/

/-- Wake the SAVED groups that some recorded wait lets run: the condition reads a group's context and one recorded wait. A group that is being cut, whose waits are recorded, is woken before it is SAVED. -/
def wakeSaved (s : State) (p : Nat → Nat → WakeOn → Bool) : State :=
  { s with groups := Tab.mapVals s.groups fun g x =>
      if x.wakes.any (p g x.ctx) then { x with runnable := true, wakes := [], waitStart := s.dtime } else x }

/-- The SCH WAKE records of groups that a wake has made runnable. -/
def wakeRecords (before s : State) : State :=
  before.groups.foldl (fun s (g, x) =>
    match grp? s g with
    | some y => if y.runnable && !x.runnable && x.state == .saved then record s (firstPresent s) 3 6 0 x.ctx (g % 2 ^ 16) else s
    | none => s) s

def wakeOn (s : State) (p : Nat → Nat → WakeOn → Bool) : State := wakeRecords s (wakeSaved s p)

end Sys2Proof.Machine
end

