-- ==== Sys2Proof/Machine/Flags.lean ====
section
/-! DEFINITION. Number formats and arithmetic (R44-R63): exact values, rounding in every mode with the overflow rule and the five
exception flags, saturation, conversion, the exact results of the floating-point instructions (R155-R158), the LFSR, and the tree
reduction and scan. -/

namespace Sys2Proof.Machine

/-- The five exception flags, IV in bit 0 to NX in bit 4, as FPCTL numbers them (R56). -/
abbrev FlagSet := BitVec 5

def flagIV : FlagSet := 1
def flagDZ : FlagSet := 2
def flagOF : FlagSet := 4
def flagUF : FlagSet := 8
def flagNX : FlagSet := 16

/-! ## Formats -/

/-- Exponent bits, fraction bits and bias of a floating-point type (R46, R47); 0 for an integer type. -/
def expBits : Ty → Nat
  | .f64 => 11 | .f32 | .bf16 | .a36 => 8 | .f16 | .e5 => 5 | .e4 => 4 | .f4 => 2 | _ => 0
def fracBits : Ty → Nat
  | .f64 => 52 | .f32 => 23 | .bf16 => 7 | .a36 => 27 | .f16 => 10 | .e5 => 2 | .e4 => 3 | .f4 => 1 | _ => 0
def bias : Ty → Nat
  | .f64 => 1023 | .f32 | .bf16 | .a36 => 127 | .f16 | .e5 => 15 | .e4 => 7 | .f4 => 1 | _ => 0

/-- The bit that holds the sign: bit 35 for a36 in its container (R47). -/
def signBit (t : Ty) : Nat := expBits t + fracBits t

/-- Whether the format has infinities (R46). -/
def hasInf : Ty → Bool
  | .e4 | .f4 => false
  | t => !Ty.isInt t

/-- The canonical NaN (R50); f4 has none. -/
def canonNaN : Ty → Nat
  | .f64 => 0x7FF8000000000000 | .f32 => 0x7FC00000 | .f16 => 0x7E00 | .bf16 => 0x7FC0 | .a36 => 0x7FC000000
  | .e5 => 0x7E | .e4 => 0x7F | _ => 0

/-- The pattern of the largest finite magnitude (R46): MAXF of R63. -/
def maxBits : Ty → Nat
  | .e4 => 0x7E
  | .f4 => 0x7
  | t => (2 ^ expBits t - 1) * 2 ^ fracBits t - 1

/-- An exact value: NaN, an infinity, or a signed rational (the sign counts for zero). -/
inductive Ex where
  | nan
  | inf (neg : Bool)
  | fin (neg : Bool) (num den : Nat)
  deriving DecidableEq, Repr

/-- VALUE of R63 for a floating-point type. -/
def decodeF (t : Ty) (bits : Nat) : Ex :=
  let eb := expBits t
  let fb := fracBits t
  let neg := bits.testBit (signBit t)
  let e := (bits / 2 ^ fb) % 2 ^ eb
  let f := bits % 2 ^ fb
  if t = .e4 ∧ e = 15 ∧ f = 7 then .nan
  else if hasInf t ∧ e = 2 ^ eb - 1 then (if f = 0 then .inf neg else .nan)
  else
    let m := if e = 0 then f else f + 2 ^ fb
    let k := (if e = 0 then 1 else e)
    -- value m × 2^(k − bias − fb)
    if k ≥ bias t + fb then .fin neg (m * 2 ^ (k - bias t - fb)) 1 else .fin neg m (2 ^ (bias t + fb - k))

/-- A signalling NaN (R50): e5 and wider formats, exponent all ones, fraction non-zero, fraction MSB clear. -/
def isSNaN (t : Ty) (bits : Nat) : Bool :=
  hasInf t && (bits / 2 ^ fracBits t) % 2 ^ expBits t = 2 ^ expBits t - 1
    && bits % 2 ^ fracBits t ≠ 0 && !bits.testBit (fracBits t - 1)

/-- IV for a signalling NaN (R50). -/
def snanFlag (t : Ty) (bits : Nat) : FlagSet := if isSNaN t bits then flagIV else 0

/-! ## Rounding -/

/-- floor(log2 (num/den)) for positive num and den. -/
def log2Ratio (num den : Nat) : Int :=
  let e : Int := (Nat.log2 num : Int) - (Nat.log2 den : Int)
  let ge : Bool := if e ≥ 0 then num ≥ den * 2 ^ e.toNat else num * 2 ^ (-e).toNat ≥ den
  if ge then e else e - 1

/-- num/den scaled by 2^(−q) as a numerator and a denominator. -/
def scaleRatio (num den : Nat) (q : Int) : Nat × Nat :=
  if q ≥ 0 then (num, den * 2 ^ q.toNat) else (num * 2 ^ (-q).toNat, den)

/-- Whether a remainder r of d is rounded away from zero, for a quotient m (R51, R53). -/
def roundsAway (mode : Rnd) (neg : Bool) (m r d : Nat) (u : BitVec 32) : Bool :=
  match mode with
  | .rne => decide (2 * r > d) || (decide (2 * r = d) && m % 2 = 1)
  | .rtz => false
  | .rup => decide (r > 0) && !neg
  | .rdn => decide (r > 0) && neg
  | .rna => decide (2 * r ≥ d)
  | .rsr => decide (r * 2 ^ 32 / d + u.toNat ≥ 2 ^ 32)

/-- num/den rounded to a multiple of 2^q: the multiple, whether it is inexact, whether it was rounded away. -/
def roundTo (mode : Rnd) (neg : Bool) (num den : Nat) (q : Int) (u : BitVec 32) : Nat × Bool × Bool :=
  let (n, d) := scaleRatio num den q
  let away := roundsAway mode neg (n / d) (n % d) d u
  (n / d + boolBit away, n % d != 0, away)

/-- m × 2^q compared with x × 2^y. -/
def gtScaled (m : Nat) (q : Int) (x : Nat) (y : Int) : Bool :=
  if q ≥ y then decide (m * 2 ^ (q - y).toNat > x) else decide (m > x * 2 ^ (y - q).toNat)

/-- The overflow table of R52: the pattern without the sign bit, and whether the result is a NaN of the sign. -/
def overflowBits (t : Ty) (mode : Rnd) (neg away : Bool) : Nat :=
  let toInf : Bool := match mode with
    | .rne | .rna => true
    | .rtz => false
    | .rup => !neg
    | .rdn => neg
    | .rsr => away
  match t with
  | .f4 => 7
  | .e4 => if toInf then 0x7F else 0x7E
  | t => if toInf then (2 ^ expBits t - 1) * 2 ^ fracBits t else maxBits t

def withSign (t : Ty) (neg : Bool) (mag : Nat) : Nat := mag + boolBit neg * 2 ^ signBit t

/-- ROUND of R63 for a floating-point type: the pattern and the flags. An infinite x passes through when the format has
infinities; a NaN is canonical (R50); into f4 a NaN gives +0 with IV (R58); an infinity into a format without infinities follows the overflow
table, away from zero under RSR (R52). -/
def roundF (t : Ty) (mode : Rnd) (u : BitVec 32) (x : Ex) : Nat × FlagSet :=
  match x with
  | .nan => if t = .f4 then (0, flagIV) else (canonNaN t, 0)
  | .inf neg =>
    if hasInf t then (withSign t neg ((2 ^ expBits t - 1) * 2 ^ fracBits t), 0)
    else (withSign t neg (overflowBits t mode neg true), flagOF ||| flagNX)
  | .fin neg num den =>
    if num = 0 then (withSign t neg 0, 0)
    else
      let e := log2Ratio num den
      let emin : Int := 1 - (bias t : Int)
      let q := max e emin - fracBits t
      let (m, inexact, away) := roundTo mode neg num den q u
      let maxE : Int := (if t = .e4 then 8 else if t = .f4 then 2 else (2 ^ expBits t : Int) - 2 - bias t) - fracBits t
      let maxM : Nat := if t = .e4 then 14 else 2 ^ (fracBits t + 1) - 1
      if gtScaled m q maxM maxE then (withSign t neg (overflowBits t mode neg away), flagOF ||| flagNX)
      else
        let mag := ((q + fracBits t + bias t - 1).toNat) * 2 ^ fracBits t + m
        -- tininess after rounding to the full precision with unbounded exponent (R49)
        let (m', _, _) := roundTo mode neg num den (e - fracBits t) u
        let tiny := gtScaled 1 emin m' (e - fracBits t)
        (withSign t neg mag, (if inexact then flagNX else 0) ||| (if inexact && tiny then flagUF else 0))

/-- The exact value of MAXF(t). -/
def maxEx (t : Ty) (neg : Bool) : Ex :=
  match decodeF t (maxBits t) with
  | .fin _ n d => .fin neg n d
  | x => x

/-- SAT of R55 on an exact value for a floating-point type, with its flags. -/
def satEx (t : Ty) (x : Ex) : Ex × FlagSet :=
  match x with
  | .nan => (.nan, 0)
  | .inf neg => (maxEx t neg, flagOF ||| flagNX)
  | .fin neg n d =>
    match decodeF t (maxBits t) with
    | .fin _ mn md => if n * md > mn * d then (.fin neg mn md, flagOF ||| flagNX) else (x, 0)
    | _ => (x, 0)

/-- Delivery of a floating-point result (R142): SAT if set, then ROUND. -/
def deliverF (t : Ty) (mode : Rnd) (sat : Bool) (u : BitVec 32) (x : Ex) : Nat × FlagSet :=
  let (x', fl) := if sat then satEx t x else (x, 0)
  let (r, fl') := roundF t mode u x'
  (r, fl ||| fl')

/-! ## Integers -/

/-- VALUE of R63 for an integer type. -/
def decodeI (t : Ty) (bits : Nat) : Int :=
  if Ty.isSigned t then sext bits (Ty.width t) else (bits % 2 ^ Ty.width t : Nat)

/-- The limits of an integer type (R55). -/
def minI (t : Ty) : Int := if Ty.isSigned t then -(2 ^ (Ty.width t - 1)) else 0
def maxI (t : Ty) : Int := if Ty.isSigned t then 2 ^ (Ty.width t - 1) - 1 else 2 ^ Ty.width t - 1

/-- SAT of R55 for an integer type. -/
def satI (t : Ty) (e : Int) : Int := max (minI t) (min (maxI t) e)

/-- LOW of an integer as a number below 2^w. -/
def lowNat (w : Nat) (e : Int) : Nat := (e % (2 ^ w : Nat)).toNat

/-- Delivery of an integer result (R142). -/
def deliverI (t : Ty) (sat : Bool) (e : Int) : Nat := lowNat (Ty.width t) (if sat then satI t e else e)

/-- An exact value rounded to an integer (R51, with a unit in the last place of 1): the integer and whether it is inexact. -/
def roundInt (mode : Rnd) (u : BitVec 32) (neg : Bool) (num den : Nat) : Int × Bool :=
  let (m, inexact, _) := roundTo mode neg num den 0 u
  (if neg then -(m : Int) else (m : Int), inexact)

def exOfInt (e : Int) : Ex := .fin (decide (e < 0)) e.natAbs 1

/-! ## Exact operations -/

def exNeg : Ex → Ex
  | .nan => .nan
  | .inf n => .inf (!n)
  | .fin n a b => .fin (!n) a b

def exIsNeg : Ex → Bool
  | .nan => false
  | .inf n => n
  | .fin n _ _ => n

/-- The exact sum, with the sign of an exact zero sum (R155). -/
def exAdd (mode : Rnd) (x y : Ex) : Ex × FlagSet :=
  match x, y with
  | .nan, _ => (.nan, 0)
  | _, .nan => (.nan, 0)
  | .inf a, .inf b => if a = b then (.inf a, 0) else (.nan, flagIV)
  | .inf a, _ => (.inf a, 0)
  | _, .inf b => (.inf b, 0)
  | .fin n1 a b, .fin n2 c d =>
    if a = 0 ∧ c = 0 then (.fin (if n1 = n2 then n1 else decide (mode = .rdn)) 0 1, 0)
    else
      let p : Int := (if n1 then -1 else 1) * (a * d : Nat)
      let q : Int := (if n2 then -1 else 1) * (c * b : Nat)
      let s := p + q
      if s = 0 then (.fin (decide (mode = .rdn)) 0 1, 0) else (.fin (decide (s < 0)) s.natAbs (b * d), 0)

/-- The exact product. -/
def exMul (x y : Ex) : Ex × FlagSet :=
  match x, y with
  | .nan, _ => (.nan, 0)
  | _, .nan => (.nan, 0)
  | .inf a, .inf b => (.inf (a != b), 0)
  | .inf a, .fin n c _ => if c = 0 then (.nan, flagIV) else (.inf (a != n), 0)
  | .fin n c _, .inf b => if c = 0 then (.nan, flagIV) else (.inf (n != b), 0)
  | .fin n1 a b, .fin n2 c d => (.fin (n1 != n2) (a * c) (b * d), 0)

/-- The exact quotient (R155): a finite non-zero number over zero gives an infinity and DZ. -/
def exDiv (x y : Ex) : Ex × FlagSet :=
  match x, y with
  | .nan, _ => (.nan, 0)
  | _, .nan => (.nan, 0)
  | .inf _, .inf _ => (.nan, flagIV)
  | .inf a, .fin n _ _ => (.inf (a != n), 0)
  | .fin n _ _, .inf b => (.fin (n != b) 0 1, 0)
  | .fin n1 a b, .fin n2 c d =>
    if c = 0 then (if a = 0 then (.nan, flagIV) else (.inf (n1 != n2), flagDZ))
    else (.fin (n1 != n2) (a * d) (b * c), 0)

/-- √(num/den) to `k` fraction bits, exactly when it is rational and otherwise strictly inside the interval of its last bit. -/
def sqrtRatio (num den k : Nat) : Nat × Nat :=
  let n := num * den * 4 ^ k
  let s := Nat.sqrt n
  if s * s = n then (s, den * 2 ^ k) else (2 * s + 1, den * 2 ^ (k + 1))

/-- The exact square root (R155, R156). -/
def exSqrt (x : Ex) : Ex × FlagSet :=
  match x with
  | .nan => (.nan, 0)
  | .inf neg => if neg then (.nan, flagIV) else (.inf false, 0)
  | .fin neg n d =>
    if n = 0 then (.fin neg 0 1, 0)
    else if neg then (.nan, flagIV)
    else
      -- 1,200 fraction bits lie below every rounding boundary of an f64 root, RSR's included
      let (a, b) := sqrtRatio n d 1200
      (.fin false a b, 0)

/-! ## Elementary functions

Each is computed in fixed point with `fxBits` fraction bits; the value delivered lies strictly between two neighbouring fixed-point numbers, so
it never lies on a rounding boundary, as the irrational exact value does not. -/

/-- Fraction bits of the fixed-point evaluations. -/
def fxBits : Nat := 1100

/-- Σ over k of ± z^(2k+1)/(2k+1), the arctangent (alternating) or inverse hyperbolic tangent series, for z in fixed point. -/
def atanSeries (alternate : Bool) (z2 : Int) : Nat → Nat → Int → Int → Int
  | 0, _, _, acc => acc
  | fuel + 1, k, term, acc =>
    let t := term / (2 * k + 1 : Nat)
    atanSeries alternate z2 fuel (k + 1) (term * z2 / 2 ^ fxBits) (if alternate && k % 2 = 1 then acc - t else acc + t)

/-- artanh or arctan of num/den in fixed point. -/
def fxAtan (alternate : Bool) (num den fuel : Nat) : Int :=
  let z : Int := (num * 2 ^ fxBits / den : Nat)
  atanSeries alternate (z * z / 2 ^ fxBits) fuel 0 z 0

def fxLn2 : Int := 2 * fxAtan false 1 3 360
def fxPi : Int := 16 * fxAtan true 1 5 250 - 4 * fxAtan true 1 239 80

/-- Σ of y^k/k! with steps of `by_` in the factorial: exp (1), and the tails of sin and cos (2, alternating). -/
def expSeries (y : Int) : Nat → Nat → Int → Int → Int
  | 0, _, _, acc => acc
  | fuel + 1, k, term, acc => expSeries y fuel (k + 1) (term * y / 2 ^ fxBits / (k : Nat)) (acc + term)

/-- e^y for y in fixed point, |y| below 2: y is halved 16 times and the result squared back. -/
def fxExp (y : Int) : Int :=
  let r := expSeries (y / 2 ^ 16) 80 1 (2 ^ fxBits) 0
  (List.range 16).foldl (fun a _ => a * a / 2 ^ fxBits) r

/-- sin y, or cos y, for y in fixed point, 0 ≤ y ≤ 2. -/
def fxSinCos (y : Int) : Nat → Nat → Int → Int → Int
  | 0, _, _, acc => acc
  | fuel + 1, k, term, acc =>
    fxSinCos y fuel (k + 2) (-(term * y / 2 ^ fxBits * y / 2 ^ fxBits / (k * (k + 1) : Nat))) (acc + term)

def fxSin (y : Int) : Int := fxSinCos y 120 2 y 0
def fxCos (y : Int) : Int := fxSinCos y 120 1 (2 ^ fxBits) 0

/-- A fixed-point number scaled by 2^e, as an exact value strictly inside its last place. -/
def ofFx (v e : Int) : Ex :=
  let n := 2 * v.natAbs + 1
  if e ≥ 0 then .fin (decide (v < 0)) (n * 2 ^ e.toNat) (2 ^ (fxBits + 1))
  else .fin (decide (v < 0)) n (2 ^ (fxBits + 1 + (-e).toNat))

/-- 2^e exactly. -/
def exPow2 (e : Int) : Ex := if e ≥ 0 then .fin false (2 ^ e.toNat) 1 else .fin false 1 (2 ^ (-e).toNat)

/-- A signed ratio as its floor and fixed-point fraction. -/
def splitRatio (neg : Bool) (num den : Nat) : Int × Int :=
  let s : Int := if neg then -(num : Int) else num
  (s / den, (s % den) * 2 ^ fxBits / den)

/-- 2^a (R155, R156). From 4,096 on every format overflows, by the rounding of the significand alone, and below −4,096 every format underflows alike. (Model: DEDUCED, unsafe: notes/assumptions 32) -/
def exExp2 (x : Ex) : Ex × FlagSet :=
  match x with
  | .nan => (.nan, 0)
  | .inf neg => (if neg then .fin false 0 1 else .inf false, 0)
  | .fin neg n d =>
    let (i, f) := splitRatio neg n d
    if i < -4096 then (exPow2 (-4096), 0)
    else if n % d = 0 then (exPow2 (min i 4096), 0)
    else (ofFx (fxExp (f * fxLn2 / 2 ^ fxBits)) (min i 4096), 0)

/-- log2 a (R155, R156). -/
def exLog2 (x : Ex) : Ex × FlagSet :=
  match x with
  | .nan => (.nan, 0)
  | .inf neg => if neg then (.nan, flagIV) else (.inf false, 0)
  | .fin neg n d =>
    if n = 0 then (.inf true, flagDZ)
    else if neg then (.nan, flagIV)
    else
      let e := log2Ratio n d
      let (a, b) := scaleRatio n d e
      if a = b then (exOfInt e, 0)
      else
        let l := 2 * fxAtan false (a - b) (a + b) 360 * 2 ^ fxBits / fxLn2
        (ofFx (e * 2 ^ fxBits + l) 0, 0)

/-- sin(π × a) (R155, R156): a is reduced to a quarter turn. -/
def exSinPi (x : Ex) : Ex × FlagSet :=
  match x with
  | .nan => (.nan, 0)
  | .inf _ => (.nan, flagIV)
  | .fin neg n d =>
    if n % d = 0 then (.fin neg 0 1, 0)
    else
      let r := n % (2 * d)                     -- |a| mod 2, in units of 1/d
      let flip := decide (r > d)
      let h := if r > d then r - d else r      -- 0 < h < 1
      let g := if 2 * h > d then d - h else h  -- folded at a quarter turn
      let neg' := neg != flip
      if 2 * g = d then (.fin neg' 1 1, 0)
      else match ofFx (fxSin (fxPi * g / d)) 0 with
        | .fin _ a b => (.fin neg' a b, 0)
        | y => (y, 0)

/-- cos(π × a) (R155, R156). -/
def exCosPi (x : Ex) : Ex × FlagSet :=
  match x with
  | .nan => (.nan, 0)
  | .inf _ => (.nan, flagIV)
  | .fin _ n d =>
    let r := n % (2 * d)
    let h := if r > d then 2 * d - r else r    -- 0 ≤ h ≤ 1, cosine is even
    if h = 0 then (.fin false 1 1, 0)
    else if h = d then (.fin true 1 1, 0)
    else if 2 * h = d then (.fin false 0 1, 0)
    else
      let neg' := decide (2 * h > d)
      let g := if neg' then d - h else h
      match ofFx (fxCos (fxPi * g / d)) 0 with
        | .fin _ a b => (.fin neg' a b, 0)
        | y => (y, 0)

/-- A value strictly between 1 − 2^−900 and 1: what tanh and the sigmoid deliver to ROUND where they lie closer to 1 than any boundary. -/
def exBelowOne (neg : Bool) : Ex := .fin neg (2 ^ 900 - 1) (2 ^ 900)

/-- e^m for 0 ≤ m below 300, in fixed point: e^m = 2^(m / ln 2). -/
def fxExpBig (num den : Nat) : Int × Int :=
  let y : Int := (num : Int) * 2 ^ fxBits / den
  let k := y / fxLn2
  (fxExp (y - k * fxLn2), k)

/-- tanh a (R155, R156). -/
def exTanh (x : Ex) : Ex × FlagSet :=
  match x with
  | .nan => (.nan, 0)
  | .inf neg => (.fin neg 1 1, 0)
  | .fin neg n d =>
    if n = 0 then (.fin neg 0 1, 0)
    else if n ≥ 200 * d then (exBelowOne neg, 0)
    else
      let (v, k) := fxExpBig (2 * n) d
      let t := v * 2 ^ k.toNat
      match ofFx ((t - 2 ^ fxBits) * 2 ^ fxBits / (t + 2 ^ fxBits)) 0 with
        | .fin _ a b => (.fin neg a b, 0)
        | y => (y, 0)

/-- 1 / (1 + e^(−a)) (R155, R156). -/
def exSigm (x : Ex) : Ex × FlagSet :=
  match x with
  | .nan => (.nan, 0)
  | .inf neg => (if neg then .fin false 0 1 else .fin false 1 1, 0)
  | .fin neg n d =>
    if n = 0 then (.fin false 1 2, 0)
    else if n ≥ 300 * d then (if neg then exPow2 (-400) else exBelowOne false, 0)
    else
      let (v, k) := fxExpBig n d
      let t := v * 2 ^ k.toNat                 -- e^|a|
      let one : Int := 2 ^ fxBits
      (ofFx ((if neg then one else t) * one / (t + one)) 0, 0)

/-- a × 2^t, t = b truncated towards zero (R155, R156). Beyond ±8,192 every format overflows or underflows alike. -/
def exScale (x y : Ex) : Ex × FlagSet :=
  match x, y with
  | _, .nan => (.nan, flagIV)
  | .nan, _ => (.nan, 0)
  | .inf a, .inf bneg => if bneg then (.nan, flagIV) else (.inf a, 0)
  | .inf a, _ => (.inf a, 0)
  | .fin n a _, .inf bneg =>
    if a = 0 then (if bneg then (.fin n 0 1, 0) else (.nan, flagIV))
    else if bneg then (.fin n 0 1, 0) else (.inf n, 0)
  | .fin n a d, .fin bn c e =>
    if a = 0 then (.fin n 0 1, 0)
    else
      let t := min (c / e) 8192
      if bn then (.fin n a (d * 2 ^ t), 0) else (.fin n (a * 2 ^ t) d, 0)

/-! ## Comparisons -/

/-- The order of two exact values, neither a NaN: −1, 0 or 1; −0 equals +0. -/
def exCmp (x y : Ex) : Int :=
  let key : Ex → Ex → Int := fun x y =>
    match x, y with
    | .inf a, .inf b => if a = b then 0 else if a then -1 else 1
    | .inf a, _ => if a then -1 else 1
    | _, .inf b => if b then 1 else -1
    | .fin n1 a b, .fin n2 c d =>
      let p : Int := (if n1 then -1 else 1) * (a * d : Nat)
      let q : Int := (if n2 then -1 else 1) * (c * b : Nat)
      if p < q then -1 else if p = q then 0 else 1
    | _, _ => 0
  key x y

/-- FMIN and FMAX (R157), on patterns: −0 below +0; the other input for one NaN; canonical for two. The result keeps the chosen pattern. -/
def minMaxF (t : Ty) (isMax : Bool) (a b : Nat) : Nat × FlagSet :=
  let fl := snanFlag t a ||| snanFlag t b
  match decodeF t a, decodeF t b with
  | .nan, .nan => (canonNaN t, fl)
  | .nan, _ => (b % 2 ^ (signBit t + 1), fl)
  | _, .nan => (a % 2 ^ (signBit t + 1), fl)
  | x, y =>
    let c := exCmp x y
    let aLess := decide (c < 0) || (decide (c = 0) && exIsNeg x)
    ((if aLess != isMax then a else b) % 2 ^ (signBit t + 1), fl)

/-- FCMP's relations (R158): the truth value and the flags. -/
def fcmpRel (t : Ty) (cc : Fcc) (a b : Nat) : Bool × FlagSet :=
  let sn := snanFlag t a ||| snanFlag t b
  match decodeF t a, decodeF t b with
  | x, y =>
    if x = .nan ∨ y = .nan then
      (match cc with | .ne | .un => true | _ => false,
       match cc with | .eq | .ne | .un => sn | _ => flagIV)
    else
      let c := exCmp x y
      (match cc with
        | .eq => decide (c = 0) | .ne => decide (c ≠ 0) | .lt => decide (c < 0) | .le => decide (c ≤ 0)
        | .gt => decide (c > 0) | .ge => decide (c ≥ 0) | .un => false, 0)

/-- FCLASS's bit (R158). -/
def classBit (t : Ty) (bits : Nat) : Nat :=
  match decodeF t bits with
  | .nan => if isSNaN t bits then 8 else 9
  | .inf neg => if neg then 0 else 7
  | .fin neg n _ =>
    let sub := (bits / 2 ^ fracBits t) % 2 ^ expBits t = 0
    if n = 0 then (if neg then 3 else 4)
    else if sub then (if neg then 2 else 5)
    else (if neg then 1 else 6)

/-! ## Conversion -/

/-- Whether every value of one floating-point type is a value of another (R58). -/
def widens (src dst : Ty) : Bool :=
  match src, dst with
  | .f4, t => hasInf t || t = .e4 || t = .f4
  | .e4, .e4 | .e5, .e5 | .bf16, .bf16 | .f16, .f16 | .f32, .f32 | .f64, .f64 | .a36, .a36 => true
  | .e4, .bf16 | .e4, .f16 | .e4, .f32 | .e4, .f64 | .e4, .a36 => true
  | .e5, .bf16 | .e5, .f16 | .e5, .f32 | .e5, .f64 | .e5, .a36 => true
  | .f16, .f32 | .f16, .f64 | .f16, .a36 => true
  | .bf16, .f32 | .bf16, .f64 | .bf16, .a36 => true
  | .f32, .f64 | .f32, .a36 | .a36, .f64 => true
  | _, _ => false

/-- CONVERT of R58: the target's pattern and the flags. (Model: DEDUCED, unsafe: notes/assumptions 30, 147) -/
def convert (src dst : Ty) (mode : Rnd) (sat : Bool) (u : BitVec 32) (bits : Nat) : Nat × FlagSet :=
  if Ty.isInt src then
    let v := decodeI src bits
    if Ty.isInt dst then (deliverI dst (sat && decide (Ty.width dst ≤ Ty.width src)) v, 0) else deliverF dst mode sat u (exOfInt v)
  else
    let x := decodeF src bits
    let sn := snanFlag src bits
    if Ty.isInt dst then
      match x with
      | .nan => (0, flagIV)
      | .inf neg => (lowNat (Ty.width dst) (if neg then minI dst else maxI dst), flagIV)
      | .fin neg n d =>
        let (r, inexact) := roundInt mode u neg n d
        if r < minI dst ∨ maxI dst < r then (lowNat (Ty.width dst) (satI dst r), flagIV)
        else (lowNat (Ty.width dst) r, if inexact then flagNX else 0)
    else if src = dst then
      (if x = .nan then (canonNaN dst, sn) else (bits % 2 ^ (signBit dst + 1), 0))
    else if widens src dst then
      let (r, fl) := roundF dst .rne 0 x
      (r, fl ||| sn)
    else
      match x with
      | .nan => let (r, fl) := roundF dst mode u .nan; (r, fl ||| sn)
      | .inf neg =>
        if sat then (withSign dst neg (maxBits dst), flagOF ||| flagNX)
        else
          let r := overflowBits dst mode neg true
          let isInf := decide (hasInf dst) && decide (r ≠ maxBits dst)
          (withSign dst neg r, if isInf then 0 else flagOF ||| flagNX)
      | x => deliverF dst mode sat u x

/-- Whether CONVERT steps the LFSR under RSR (R159). -/
def convertRounds (src dst : Ty) : Bool :=
  if Ty.isInt src then !Ty.isInt dst
  else if Ty.isInt dst then true
  else !widens src dst

/-! ## The LFSR and element loops -/

/-- One step of the LFSR (R53). -/
def lfsrStep (s : BitVec 32) : BitVec 32 :=
  if s.getLsbD 0 then (s >>> 1) ^^^ 0x80200003#32 else s >>> 1

/-- The LFSR of a CE as placement loads it (R54). -/
def lfsrSeed (seed : BitVec 32) (tile : Nat) : BitVec 32 :=
  let s := seed ^^^ BitVec.ofNat 32 (tile * 0x9E3779B9)
  if s = 0 then 0x9E3779B9#32 else s

/-- Elements 0 to n − 1 of a result, in ascending order; under RSR the LFSR steps once for each (R53). -/
def mapElems (rsr : Bool) (f : Nat → BitVec 32 → Nat × FlagSet) : List Nat → BitVec 32 → List Nat × FlagSet × BitVec 32
  | [], s => ([], 0, s)
  | j :: r, s =>
    let s' := if rsr then lfsrStep s else s
    let (x, fl) := f j s'
    let (xs, fl', s'') := mapElems rsr f r s'
    (x :: xs, fl ||| fl', s'')

/-- One level of REDUCE_TREE (R61). -/
def treeLevel (rsr : Bool) (op : Nat → Nat → BitVec 32 → Nat × FlagSet) : List Nat → BitVec 32 → List Nat × FlagSet × BitVec 32
  | a :: b :: r, s =>
    let s' := if rsr then lfsrStep s else s
    let (x, fl) := op a b s'
    let (xs, fl', s'') := treeLevel rsr op r s'
    (x :: xs, fl ||| fl', s'')
  | l, s => (l, 0, s)

/-- REDUCE_TREE (R61), for a list whose length is a power of two; the fuel is its number of levels. -/
def reduceTree (rsr : Bool) (op : Nat → Nat → BitVec 32 → Nat × FlagSet) : Nat → List Nat → BitVec 32 → Nat × FlagSet × BitVec 32
  | 0, l, s => (l.headD 0, 0, s)
  | k + 1, l, s =>
    let (l', fl, s') := treeLevel rsr op l s
    let (r, fl', s'') := reduceTree rsr op k l' s'
    (r, fl ||| fl', s'')

/-- The inclusive scan (R62). -/
def scanElems (rsr : Bool) (op : Nat → Nat → BitVec 32 → Nat × FlagSet) : Nat → List Nat → BitVec 32 → List Nat × FlagSet × BitVec 32
  | _, [], s => ([], 0, s)
  | prev, x :: r, s =>
    let s' := if rsr then lfsrStep s else s
    let (y, fl) := op prev x s'
    let (ys, fl', s'') := scanElems rsr op y r s'
    (y :: ys, fl ||| fl', s'')

/-- The identity of a reduction (R61): −0 for floating-point addition, 0, 1, the type's limits, all ones for AND. -/
def redIdentity (t : Ty) (op : RedOp) : Nat :=
  if Ty.isInt t then
    match op with
    | .add | .or | .xor => 0
    | .mul => 1
    | .and => 2 ^ Ty.width t - 1
    | .min => lowNat (Ty.width t) (maxI t)
    | .max => lowNat (Ty.width t) (minI t)
  else
    match op with
    | .add => 2 ^ signBit t
    | .mul => bias t * 2 ^ fracBits t
    | .min => (2 ^ expBits t - 1) * 2 ^ fracBits t
    | .max => 2 ^ signBit t + (2 ^ expBits t - 1) * 2 ^ fracBits t
    | _ => 0

/-- SAT on a result that is not rounded (R55, R162). -/
def satBits (t : Ty) (sat : Bool) (bits : Nat) : Nat × FlagSet :=
  if sat then
    match satEx t (decodeF t bits) with
    | (.fin neg n d, fl) => if fl = 0 then (bits, 0) else ((roundF t .rtz 0 (.fin neg n d)).1, fl)
    | _ => (bits, 0)
  else (bits, 0)

/-- One step of LRED or LSCAN (R162). -/
def redStep (t : Ty) (mode : Rnd) (sat : Bool) (op : RedOp) (a b : Nat) (u : BitVec 32) : Nat × FlagSet :=
  if Ty.isInt t then
    let x := decodeI t a
    let y := decodeI t b
    (match op with
      | .add => deliverI t sat (x + y)
      | .mul => deliverI t sat (x * y)
      | .min => lowNat (Ty.width t) (min x y)
      | .max => lowNat (Ty.width t) (max x y)
      | .and => a &&& b
      | .or => a ||| b
      | .xor => a ^^^ b, 0)
  else
    let sn := snanFlag t a ||| snanFlag t b
    match op with
    | .add => let (x, f1) := exAdd mode (decodeF t a) (decodeF t b); let (r, f2) := deliverF t mode sat u x; (r, sn ||| f1 ||| f2)
    | .mul => let (x, f1) := exMul (decodeF t a) (decodeF t b); let (r, f2) := deliverF t mode sat u x; (r, sn ||| f1 ||| f2)
    | .min => let (r, f1) := minMaxF t false a b; let (r', f2) := satBits t sat r; (r', f1 ||| f2)
    | .max => let (r, f1) := minMaxF t true a b; let (r', f2) := satBits t sat r; (r', f1 ||| f2)
    | _ => (0, 0)

end Sys2Proof.Machine
end

