-- ==== Sys2Proof/Machine/Operands.lean ====
section
/-! DEFINITION. Operand entries, predicates, immediates and delivery, in both modes: how an instruction of a block takes its operands and
sends its results (R141-R147, R171-R174), and how a slot of a CE in a resident graph does (R35-R43, R143-R146). -/

namespace Sys2Proof.Machine

/-! ## Immediates and negation (R67, R68) -/

/-- The immediate element of a type (R68). `n` is 20, or 16 for an instruction marked S. -/
def immElem (t : Ty) (n : Nat) (imm : Nat) : Nat :=
  if Ty.isInt t then lowNat (Ty.width t) (sext imm n)
  else (convert .f32 t .rne false 0 ((imm % 2 ^ n) * 2 ^ (32 - n))).1

/-- A lane filled with an element. -/
def splatLane (w x : Nat) : Word := ofElems 64 w (64 / w) fun _ => x

/-- An operand lane with its sign bits inverted (R67). -/
def negLane (t : Ty) (neg : Bool) (x : Word) : Word :=
  if neg then x ^^^ splatLane (Ty.width t) (2 ^ signBit t) else x

/-! ## Block mode -/

/-- The key of an operand entry. -/
def entryKey (slot : Nat) (o : Opnd) : Nat := 4 * slot + opndCode o

def entry? (k : Block) (slot : Nat) (o : Opnd) : Option BEntry := Tab.get? k.entries (entryKey slot o)

/-- What the entries of an instruction say when it looks at them (R171-R173). -/
inductive Taken where
  | wait
  | nulled
  | untaken
  | go (a b c : Value)
  deriving DecidableEq, Repr

/-- Whether a P value tests true: lane 0 is not all zero (R172). -/
def testTrue (v : Value) : Bool := decide (lane v 0 ≠ 0)

/-- The value of an entry; zero for an entry that is not used or holds a void. -/
def entryValue (e : Option BEntry) : Value :=
  match e with
  | some (.val v) => v
  | _ => 0

/-- Look at the used entries of a slot: all must hold a value or a void; a void nulls; then P is tested (R171-R173). -/
def takeEntries (k : Block) (slot : Nat) (pr : Pred) (ua ub uc : Bool) : Taken :=
  let a := entry? k slot .a
  let b := entry? k slot .b
  let c := entry? k slot .c
  let p := entry? k slot .p
  let up := pr != .always
  if (ua && a.isNone) || (ub && b.isNone) || (uc && c.isNone) || (up && p.isNone) then .wait
  else if (ua && a == some .void) || (ub && b == some .void) || (uc && c == some .void) || (up && p == some .void) then .nulled
  else if (pr == .ifTrue && !testTrue (entryValue p)) || (pr == .ifFalse && testTrue (entryValue p)) then .untaken
  else .go (entryValue a) (entryValue b) (entryValue c)

/-- Whether no cut keeps a group from acting. A SUSPEND stops it when its cut begins: until then it runs, and may come to its end (R274). -/
def runsOn (x : Group) : Bool := x.cutWhy.isNone || x.cutWhy == some .suspend

/-- Whether the blocks of a thread can act: the group runs, no freeze line has stopped it, no freeze wave has reached the cluster. -/
def threadLive (s : State) (g th : Nat) : Bool :=
  match grp? s g with
  | some x =>
    (x.state == .running || x.state == .parked) && skidding s x && runsOn x && x.ending.isNone && coreUp s && !stoppedCl s (clusterOfThread x th)
  | none => false

/-- The opcodes that fire in the CE's own order (R171): those of groups 0x000 to 0x080 and MOV. -/
def isCeOp (op : Nat) : Bool := decide (op < 0x0C0) || decide (op = 0x0CB)

/-- A block that the mapping check or the trap mode has turned away fires nothing (R92, R361, R365). (Model: DEDUCED, safe: notes/assumptions 11) -/
def turnedAway (k : Block) : Bool := k.fault.any fun f => f.slot.isNone && (decide (f.code = 1) || decide (f.code = 0x13))

/-- The instructions of a block that fire on their entries alone: those of the CE's own order, the B format, WRITE, NULL, the E format but for a CT pop, BARV, BARAW, BARI and SETSR to EVT. What waits for something else as well (READ, memory
instructions, those of the oldest block) takes its turn when that has come, in any order. (Model: DEDUCED, safe: notes/assumptions 143) -/
def firesAlone (w : Word) (r : Row) : Bool :=
  let op := opOfWord w
  isCeOp op || r.fmt == .b || has [0x0C9, 0x0CA, 0x180, 0x182, 0x184, 0x1C1, 0x1C2, 0x1C3, 0x1C4, 0x1C5, 0x1C6] op
    || (r.fmt == .e && !(decide (op = 0x15F) && decide (fieldOf w 18 4 = 0) && decide (fieldOf w 25 3 ≠ 0)))

/-- Whether a slot of a block is ready to fire (R53, R171). -/
def slotReady (k : Block) (j : Nat) : Bool :=
  match k.words[j]? with
  | none => false
  | some w =>
    match rowOf (opOfWord w) with
    | none => false
    | some r =>
      let ub := r.b && !(r.fmt == .g && w.getLsbD 27)
      firesAlone w r && !has k.fired j
        && (match takeEntries k j (predOf (fieldOf w 52 2)) r.a ub r.c with | .go _ _ _ => true | _ => false)

/-- Whether a lower CE slot of the same CE is ready (R53, R171): slots of the same block, or, for block frame 1, of the block in frame 0 of
the same quad. -/
def lowerReady (s : State) (g th : Nat) (k : Block) (slot : Nat) : Bool :=
  let ce := slot / 8
  ((List.range (slot % 8)).any fun i => slotReady k (8 * ce + i))
    || (decide (k.half = 1) &&
        match grp? s g with
        | none => false
        | some x => x.image.threads.any fun (t, y) => decide (t / 4 = th / 4) && y.blocks.any fun m =>
            decide (m.quad = k.quad ∧ m.half = 0) && !turnedAway m && (List.range 8).any fun i => slotReady m (8 * ce + i))

/-- The block of a site whose slot can still fire. -/
def firing? (s : State) (g th b slot : Nat) : Option Block :=
  match block? s g th b with
  | none => none
  | some k => if threadLive s g th && !has k.fired slot && decide (slot ≤ k.icnt) && !turnedAway k then some k else none

/-- Which entries a slot's word uses. -/
def wordUses (w : Word) : List Opnd :=
  match rowOf (opOfWord w) with
  | none => []
  | some r =>
    let op := opOfWord w
    (if r.a || decide (op = 0x1C4) then [Opnd.a] else []) ++ (if r.b && !(r.fmt == .g && w.getLsbD 27) then [Opnd.b] else [])
      ++ (if r.c then [Opnd.c] else []) ++ (if fieldOf w 52 2 ≠ 0 then [Opnd.p] else [])

/-- The logical tile of the CE that holds a slot of a block (R169, R20). -/
def ceTile (k : Block) (th slot : Nat) : Nat :=
  let l := th / 4
  let ce := slot / 8
  (l / 36) * 32768 + ((l % 36) / 6) * 4096 + (l % 6) * 512 + (8 + ce / 4) * 16 + 4 * k.quad + ce % 4

/-- The watchpoints of TYPE 2 on an operand entry of a CE (R444, R446), by logical tile, frame, slot and operand. -/
def watchEntry (s : State) (g work tile frame slot : Nat) (o : Opnd) (wr : Bool) : State :=
  if s.dbgs = [] then s
  else watch s g work (tile % 2 ^ 18 + frame % 8 * 2 ^ 18 + slot % 16 * 2 ^ 21 + opndCode o * 2 ^ 25) wr fun c a =>
    decide (fieldOf c 61 2 = 2) && decide (fieldOf a 0 18 = tile) && decide (fieldOf a 21 4 = slot) && decide (fieldOf a 25 2 = opndCode o)
      && (a.getLsbD 27 || decide (fieldOf a 18 3 = frame))

/-- Slot i of a block in block frame f is CE slot 8 f + i mod 8 of CE i div 8 of its quad (R169, R446). -/
def watchBlock (s : State) (g th : Nat) (k : Block) (slot : Nat) (o : Opnd) (wr : Bool) : State :=
  if s.dbgs = [] then s
  else match grp? s g with
    | some x => watchEntry s g (physTile x (ceTile k th slot)) (ceTile k th slot) 0 (8 * k.half + slot % 8) o wr
    | none => s

/-- The slot has fired: it has used its entries. -/
def markFired (s : State) (g th b slot : Nat) : State :=
  let s := match block? s g th b with
    | some k => if s.dbgs = [] then s else
        ((wordUses ((k.words[slot]?).getD 0)).filter fun o => (entry? k slot o).isSome && entry? k slot o != some .void).foldl (fun s o => watchBlock s g th k slot o false) s
    | none => s
  modBlock s g th b fun k => { k with fired := slot :: k.fired }

/-- A result or a void arrives in a target entry; an entry that already holds one keeps the first and raises BLOCK_DUP (R171). -/
def arrive (s : State) (g th b slot : Nat) (t : Option Target) (v : BEntry) : State :=
  match t with
  | none => s
  | some t =>
    let key := entryKey t.slot.toNat t.opnd
    match block? s g th b with
    | none => s
    | some k =>
      if (Tab.get? k.entries key).isSome then blockFault s g th b (some slot) 2 0 false k.addr
      else
        let s := if v = .void then s else watchBlock s g th k t.slot.toNat t.opnd true
        modBlock s g th b fun k => { k with entries := Tab.set k.entries key v }

/-- Both targets receive the same value (R142). -/
def deliver (s : State) (g th b slot : Nat) (t0 t1 : Option Target) (v : BEntry) : State :=
  arrive (arrive s g th b slot t0 v) g th b slot t1 v

/-- The LFSR of a CE, as placement seeds it until it steps (R54). -/
def lfsrOf (x : Group) (tile : Nat) : BitVec 32 := Tab.get x.image.lfsr tile (lfsrSeed x.srseed (physTile { x with place := x.seedPlace } tile))
def setLfsr (s : State) (g tile : Nat) (v : BitVec 32) : State := modImage s g fun i => { i with lfsr := Tab.set i.lfsr tile v }

/-- The lowest enabled flag that is raised, as ARITH's cause (R57, R358). -/
def arithCause (enables raised : BitVec 5) : Option Nat := (List.range 5).find? fun i => (enables &&& raised).getLsbD i

/-- Flags of a block's firing (R57): an enabled one is ARITH, precise; the others wait for commit. -/
def blockFlags (s : State) (g th b slot : Nat) (fl : FlagSet) : State :=
  match block? s g th b with
  | none => s
  | some k =>
    match arithCause k.enables fl with
    | some i => blockFault s g th b (some slot) 0x0D i false k.addr
    | none => modBlock s g th b fun k => { k with flags := k.flags ||| fl }

/-- An instruction of a block that computes a value from its entries, or two values for its two targets (R141, R188): nulled, it sends a void;
untaken, it sends nothing. -/
def fireBlock (s : State) (g th b slot : Nat) (pr : Pred) (ua ub uc : Bool) (t0 t1 : Option Target)
    (f : Value → Value → Value → BitVec 32 → Value × FlagSet × BitVec 32) : State :=
  match firing? s g th b slot with
  | none => s
  | some k =>
    match takeEntries k slot pr ua ub uc with
    | .wait => s
    | .nulled => deliver (markFired s g th b slot) g th b slot t0 t1 .void
    | .untaken => markFired s g th b slot
    | .go a b' c =>
      if lowerReady s g th k slot then s
      else
        match grp? s g with
        | none => s
        | some x =>
          let tile := ceTile k th slot
          let l := lfsrOf x tile
          let (v, fl, l') := f a b' c l
          let s := markFired s g th b slot
          let s := if l' = l then s else setLfsr s g tile l'
          blockFlags (deliver s g th b slot t0 t1 (.val v)) g th b slot fl

/-! ## Resident mode -/

/-- The work of one lane: an element-wise operation (R143). -/
abbrev LaneFn := Word → Word → Word → BitVec 32 → Word × FlagSet × BitVec 32

/-- An element-wise operation on a whole value: its lanes in ascending order (R53, R143). -/
def laneWise (f : LaneFn) (a b c : Value) (l : BitVec 32) : Value × FlagSet × BitVec 32 :=
  let r := (List.range 16).foldl (fun (acc : List Nat × FlagSet × BitVec 32) i =>
    let (v, fl, l') := f (lane a i) (lane b i) (lane c i) acc.2.2
    (acc.1 ++ [v.toNat], acc.2.1 ||| fl, l')) ([], 0, l)
  (packList 1024 64 r.1, r.2.1, r.2.2)

/-- The port that is bound to an entry of a slot, if any (R37, R85). -/
def portOf (c : Ce) (slot : Nat) (o : Opnd) : Option Nat :=
  c.ports.findIdx? fun p => p.bound && decide (p.slot = slot) && p.opnd == o

/-- Whether a port takes its tokens through its pair's join unit (R40). -/
def joined (c : Ce) (p : Nat) : Bool := ((c.ports[p / 2 * 2]?).map (·.join)).getD false

/-- The tokens ready at a port: those that its join has passed, or those of its channel, up to a MARK, which the element holds (R208, R317). A MARK whose LEVEL disagrees with its payload is
held by none, and a token after the channel's DONE is of no good kind (R26). -/
def portReady (gr : Graph) (c : Ce) (tile p : Nat) : List Token :=
  let l := if joined c p then (c.dlv[p]?).getD []
    else if has c.doneIn p then (portTokens gr tile p).map fun _ => tok 15 0 0
    else portTokens gr tile p
  l.takeWhile fun t => decide (kindOf t ≠ 7) || badToken t

/-- A frame of a CE. -/
def frame? (c : Ce) (fr : Nat) : Option CeFrame := (c.frames[fr]?).bind fun f => if f.live then some f else none

/-- Whether every earlier live iteration has fired a slot or has its firing under way: a slot fires its iterations in order, since the tokens that one firing leaves start the value of the next (R37, R38). -/
def earlierFired (c : Ce) (fr slot : Nat) : Bool :=
  match frame? c fr with
  | none => false
  | some f => c.frames.zipIdx.all fun (h, i) => !h.live || decide (f.iter ≤ h.iter) || has h.fired slot || c.waits.any fun w => decide (w.frame = i ∧ w.slot = slot)

/-- The targets that a slot's word names. -/
def wordTargets (w : Word) : List Target :=
  match rowOf (opOfWord w) with
  | none => []
  | some r => (match r.fmt with | .b | .e => [] | .k => [targetOf (fieldOf w 38 10)] | _ => [targetOf (fieldOf w 38 10), targetOf (fieldOf w 28 10)]).filterMap id

/-- The enabled slots of a CE. -/
def enabledSlots (c : Ce) : List Nat := (List.range 16).filter fun i => c.sloten.getLsbD i

/-- Whether every slot that feeds an entry has fired in a frame: what the entry then holds is its value for the iteration, behind the tokens that the firing before it left (R37, R38). -/
def entryFed (c : Ce) (f : CeFrame) (slot : Nat) (o : Opnd) : Bool :=
  (enabledSlots c).all fun p => has f.fired p || !((((c.words[p]?).map wordTargets).getD []).any fun t => decide (t.slot.toNat = slot) && t.opnd == o)

/-- The tokens that an entry holds for a frame: a port's in arrival order, or those that other slots sent. -/
def entryTokens (gr : Graph) (c : Ce) (tile fr slot : Nat) (o : Opnd) : List Token :=
  if !earlierFired c fr slot then []
  else match portOf c slot o with
    | some p => portReady gr c tile p
    | none => ((frame? c fr).map fun f => if entryFed c f slot o then Tab.get f.entries (entryKey slot o) [] else []).getD []

/-- A value ends at its first control token and holds at most 16 tokens (R38). -/
def valueOf : Nat → List Token → List Token
  | 0, _ => []
  | _, [] => []
  | n + 1, t :: r => if isControl t then [t] else t :: valueOf n r

/-- Whether an entry has no token in this frame and will get none: a slot that feeds it fired without sending and no earlier firing left it one (R38), or its port has given DONE. -/
def entryClosed (gr : Graph) (c : Ce) (tile fr slot : Nat) (o : Opnd) : Bool :=
  match portOf c slot o with
  | some p => has c.doneIn p && (portReady gr c tile p).isEmpty
  | none => ((frame? c fr).map fun f => has f.closed (entryKey slot o) && entryFed c f slot o && (Tab.get f.entries (entryKey slot o) []).isEmpty).getD false

/-- Consume n tokens of an entry. -/
def consumeEntry (s : State) (g gi tile fr slot : Nat) (o : Opnd) (n : Nat) : State :=
  match ce? s g gi tile, graph? s g gi with
  | some c, some gr =>
    match portOf c slot o with
    | some p =>
      let gone := (portReady gr c tile p).take n
      let s := if joined c p then modCe s g gi tile fun c => { c with dlv := modAt c.dlv p fun l => l.drop n } else consume s g gi tile p n
      if gone.any fun t => decide (kindOf t = 5) then modCe s g gi tile fun c => { c with doneIn := p :: c.doneIn } else s
    | none =>
      modCe s g gi tile fun c =>
        { c with frames := modAt c.frames fr fun f => { f with entries := Tab.set f.entries (entryKey slot o) ((Tab.get f.entries (entryKey slot o) []).drop n) } }
  | _, _ => s

/-- Close the entries that a slot feeds and has sent nothing to: the slot that uses a closed, empty entry fires with n = 0 (R38). (Model: DEDUCED, unsafe: notes/assumptions 14) -/
def closeFrom (c : Ce) (fr slot : Nat) : Ce :=
  let inner := (((c.words[slot]?).map wordTargets).getD []).filter fun t => decide (t.slot.toNat < 16)
  { c with frames := modAt c.frames fr fun f => { f with closed := (inner.map fun t => entryKey t.slot.toNat t.opnd) ++ f.closed } }

/-- Results of a slot go to its targets: entries of the same frame, or staged for an output port (R37, R146). -/
def ceDeliver (s : State) (g gi tile fr slot : Nat) (t0 t1 : Option Target) (l : List Token) : State :=
  let s := addSkid s g (workName s g gi tile) 1
  let s := if t0.isNone && t1.isNone then sinkAll s g gi tile l else s
  let s := if s.dbgs = [] || l.isEmpty then s else
    ([t0, t1].filterMap id).foldl (fun s t => if t.slot.toNat < 64 then watchEntry s g (workName s g gi tile) tile fr t.slot.toNat t.opnd true else s) s
  modCe s g gi tile fun c =>
    let iter := ((frame? c fr).map (·.iter)).getD 0
    let put (c : Ce) (t : Option Target) : Ce :=
      match t with
      | none => c
      | some t =>
        if 64 ≤ t.slot.toNat then
          { c with stage := c.stage ++ [{ port := t.slot.toNat - 64, iter := iter, slot := slot, toks := l }] }
        else
          { c with frames := modAt c.frames fr fun f =>
              { f with entries := Tab.set f.entries (entryKey t.slot.toNat t.opnd) (Tab.get f.entries (entryKey t.slot.toNat t.opnd) [] ++ l) } }
    put (put c t0) t1

/-- Tokens that a firing leaves in an entry start the value of the slot's next firing (R37, R38): they pass to the next live iteration that has not fired the slot, or
wait for the next one that is assigned. -/
def passOn (c : Ce) (fr slot : Nat) : Ce :=
  match frame? c fr with
  | none => c
  | some f =>
    [Opnd.a, .b, .c, .p].foldl (fun c o =>
      let key := entryKey slot o
      let rest := Tab.get f.entries key []
      if rest = [] then c
      else
        let c := { c with frames := modAt c.frames fr fun f => { f with entries := Tab.erase f.entries key } }
        let later := (c.frames.zipIdx.filter fun q => q.1.live && decide (f.iter < q.1.iter) && !has q.1.fired slot).map fun q => (q.1.iter, q.2)
        match minOf? (later.map (·.1)) with
        | some i =>
          match later.find? fun q => decide (q.1 = i) with
          | some q => { c with frames := modAt c.frames q.2 fun h => { h with entries := Tab.set h.entries key (rest ++ Tab.get h.entries key []) } }
          | none => c
        | none => { c with carry := Tab.set c.carry key (Tab.get c.carry key [] ++ rest) }) c

/-- A firing of a CE uses its entries; what a port has given them arrives with it. (Model: DEDUCED, unsafe: notes/assumptions 95) -/
def ceWatch (s : State) (g gi tile fr slot : Nat) : State :=
  match ce? s g gi tile with
  | none => s
  | some c =>
    let w := workName s g gi tile
    (wordUses ((c.words[slot]?).getD 0)).foldl (fun s o =>
      let s := if (portOf c slot o).isSome then watchEntry s g w tile fr slot o true else s
      watchEntry s g w tile fr slot o false) s

/-- A slot has fired for its frame. -/
def ceMark (s : State) (g gi tile fr slot : Nat) (sent : Bool) : State :=
  let s := if s.dbgs = [] then s else ceWatch s g gi tile fr slot
  modCe s g gi tile fun c =>
    let c := { c with frames := modAt c.frames fr fun f => { f with fired := slot :: f.fired } }
    let c := passOn c fr slot
    if sent then c else closeFrom c fr slot

/-- The largest stop level that a port's option names among the counters that wrapped (R28, R39). -/
def stopLevel (c : Ce) (p : Nat) (wraps : List Nat) : Option Nat :=
  (wraps.filter fun j => c.stopopt.getLsbD (4 * p + j)).foldl (fun a j => match a with | none => some j | some k => some (max j k)) none

/-- Whether something of an output port must still precede a staged result: an earlier iteration that is live, or a lower slot of the same iteration
that targets the port and has not fired (R146). -/
def stageBlocked (c : Ce) (o : OutStage) : Bool :=
  (c.frames.any fun f => f.live && (decide (f.iter < o.iter)
    || (decide (f.iter = o.iter) && (List.range o.slot).any fun i => c.sloten.getLsbD i && !has f.fired i
        && (((c.words[i]?).map wordTargets).getD []).any fun t => decide (t.slot.toNat = 64 + o.port))))
    || c.stage.any fun q => decide (q.port = o.port) && (decide (q.iter < o.iter) || decide (q.iter = o.iter ∧ q.slot < o.slot))

/-- Send the staged results that may leave and have space, one after another. -/
def flushStage : Nat → State → Nat → Nat → Nat → State
  | 0, s, _, _, _ => s
  | fuel + 1, s, g, gi, tile =>
    match ce? s g gi tile, graph? s g gi with
    | some c, some gr =>
      match c.stage.findIdx? fun o => !stageBlocked c o && canSend gr tile o.port with
      | none => s
      | some i =>
        match c.stage[i]? with
        | none => s
        | some o =>
          let s := modCe s g gi tile fun c =>
            { c with stage := eraseAt c.stage i
                     doneOut := if o.toks.any fun t => decide (kindOf t = 5) then o.port :: c.doneOut else c.doneOut }
          flushStage fuel (send s g gi tile o.port o.toks) g gi tile
    | _, _ => s

/-- Free the frames whose instructions have all fired, in iteration order; a STOP follows the results of an iteration at which counters wrapped (R36, R39). -/
def freeFrames (s : State) (g gi tile : Nat) : State :=
  modCe s g gi tile fun c =>
    c.frames.zipIdx.foldl (fun c (f, i) =>
      if f.live && (enabledSlots c).all fun sl => has f.fired sl then
        let stops : List OutStage := (List.range 8).filterMap fun p =>
          (stopLevel c p f.wraps).map fun lv => { port := p, iter := f.iter, slot := 16, toks := [tok kindSTOP lv 0] }
        { c with frames := modAt c.frames i fun f => { f with live := false, entries := [], closed := [], fired := [] }
                 stage := c.stage ++ stops }
      else c) c

/-- Whether the CE assigns no more iterations: the highest counter has wrapped, or, without counters, every bound port has given its DONE; a CE with neither
runs one iteration (R39). -/
def ceFinished (c : Ce) : Bool :=
  let bound := (List.range 4).filter fun p => ((c.ports[p]?).map (·.bound)).getD false
  if ((c.counters[0]?).map fun k => decide (k.count ≠ 0)).getD false then c.noMore
  else if bound = [] then decide (0 < c.nextIter)
  else bound.all fun p => has c.doneIn p

/-- After its last live frame is freed and its results have left, the CE sends DONE on every routed output that has not sent one (R39). -/
def ceEnd (s : State) (g gi tile : Nat) : State :=
  match ce? s g gi tile, graph? s g gi with
  | some c, some gr =>
    if ceFinished c && c.stage.isEmpty && c.frames.all fun f => !f.live then
      (List.range 8).foldl (fun s p =>
        if routedOut gr tile p && !has c.doneOut p then
          let s := modCe s g gi tile fun c => { c with stage := c.stage ++ [{ port := p, iter := c.nextIter, slot := 17, toks := [tok kindDONE 0 0] }] }
          flushStage 1 s g gi tile
        else s) s
    else s
  | _, _ => s

/-- What follows any firing of a CE: frames freed, results sent, DONE. -/
def ceSettle (s : State) (g gi tile : Nat) : State := wake (ceEnd (flushStage 64 (freeFrames s g gi tile) g gi tile) g gi tile) g

/-- Flags become visible in FPCTL; those raised in the running cycle are kept apart, since a clear of the same cycle does not reach them (R57, R146). -/
def setFlags (s : State) (g : Nat) (fl : FlagSet) : State :=
  if fl = 0 then s
  else modGrp s g fun x =>
    { x with fpctl := x.fpctl ||| fl.setWidth 32
             fpRaised := (s.cycle, (if x.fpRaised.1 = s.cycle then x.fpRaised.2 else 0) ||| fl.setWidth 32) }

/-- The enabled flags raise ARITH on the freeze line instead of being set; the others go to FPCTL (R57). -/
def graphFlags (s : State) (g gi tile : Nat) (fl : FlagSet) : State :=
  match graph? s g gi with
  | none => s
  | some gr =>
    let s := setFlags s g (fl &&& ~~~gr.enables)
    match arithCause gr.enables fl with
    | some i => raiseFreeze s g 0x0D i (workName s g gi tile) (workName s g gi tile)
    | none => s

/-- The outcome of one position of an element-wise firing (R43, R172). -/
inductive Pos where
  | compute
  | skip
  | send (t : Token)
  | misaligned
  deriving DecidableEq, Repr

/-- Whether a P token is a value that fails the test of its instruction (R172). -/
def testFails (pr : Pred) (p : Option Token) : Bool :=
  match pr, p with
  | .ifTrue, some t => isValue t && decide (t.payload = 0)
  | .ifFalse, some t => isValue t && decide (t.payload ≠ 0)
  | _, _ => false

/-- Resolve a position from its source tokens, and from its P token when P is used (R43): a position whose test fails sends nothing (R172). -/
def position (srcs : List Token) (pr : Pred) (p : Option Token) : Pos :=
  let all := srcs ++ p.toList
  if testFails pr p then .skip
  else if all.all isValue then .compute
  else if all.all fun t => isValue t || isEmpty t then .send (tok kindEMPTY 0 0)
  else match all with
    | t :: r => if isControl t && r.all (sameControl t) then .send t else .misaligned
    | [] => .compute

/-- The tokens of a position that no token inherits: all but the first source, or all of them where the position sends nothing (R27, R441). -/
def lostAt (srcs : List Token) (pr : Pred) (p : Option Token) : List Token :=
  if position srcs pr p = .skip then srcs ++ p.toList else (srcs ++ p.toList).drop 1

/-- The used entries of a slot in a frame, each as the value that it holds. -/
def ceEntries (gr : Graph) (c : Ce) (tile fr slot : Nat) (uses : List Opnd) : List (List Token) :=
  uses.map fun o => valueOf 16 (entryTokens gr c tile fr slot o)

/-- How many tokens a full entry of an across-lane instruction holds (R144, R162-R168); none for the element-wise ones. -/
def fullCount (w : Word) : Option Nat :=
  let op := opOfWord w
  let n := Ty.count (tyOfCode (fieldOf w 48 4))
  if has [0x080, 0x081, 0x082, 0x083, 0x086, 0x087, 0x08D] op then some 16
  else if op = 0x08E then some ((n + 63) / 64)
  else if op = 0x091 then some (if fieldOf w 16 4 = 1 then 1 + 32 * Ty.width (tyOfCode (fieldOf w 48 4)) / 64 else 16)
  else none

/-- Whether the tokens of an entry let an instruction fire: one, or, across lanes, the full count or fewer that end in a control token (R38). The block of CVTMX.dq opens with a SCALE. -/
def entryReady (w : Word) (o : Opnd) (l : List Token) : Bool :=
  match fullCount w, l with
  | _, [] => false
  | none, _ => true
  | some n, h :: r =>
    if opOfWord w = 0x091 && decide (fieldOf w 16 4 = 1) && o == .a then decide (kindOf h ≠ kindSCALE) || decide (n ≤ l.length) || (r.take (n - 1)).any isControl
    else decide ((valueOf n l).length = n) || ((valueOf n l).getLast?.map isControl).getD false

/-- Whether a slot is ready in a frame (R53). -/
def slotReadyIn (gr : Graph) (c : Ce) (tile fr j : Nat) (w : Word) : Bool :=
  match frame? c fr with
  | none => false
  | some f => !has f.fired j && earlierFired c fr j && (wordUses w).all fun o => entryReady w o (entryTokens gr c tile fr j o)

/-- Whether a lower slot of the CE is ready in some frame (R53). -/
def ceLowerReady (gr : Graph) (c : Ce) (tile slot : Nat) : Bool :=
  (List.range slot).any fun j => c.sloten.getLsbD j
    && (match c.words[j]? with
        | none => false
        | some w => (isCeOp (opOfWord w) || decide (opOfWord w = 0x0CC)) && (List.range 8).any fun fr => slotReadyIn gr c tile fr j w)

/-- What a site in a resident graph offers to a slot: the CE, its frame live and the slot not yet fired. -/
def ceFiring? (s : State) (g gi tile fr slot : Nat) : Option (Graph × Ce) :=
  match graph? s g gi, ce? s g gi tile with
  | some gr, some c =>
    match frame? c fr with
    | some f =>
      if elemLive s g gi tile && !(((grp? s g).map fun x => savedCut x c.marks).getD true) && c.sloten.getLsbD slot && !has f.fired slot && earlierFired c fr slot then some (gr, c)
      else none
    | none => none
  | _, _ => none

/-- Room for a result at every output port that a slot targets: a CE whose channel has no space stalls (R31). A port holds at most eight results that wait for their turn (R146). (Model: DESIGN CHOICE, unsafe: notes/assumptions 135) -/
def outRoom (gr : Graph) (c : Ce) (tile : Nat) (t0 t1 : Option Target) : Bool :=
  (t0.toList ++ t1.toList).all fun t => decide (t.slot.toNat < 64)
    || (canSend gr tile (t.slot.toNat - 64) && decide ((c.stage.filter fun o => decide (o.port = t.slot.toNat - 64)).length < 8))

/-- A result that is EMPTY because a source is. -/
def emptyFor (_ : Token) : Token := tok kindEMPTY 0 0

/-- A firing of a resident slot on n positions (R38, R43): `f` computes a position's payload, `mk` makes its token from the first source's token, and `em` the token of a position that resolves to EMPTY. Every token that
is sent continues the log of the first source's (R27). -/
def fireCe (s : State) (g gi tile fr slot : Nat) (pr : Pred) (ua ub uc : Bool) (t0 t1 : Option Target) (f : LaneFn) (mk : Token → Word → Token) (em : Token → Token) : State :=
  match ceFiring? s g gi tile fr slot with
  | none => s
  | some (gr, c) =>
    let uses := (if ua then [Opnd.a] else []) ++ (if ub then [Opnd.b] else []) ++ (if uc then [Opnd.c] else [])
    let usesP := uses ++ (if pr = .always then [] else [Opnd.p])
    if usesP.any fun o => entryClosed gr c tile fr slot o then ceSettle (ceMark s g gi tile fr slot false) g gi tile
    else
      let ents := ceEntries gr c tile fr slot usesP
      let n := ((minOf? (ents.map List.length)).getD 0)
      if n = 0 || ceLowerReady gr c tile slot || !outRoom gr c tile t0 t1 then s
      else if ents.any fun l => (l.take n).any badToken then elemFreeze s g gi tile TOKEN_BAD
      else
        let at_ (i j : Nat) : Option Token := (ents[i]?).bind fun l => l[j]?
        let srcs (j : Nat) : List Token := (List.range uses.length).filterMap fun i => at_ i j
        let pAt (j : Nat) : Option Token := if pr = .always then none else at_ uses.length j
        let opnd (o : Opnd) (j : Nat) : Word :=
          match uses.findIdx? (· == o) with
          | some i => ((at_ i j).map (·.payload)).getD 0
          | none => 0
        match grp? s g with
        | none => s
        | some x =>
          let l0 := lfsrOf x tile
          let step (acc : Option (List Token × FlagSet × BitVec 32)) (j : Nat) : Option (List Token × FlagSet × BitVec 32) :=
            acc.bind fun (out, fl, l) =>
              let src := ((srcs j ++ (pAt j).toList).head?).getD (tok 0 0 0)
              match position (srcs j) pr (pAt j) with
              | .misaligned => none
              | .skip => some (out, fl, l)
              | .send t => some (out ++ [heir src (if isEmpty t then em src else t)], fl, l)
              | .compute =>
                let (v, fl', l') := f (opnd .a j) (opnd .b j) (opnd .c j) l
                some (out ++ [heir src (mk src v)], fl ||| fl', l')
          match (List.range n).foldl step (some ([], 0, l0)) with
          | none => elemFreeze s g gi tile TOKEN_ALIGN
          | some (out, fl, l) =>
            let s := usesP.foldl (fun s o => consumeEntry s g gi tile fr slot o n) s
            let s := sinkAll s g gi tile ((List.range n).flatMap fun j => lostAt (srcs j) pr (pAt j))
            let s := if l = l0 then s else setLfsr s g tile l
            let s := ceDeliver s g gi tile fr slot t0 t1 out
            let s := ceMark s g gi tile fr slot (!out.isEmpty)
            ceSettle (graphFlags s g gi tile fl) g gi tile

/-! ## Element-wise and across-lane instructions at either site -/

/-- An element-wise instruction (R143): at a block's slot on whole values, at a resident slot position by position. -/
def elementWise (s : State) (pr : Pred) (ua ub uc : Bool) (t0 t1 : Option Target) (f : LaneFn) : State :=
  match s.site with
  | .block g th b slot => fireBlock s g th b slot pr ua ub uc t0 t1 (laneWise f)
  | .ce g gi tile fr slot => fireCe s g gi tile fr slot pr ua ub uc t0 t1 f (fun src v => tok (if ua then kindOf src else kindVAL) 0 v.toNat) emptyFor
  | _ => s

/-- The inputs of an across-lane operation (R144): values whose absent and EMPTY lanes read as zero, and which lanes are present. -/
structure LaneIn where
  a : Value
  b : Value
  presA : List Bool
  presB : List Bool
  deriving DecidableEq, Repr

/-- All sixteen lanes present, as in block mode. -/
def allLanes : List Bool := List.replicate 16 true

/-- The value of up to 16 tokens; EMPTY and absent lanes read as zero (R144). -/
def valueOfTokens (l : List Token) : Value := packList 1024 64 (l.map fun t => if isEmpty t then 0 else t.payload.toNat)

/-- The present lanes: value kinds among the sixteen (R144). -/
def presentOf (l : List Token) : List Bool := (List.range 16).map fun i => ((l[i]?).map isValue).getD false

/-- A resident firing of an across-lane instruction (R144, R172). `full` is the number of tokens of a full entry, and `emit` answers the tokens that the result
sends, from the number of tokens in A and in B. -/
def fireAcross (s : State) (g gi tile fr slot : Nat) (pr : Pred) (ua ub : Bool) (t0 t1 : Option Target) (full : Nat)
    (f : LaneIn → BitVec 32 → Value × FlagSet × BitVec 32) (emit : LaneIn → Nat → Nat → Value → List Token) : State :=
  match ceFiring? s g gi tile fr slot with
  | none => s
  | some (gr, c) =>
    let uses := (if ua then [Opnd.a] else []) ++ (if ub then [Opnd.b] else [])
    let usesP := uses ++ (if pr = .always then [] else [Opnd.p])
    if usesP.any fun o => entryClosed gr c tile fr slot o then ceSettle (ceMark s g gi tile fr slot false) g gi tile
    else
      let ents := usesP.map fun o => valueOf full (entryTokens gr c tile fr slot o)
      let ready (l : List Token) : Bool := decide (l.length = full) || (l.getLast?.map isControl).getD false
      if !(ents.all ready) || ceLowerReady gr c tile slot || !outRoom gr c tile t0 t1 then s
      else if ents.any fun l => l.any badToken then elemFreeze s g gi tile TOKEN_BAD
      else
        let ctl (l : List Token) : Option Token := l.getLast?.bind fun t => if isControl t then some t else none
        let ends := ents.map ctl
        let agree := match ends with
          | [] => true
          | e :: r => r.all fun e' => match e, e' with
            | none, none => true
            | some x, some y => sameControl x y
            | _, _ => false
        let ctlTok := (ends.head?.bind id).toList
        let lostEnds := (ends.filterMap id).drop 1
        if !agree then elemFreeze s g gi tile TOKEN_ALIGN
        else
          let body (l : List Token) : List Token := l.filter fun t => !isControl t
          let eat (s : State) : State :=
            (usesP.zip ents).foldl (fun s (o, l) => consumeEntry s g gi tile fr slot o l.length) s
          let a := body ((ents[0]?).getD [])
          let b := if ub then body ((ents[if ua then 1 else 0]?).getD []) else []
          let p := body ((ents[uses.length]?).getD [])
          -- a P entry that opens with its control token is the case in which that token alone is forwarded (R172)
          let nothing := (ents.all fun l => (body l).isEmpty) || (pr != .always && p.isEmpty)
          if nothing || testFails pr p.head? then
            ceSettle (ceMark (ceDeliver (sinkAll (eat s) g gi tile (ents.flatMap body ++ lostEnds)) g gi tile fr slot t0 t1 ctlTok) g gi tile fr slot (!ctlTok.isEmpty)) g gi tile
          else
            match grp? s g with
            | none => s
            | some x =>
              let li : LaneIn := { a := valueOfTokens a, b := valueOfTokens b, presA := presentOf a, presB := presentOf b }
              let (v, fl, l) := f li (lfsrOf x tile)
              let src := (a ++ b ++ p).head?.getD (tok 0 0 0)
              let out := (emit li a.length b.length v).map (heir src) ++ ctlTok
              let s := setLfsr (sinkAll (eat s) g gi tile ((a ++ b ++ p).drop (min 1 (emit li a.length b.length v).length) ++ lostEnds)) g tile l
              let s := ceMark (ceDeliver s g gi tile fr slot t0 t1 out) g gi tile fr slot (!out.isEmpty)
              ceSettle (graphFlags s g gi tile fl) g gi tile

/-- The first k lanes of a value, as VAL tokens. -/
def valTokens (v : Value) (k : Nat) : List Token := (List.range k).map fun i => tok kindVAL 0 (lane v i).toNat

/-- An across-lane instruction (R144) at either site. -/
def acrossLanes (s : State) (pr : Pred) (ua ub : Bool) (t0 t1 : Option Target) (full : Nat) (immB : Option Value)
    (f : LaneIn → BitVec 32 → Value × FlagSet × BitVec 32) (emit : LaneIn → Nat → Nat → Value → List Token) : State :=
  let withImm (li : LaneIn) : LaneIn := match immB with | some v => { li with b := v, presB := allLanes } | none => li
  match s.site with
  | .block g th b slot =>
    fireBlock s g th b slot pr ua ub false t0 t1 fun a b' _ l => f (withImm { a := a, b := b', presA := allLanes, presB := allLanes }) l
  | .ce g gi tile fr slot =>
    fireAcross s g gi tile fr slot pr ua ub t0 t1 full (fun li l => f (withImm li) l) (fun li na nb v => emit (withImm li) na nb v)
  | _ => s

/-- An instruction that uses no entry besides P and sends one list of tokens per iteration in a graph (R145, R182, R194); with a P entry, a firing takes one P token. (Model: DEDUCED, unsafe: notes/assumptions 136) -/
def perIteration (s : State) (g gi tile fr slot : Nat) (pr : Pred) (t0 t1 : Option Target) (out : List Token) : State :=
  match ceFiring? s g gi tile fr slot with
  | none => s
  | some (gr, c) =>
    if pr = .always then
      if ceLowerReady gr c tile slot || !outRoom gr c tile t0 t1 then s
      else ceSettle (ceMark (ceDeliver s g gi tile fr slot t0 t1 out) g gi tile fr slot true) g gi tile
    else if entryClosed gr c tile fr slot .p then ceSettle (ceMark s g gi tile fr slot false) g gi tile
    else
      match entryTokens gr c tile fr slot .p with
      | [] => s
      | p :: _ =>
        if ceLowerReady gr c tile slot || !outRoom gr c tile t0 t1 then s
        else if badToken p then elemFreeze s g gi tile TOKEN_BAD
        else
          let res := (if testFails pr (some p) then [] else if isValue p then out else [p]).map (heir p)
          let s := consumeEntry s g gi tile fr slot .p 1
          let s := if res.isEmpty then sinkAll s g gi tile [p] else s
          ceSettle (ceMark (ceDeliver s g gi tile fr slot t0 t1 res) g gi tile fr slot (!res.isEmpty)) g gi tile

end Sys2Proof.Machine
end

