-- ==== Sys2Proof/Machine/Fetch.lean ====
section
/-! DEFINITION. How the next word or frame is fetched from the site where it acts, how time passes between steps, and which rows are events. -/

namespace Sys2Proof.Machine

/-- Whether a row is an event of the device or of a party outside it: it has no word and no frame. -/
def Instr.isEvent (i : Instr) : Bool := (Instr.parts i).isNone && (Instr.frameOp i).isNone

/-- An engine queue of a thread, oldest first (R195). -/
def engQueue (t : Thread) (q : Qu) : List EngEntry :=
  match q with
  | .ct => t.ctq | .tm => t.tmq | .mx => t.mxq | .cl => t.clq

/-- The frame that an element of a tile runs: its SU's, its MC's configuration of the running pass, or of the last one, an AG's, its MT function's. -/
def elemFrame (t : Tile) (lane : Nat) : Option (FrameKind × Frame) :=
  match t.su, t.mc, t.mt with
  | some u, _, _ => some (.su, u.frame)
  | _, some m, _ => (((m.pass.map (·.1)).or m.lastCfg).bind fun p => (m.frames[p]?).bind id).map fun f => (.mc, f)
  | _, _, some m =>
    if lane = 2 then m.fn.map fun f => (.mtf, f.frame)
    else if lane = 1 then m.ag1.map fun a => (.ag, a.frame)
    else m.ag0.map fun a => (.ag, a.frame)
  | _, _, _ => none

/-- The instruction of a queue that acts next: the oldest that has not done its work. -/
def engCurrent (t : Thread) (q : Qu) : Option EngEntry := (engQueue t q).find? fun e => !e.done

/-- The instruction that a site holds. Words and frames have been checked when their block was mapped or their image loaded (R92, R93). -/
def siteInstr (s : State) : Option Instr :=
  match s.site with
  | .none => none
  | .block g th b slot => (block? s g th b).bind fun k => (k.words[slot]?).bind readWord
  | .ce g gi tile _ slot => (ce? s g gi tile).bind fun c => (c.words[slot]?).bind readWord
  | .engine g th q => (thread? s g th).bind fun t => (engCurrent t q).bind fun e => readWord e.word
  | .elem g gi tile lane => ((tile? s g gi tile).bind fun t => elemFrame t lane).bind fun p => frameInstr p.1 p.2

/-- Time passes between two steps: DTIME counts nanoseconds (R15), cycles are counted, and queued records reach their rings (R428). (Model: DESIGN CHOICE, unsafe: notes/assumptions 8) -/
def passTime (s : State) (ns cycles : Nat) : State :=
  let s := { s with dtime := (s.dtime + ns) % 2 ^ 64, cycle := s.cycle + cycles }
  if cycles = 0 then s else { s with clusters := Tab.mapVals s.clusters fun _ c => if c.frozen.isSome then c else ringFlush s.dtime c }

/-- Whether the write of an owner's atomic may still be due when the agenda's entry takes effect: in the cycle of its read, while instructions fire and blocks commit (R130). -/
def ownerWaits (a : Sched) : Bool :=
  decide (a.cycles = 0) && (match a.act with | .fire | .event (.blockCommit _ _) => true | _ => false)

/-- The agenda's head takes effect: its site, part and time. -/
def begin_ (s : State) (a : Sched) (rest : List Sched) : State :=
  let s := if ownerWaits a then s else ownerSettle s
  passTime { s with agenda := rest, tableError := s.tableError - 1, part := a.part, site := match a.act with | .fire => a.site | _ => .none } a.ns a.cycles

/-! ## Soft errors (R34, R110, R254) -/

/-- The record that stands in a ring's word, by its number since bring-up. -/
def ringAt (k : Cluster) (index : Nat) : Option Nat :=
  ((List.range k.ring.length).find? fun i => decide ((k.ringBase + i) % Config.ringRecords = index)).map (k.ringBase + ·)

/-- A soft error: it stays in a word of storage until an access finds it, and in a ring's word until it is read, which corrects one bit (R429); in a beat of a channel or an entry of an accumulator it is found and corrected at once, raises the
freeze line of the group (CHAN_ECC), or is fatal. (Model: DESIGN CHOICE, unsafe: notes/assumptions 45) -/
def upset (s : State) (u : Upset) : State :=
  match u with
  -- table reads of the next step meet it
  | .table => { s with tableError := 2 }
  | .word w double =>
    if double then { s with poison := if has s.poison w then s.poison else w :: s.poison, soft := s.soft.filter (· != w) }
    else if has s.poison w || has s.soft w then s
    else { s with soft := w :: s.soft }
  | .channel g gi ch node double =>
    match grp? s g, (graph? s g gi).bind fun gr => (gr.chans[ch]?).bind fun c => (c.nodes[node]?).map fun n => (c, n) with
    | some x, some (c, n) =>
      if !elemLive s g gi c.tile || n.beats = [] then s
      else
        let t := match n.sink with | some p => p.1 | none => ((c.nodes.findSome? fun m => m.sink).map (·.1)).getD c.tile
        if double then elemFreeze s g gi t CHAN_ECC
        else record s (clusterOfTile x t) 2 3 (tileInCluster t) x.ctx (6 * 2 ^ 40)
    | _, _ => s
  | .ring cl index double =>
    match ringAt (cluster s cl) index with
    | some n => if double && s.power then modCluster s cl fun k => { k with hurt := n :: k.hurt } else s
    | none => s
  | .accumulator g tile entry double =>
    match grp? s g with
    | none => s
    | some x =>
      if !placed x then s
      else if double then raiseFatal s 0x40 (some (clusterOfTile x tile)) (workOfTile s x tile)
      else record s (clusterOfTile x tile) 2 3 (tileInCluster tile) x.ctx (entry % 2 ^ 40 + 5 * 2 ^ 40)

/-! ## Placing one instruction -/

/-- A thread at the start of its group (R178, R279, R307). -/
def freshThread (pc : Nat) : Thread :=
  { run := .running, pc := pc, from_ := 0, window := List.replicate 32 0, callers := [], trapMode := false, trapWindow := List.replicate 32 0
    winbase := 0, winsize := 0, wintop := 0, trapvec := 0, fltcode := 0, fltaddr := 0, blocks := [], ctq := [], tmq := [], mxq := []
    clq := [], fifos := [], barWait := [], arrivals := [], history := [], returns := [], lastProgress := 0, stops := [] }

/-- A block that holds words, with no entry filled. -/
def freshBlock (addr : Nat) (words : List Word) : Block :=
  { addr := addr, icnt := words.length - 1, rdmask := 0, wrmask := 0, stmask := 0, calls := false, rets := false, self := false, words := words
    quad := 0, half := 0, entries := [], fired := [], issued := [], stDone := [], stDischarged := [], wrDone := [], wrDischarged := []
    wrVals := [], branch := none, stores := [], engines := [], setsrs := [], actions := [], tret := none, ctPop := [], ctPopped := []
    waits := [], perf := false, reads := [], spoobs := [], flags := 0, enables := 0, fault := none, next := addr + 32 }

/-- A running group of one cluster, placed at physical cluster 0, with an image. -/
def freshGroup (im : Image) : Group :=
  { ctx := 0, queue := 0, seq := 0, kid := 0, entry := 0, ncl := 1, dl := 0, budget := 0, srseed := 0, dpbase := 0, dpsize := 0, args := [], windows := []
    gang := none, state := .running, effClass := 0, key := 0, startTime := 0, startOrder := 0, waitStart := 0, place := [(0, 0, 0, 0)]
    config := 0, loaded := true, started := true, cutNo := 0, cutWhy := none, saving := false, marksGo := false, markStill := false, image := im, rollback := none, rollbackUsed := false
    ckptUnits := 0, poolUnits := 0, savedSpaces := [], area := none, areaCells := [], seedPlace := [(0, 0, 0, 0)], wakes := [], runnable := false, idleSince := 0, freeze := none, fpctl := 0, fpRaised := (0, 0), streamerr := 0
    mstat := 0, stallcyc := 0x100000, samprate := 0, budgetUsed := 0, placedTime := 0, missed := false, held := none, skids := [], frozenAt := 0, drove := []
    stopHeld := false, ending := none }

end Sys2Proof.Machine
end

