-- ==== Sys2Proof/Machine/Int.lean ====
section
/-! DEFINITION. The integer and address instructions (R148-R154). -/

namespace Sys2Proof.Machine

/-- The immediate of a G-format instruction in every element of a lane (R68). `n` is 20, or 16 for an instruction marked S. -/
def immLane (f : GFields) (n : Nat) : Word := splatLane (Ty.width f.ty) (immElem f.ty n f.imm.toNat)

/-- Element by element work on one lane: operands negated and the immediate in place (R67, R68), elements ascending (R53). -/
def elemLane (f : GFields) (n : Nat) (rounds : Bool) (op : Nat → Nat → Nat → BitVec 32 → Nat × FlagSet) : LaneFn := fun a b c l =>
  let w := Ty.width f.ty
  let a := negLane f.ty f.na a
  let b := negLane f.ty f.nb (if f.i then immLane f n else b)
  let c := negLane f.ty f.nc c
  let (xs, fl, l') := mapElems (rounds && f.rnd == .rsr) (fun j u => op (elemTy f.ty a j) (elemTy f.ty b j) (elemTy f.ty c j) u) (List.range (64 / w)) l
  (packList 64 w xs, fl, l')

/-- A G-format element-wise instruction with an operation on elements. -/
def elemOp (s : State) (f : GFields) (n : Nat) (ub uc rounds : Bool) (op : Nat → Nat → Nat → BitVec 32 → Nat × FlagSet) : State :=
  elementWise s f.pr true (ub && !f.i) uc f.t0 f.t1 (elemLane f n rounds op)

/-- An operation on exact integers, delivered under R142. -/
def intElem (f : GFields) (op : Int → Int → Int → Int) : Nat → Nat → Nat → BitVec 32 → Nat × FlagSet := fun a b c _ =>
  (deliverI f.ty f.sat (op (decodeI f.ty a) (decodeI f.ty b) (decodeI f.ty c)), 0)

/-- An operation on element bits, taken modulo 2^w. -/
def bitElem (f : GFields) (op : Nat → Nat → Nat → Nat → Nat) : Nat → Nat → Nat → BitVec 32 → Nat × FlagSet := fun a b c _ =>
  (op (Ty.width f.ty) a b c % 2 ^ Ty.width f.ty, 0)

/-- DIV of R148 and R149. -/
def divElem (t : Ty) (sat : Bool) (a b : Nat) : Nat :=
  if b % 2 ^ Ty.width t = 0 then 2 ^ Ty.width t - 1 else deliverI t sat ((decodeI t a).tdiv (decodeI t b))

/-- REM of R148 and R149. -/
def remElem (t : Ty) (a b : Nat) : Nat :=
  if b % 2 ^ Ty.width t = 0 then a % 2 ^ Ty.width t else lowNat (Ty.width t) ((decodeI t a).tmod (decodeI t b))

/-- SHL of R150: beyond the width every shift acts as the width does. -/
def shlElem (t : Ty) (sat : Bool) (a b : Nat) : Nat := deliverI t sat (decodeI t a * 2 ^ min b (Ty.width t))

/-- SRA of R150. -/
def sraElem (w a b : Nat) : Nat := lowNat w (sext a w / 2 ^ min b w)

/-- ROL of R150. -/
def rolElem (w a b : Nat) : Nat := (a * 2 ^ (b % w) + a / 2 ^ (w - b % w)) % 2 ^ w

/-- BFX of R151. -/
def bfxElem (t : Ty) (a b : Nat) : Nat :=
  let w := Ty.width t
  let pos := b % 256
  let len := b / 256 % 256
  if len = 0 then 0
  else
    let x := decodeI t a
    let field := (x / 2 ^ pos) % (2 ^ len : Nat)
    if Ty.isSigned t then lowNat w (sext field.toNat len) else lowNat w field

/-- BFI of R151. -/
def bfiElem (w a b c : Nat) : Nat :=
  let pos := b % 256
  let len := b / 256 % 256
  let n := if w ≤ pos then 0 else min len (w - pos)
  let m := (2 ^ n - 1) * 2 ^ pos
  ((a % 2 ^ w) - ((a % 2 ^ w) &&& m)) ||| ((c * 2 ^ pos) &&& m)

/-- The relations of CMP (R152). -/
def ccHolds (cc : Cc) (a b : Int) : Bool :=
  match cc with
  | .eq => decide (a = b) | .ne => decide (a ≠ b) | .lt => decide (a < b) | .le => decide (a ≤ b) | .gt => decide (a > b)
  | .ge => decide (a ≥ b)

/-- All ones of width w, or zero. -/
def onesIf (w : Nat) (b : Bool) : Nat := if b then 2 ^ w - 1 else 0

/-- ADDA of R153. -/
def addaElem (a b : Nat) : Nat := lowNat 57 ((a % 2 ^ 57 : Nat) + sext b 64)

/-- MOVKH of R154. -/
def movkhElem (imm : BitVec 38) (a : Nat) : Nat := (imm.toNat * 2 ^ 26 + a % 2 ^ 26) % 2 ^ 64

def execAdd (f : GFields) (s : State) : Host.Outcome State Fault Refusal :=
  .next (elemOp s f 20 true false false (intElem f fun a b _ => a + b))

def execSub (f : GFields) (s : State) : Host.Outcome State Fault Refusal :=
  .next (elemOp s f 20 true false false (intElem f fun a b _ => a - b))

def execMul (f : GFields) (s : State) : Host.Outcome State Fault Refusal :=
  .next (elemOp s f 20 true false false (intElem f fun a b _ => a * b))

def execMulh (f : GFields) (s : State) : Host.Outcome State Fault Refusal :=
  .next (elemOp s f 20 true false false (intElem { f with sat := false } fun a b _ => a * b / 2 ^ Ty.width f.ty))

def execDiv (f : GFields) (s : State) : Host.Outcome State Fault Refusal :=
  .next (elemOp s f 20 true false false fun a b _ _ => (divElem f.ty f.sat a b, 0))

def execRem (f : GFields) (s : State) : Host.Outcome State Fault Refusal :=
  .next (elemOp s f 20 true false false fun a b _ _ => (remElem f.ty a b, 0))

def execMin (f : GFields) (s : State) : Host.Outcome State Fault Refusal :=
  .next (elemOp s f 20 true false false (intElem f fun a b _ => min a b))

def execMax (f : GFields) (s : State) : Host.Outcome State Fault Refusal :=
  .next (elemOp s f 20 true false false (intElem f fun a b _ => max a b))

def execAbs (f : GFields) (s : State) : Host.Outcome State Fault Refusal :=
  .next (elemOp s f 20 false false false (intElem f fun a _ _ => a.natAbs))

def execMad (f : GFields) (s : State) : Host.Outcome State Fault Refusal :=
  .next (elemOp s f 20 true true false (intElem f fun a b c => a * b + c))

def execAnd (f : GFields) (s : State) : Host.Outcome State Fault Refusal :=
  .next (elemOp s f 20 true false false (bitElem f fun _ a b _ => a &&& b))

def execOr (f : GFields) (s : State) : Host.Outcome State Fault Refusal :=
  .next (elemOp s f 20 true false false (bitElem f fun _ a b _ => a ||| b))

def execXor (f : GFields) (s : State) : Host.Outcome State Fault Refusal :=
  .next (elemOp s f 20 true false false (bitElem f fun _ a b _ => a ^^^ b))

def execNot (f : GFields) (s : State) : Host.Outcome State Fault Refusal :=
  .next (elemOp s f 20 false false false (bitElem f fun w a _ _ => 2 ^ w - 1 - a))

def execAndn (f : GFields) (s : State) : Host.Outcome State Fault Refusal :=
  .next (elemOp s f 20 true false false (bitElem f fun w a b _ => a &&& (2 ^ w - 1 - b)))

def execShl (f : GFields) (s : State) : Host.Outcome State Fault Refusal :=
  .next (elemOp s f 20 true false false fun a b _ _ => (shlElem f.ty f.sat a b, 0))

def execShr (f : GFields) (s : State) : Host.Outcome State Fault Refusal :=
  .next (elemOp s f 20 true false false (bitElem f fun w a b _ => a / 2 ^ min b w))

def execSra (f : GFields) (s : State) : Host.Outcome State Fault Refusal :=
  .next (elemOp s f 20 true false false (bitElem f fun w a b _ => sraElem w a b))

def execRol (f : GFields) (s : State) : Host.Outcome State Fault Refusal :=
  .next (elemOp s f 20 true false false (bitElem f fun w a b _ => rolElem w a b))

def execRor (f : GFields) (s : State) : Host.Outcome State Fault Refusal :=
  .next (elemOp s f 20 true false false (bitElem f fun w a b _ => rolElem w a (w - b % w)))

def execBfx (f : GFields) (s : State) : Host.Outcome State Fault Refusal :=
  .next (elemOp s f 20 true false false fun a b _ _ => (bfxElem f.ty a b, 0))

def execBfi (f : GFields) (s : State) : Host.Outcome State Fault Refusal :=
  .next (elemOp s f 20 true true false (bitElem f fun w a b c => bfiElem w a b c))

def execCmp (f : GFields) (cc : Cc) (s : State) : Host.Outcome State Fault Refusal :=
  .next (elemOp s f 16 true false false fun a b _ _ => (onesIf (Ty.width f.ty) (ccHolds cc (decodeI f.ty a) (decodeI f.ty b)), 0))

def execSel (f : GFields) (s : State) : Host.Outcome State Fault Refusal :=
  .next (elemOp s f 20 true true false fun a b c _ => (if c ≠ 0 then a else b, 0))

def execAdda (f : GFields) (s : State) : Host.Outcome State Fault Refusal :=
  .next (elemOp s f 20 true false false fun a b _ _ => (addaElem a b, 0))

/-- MOVK (R145, R154): no entry besides P; one token per iteration in a graph. -/
def execMovk (f : KFields) (s : State) : Host.Outcome State Fault Refusal :=
  let x := splatLane (Ty.width f.ty) (lowNat (Ty.width f.ty) (sext f.imm.toNat 38))
  .next (match s.site with
    | .block g th b slot => fireBlock s g th b slot f.pr false false false f.t0 none fun _ _ _ l => (splat x, 0, l)
    | .ce g gi tile fr slot => perIteration s g gi tile fr slot f.pr f.t0 none [tok kindVAL 0 x.toNat]
    | _ => s)

def execMovkh (f : KFields) (s : State) : Host.Outcome State Fault Refusal :=
  .next (elementWise s f.pr true false false f.t0 none fun a _ _ l => (BitVec.ofNat 64 (movkhElem f.imm a.toNat), 0, l))

end Sys2Proof.Machine
end

