-- ==== Sys2Proof/Machine/Control.lean ====
section
/-! DEFINITION. Branches, window access, NULL, MOV and KRD (R173, R177-R182). -/

namespace Sys2Proof.Machine

/-- A firing of a block's slot with an effect of its own: nothing happens while an entry is missing or a lower slot of the CE is ready; a nulled slot and an untaken one have fired (R171-R173). -/
def blockFire (s : State) (g th b slot : Nat) (pr : Pred) (ua ub uc : Bool) (null : State → State)
    (go : Block → Value → Value → Value → State) : State :=
  match firing? s g th b slot with
  | none => s
  | some k =>
    match takeEntries k slot pr ua ub uc with
    | .wait => s
    | .nulled => null (markFired s g th b slot)
    | .untaken => markFired s g th b slot
    | .go a b' c => if lowerReady s g th k slot then s else go k a b' c

/-- BLOCK_DUP at a slot (R171, R173, R174). (Model: DEDUCED, safe: notes/assumptions 10) -/
def blockDup (s : State) (g th b slot : Nat) : State :=
  match block? s g th b with
  | none => s
  | some k => blockFault s g th b (some slot) 2 0 false k.addr

/-! ## Branches (R70, R178) -/

/-- BASE + OFF48 × 32 in 57 bits (R70). (Model: DEDUCED, unsafe: notes/assumptions 13) -/
def branchTarget (base : Nat) (off : BitVec 48) : Nat := lowNat 57 ((base : Int) + sext off.toNat 48 * 32)

/-- Operand A as a block address (R178). -/
def indirectBase (a : Value) : Nat := fieldOf a 0 57 / 32 * 32

/-- A B-format instruction fires: it is the block's branch, or a second one (R174). -/
def fireBranch (s : State) (f : BFields) (ua : Bool) (kind : BranchKind) (target : Block → Value → Nat) : State :=
  match s.site with
  | .block g th b slot =>
    blockFire s g th b slot f.pr ua false false id fun k a _ _ =>
      let s := markFired s g th b slot
      if k.branch.isSome then blockDup s g th b slot
      else modBlock s g th b fun k => { k with branch := some (kind, target k a) }
  | _ => s

def execBr (f : BFields) (s : State) : Host.Outcome State Fault Refusal :=
  .next (fireBranch s f false .br fun k _ => branchTarget k.addr f.off)

def execBri (f : BFields) (s : State) : Host.Outcome State Fault Refusal :=
  .next (fireBranch s f true .br fun _ a => branchTarget (indirectBase a) f.off)

def execCall (f : BFields) (s : State) : Host.Outcome State Fault Refusal :=
  .next (fireBranch s f false .call fun k _ => branchTarget k.addr f.off)

def execCalli (f : BFields) (s : State) : Host.Outcome State Fault Refusal :=
  .next (fireBranch s f true .call fun _ a => branchTarget (indirectBase a) f.off)

def execRet (f : BFields) (s : State) : Host.Outcome State Fault Refusal :=
  .next (fireBranch s f true .ret fun _ a => indirectBase a)

def execHalt (f : BFields) (s : State) : Host.Outcome State Fault Refusal :=
  .next (fireBranch s f false .halt fun _ _ => 0)

/-! ## The window (R177, R180) -/

/-- The window as a block will see it, word by word; a word that an older block has still to produce, or a fill has still to bring, is unknown. -/
structure Seen where
  win : List (Option Value)
  callers : List (List (Option Value))
  deriving DecidableEq, Repr

/-- The block address after a block (R180). -/
def nextBlock (addr icnt : Nat) : Nat := addr + 32 * (1 + (icnt + 1 + 3) / 4)

/-- w16-w31 of a callee (R180). -/
def calleeHalf (ret : Nat) : List Value := List.replicate 15 0 ++ [lane0 (BitVec.ofNat 64 ret)]

/-- The effect that an older block in flight will have on the window (R177). -/
def seeOlder (v : Seen) (k : Block) : Seen :=
  let win := v.win.zipIdx.map fun (x, w) =>
    if !k.wrmask.getLsbD w then x
    else if has k.wrDischarged w then x
    else match Tab.get? k.wrVals w with
      | some y => some y
      | none => if has k.wrDone w then x else none
  let turns := k.words.any fun w => opOfWord w = 0x1C3 || opOfWord w = 0x1C2
  if turns then { v with win := win.map fun _ => none }
  else if !k.calls && !k.rets then { v with win := win }
  else match k.branch with
    | none => { win := win.map fun _ => none, callers := v.callers.map fun h => h.map fun _ => none }
    | some (.call, _) =>
      { win := win.drop 16 ++ (calleeHalf (nextBlock k.addr k.icnt)).map some, callers := win.take 16 :: v.callers.take 6 }
    | some (.ret, _) => { win := (v.callers.headD (List.replicate 16 none)) ++ win.take 16, callers := v.callers.drop 1 }
    | some _ => { v with win := win }

/-- The window that the block at position b of a thread sees. (Model: DEDUCED, safe: notes/assumptions 21) -/
def windowSeen (t : Thread) (b : Nat) : List (Option Value) :=
  let start : Seen := { win := (if t.trapMode then t.trapWindow else t.window).map some, callers := t.callers.map fun h => h.map some }
  ((t.blocks.take b).foldl seeOlder start).win

/-- READ (R177): it fires when the word that its block sees is known. -/
def execRead (f : WFields) (s : State) : Host.Outcome State Fault Refusal :=
  .next (match s.site with
    | .block g th b slot =>
      blockFire s g th b slot f.pr false false false (fun s => deliver s g th b slot f.t0 f.t1 .void) fun _ _ _ _ =>
        match (thread? s g th).bind fun t => ((windowSeen t b)[f.word.toNat]?).bind id with
        | none => s
        | some v => deliver (markFired s g th b slot) g th b slot f.t0 f.t1 (.val v)
    | _ => s)

/-- A WRITE of word w produces, with a value, or without one when it is nulled or discharged (R173, R174). -/
def produceWrite (s : State) (g th b slot w : Nat) (v : Option Value) (discharged : Bool) : State :=
  match block? s g th b with
  | none => s
  | some k =>
    if has k.wrDone w || has k.wrDischarged w then blockDup s g th b slot
    else modBlock s g th b fun k =>
      { k with wrDone := if discharged then k.wrDone else w :: k.wrDone
               wrDischarged := if discharged then w :: k.wrDischarged else k.wrDischarged
               wrVals := match v with | some x => Tab.set k.wrVals w x | none => k.wrVals }

/-- WRITE (R177): the word takes the value at commit. -/
def execWrite (f : WFields) (s : State) : Host.Outcome State Fault Refusal :=
  .next (match s.site with
    | .block g th b slot =>
      blockFire s g th b slot f.pr true false false (fun s => produceWrite s g th b slot f.word.toNat none false) fun _ a _ _ =>
        produceWrite (markFired s g th b slot) g th b slot f.word.toNat (some a) false
    | _ => s)

/-! ## NULL (R173) -/

/-- A store of SEQ q produces (R174). -/
def produceStore (s : State) (g th b slot q : Nat) (discharged : Bool) : State :=
  match block? s g th b with
  | none => s
  | some k =>
    if has k.stDone q || has k.stDischarged q then blockDup s g th b slot
    else modBlock s g th b fun k =>
      { k with stDone := if discharged then k.stDone else q :: k.stDone
               stDischarged := if discharged then q :: k.stDischarged else k.stDischarged
               issued := q :: k.issued }

/-- The bits set in a 16-bit mask. -/
def maskBits (m : Nat) : List Nat := (List.range 16).filter fun i => m.testBit i

def execNull (f : GFields) (form : NullForm) (s : State) : Host.Outcome State Fault Refusal :=
  let m := maskBits f.imm.toNat
  .next (match s.site with
    | .block g th b slot =>
      blockFire s g th b slot f.pr false false false (fun s => deliver s g th b slot f.t0 f.t1 .void) fun _ _ _ _ =>
        let s := markFired s g th b slot
        match form with
        | .targets => deliver s g th b slot f.t0 f.t1 .void
        | .st0 => m.foldl (fun s i => produceStore s g th b slot i true) s
        | .st1 => m.foldl (fun s i => produceStore s g th b slot (16 + i) true) s
        | .wr0 => m.foldl (fun s i => produceWrite s g th b slot i none true) s
        | .wr1 => m.foldl (fun s i => produceWrite s g th b slot (16 + i) none true) s
    | _ => s)

/-! ## MOV and KRD -/

/-- A result that is EMPTY: A's own token when it is EMPTY, which passes unchanged (R177). -/
def passEmpty (src : Token) : Token := if isEmpty src then src else emptyFor src

/-- MOV (R177): in a graph each token passes unchanged, kind, tag and SAMPLED bit included. -/
def execMov (f : GFields) (s : State) : Host.Outcome State Fault Refusal :=
  .next (match s.site with
    | .block g th b slot => fireBlock s g th b slot f.pr true false false f.t0 f.t1 fun a _ _ l => (a, 0, l)
    | .ce g gi tile fr slot => fireCe s g gi tile fr slot f.pr true false false f.t0 f.t1 (fun a _ _ l => (a, 0, l)) (fun src _ => src) passEmpty
    | _ => s)

/-- KRD (R182): the value of a loop counter for the iteration of its frame. -/
def execKrd (f : WFields) (s : State) : Host.Outcome State Fault Refusal :=
  .next (match s.site with
    | .ce g gi tile fr slot =>
      match (ce? s g gi tile).bind fun c => (frame? c fr).bind fun h => h.ks[f.ksel.toNat]? with
      | none => s
      | some k => perIteration s g gi tile fr slot f.pr f.t0 f.t1 [tok kindVAL 0 k.toNat]
    | _ => s)

end Sys2Proof.Machine
end

