-- ==== Sys2Proof/Machine/Sha3.lean ====
section
/-! DEFINITION. SHA3-512 (FIPS 202), which digests a configuration image (R80, R301) and a capsule's sections (R434). -/

namespace Sys2Proof.Machine

/-- Rotation offsets of the 25 lanes, lane x + 5y. -/
def keccakRot : List Nat :=
  [0, 1, 62, 28, 27, 36, 44, 6, 55, 20, 3, 10, 43, 25, 39, 41, 45, 15, 21, 8, 18, 2, 61, 56, 14]

/-- Round constants. -/
def keccakRc : List Word :=
  [0x0000000000000001, 0x0000000000008082, 0x800000000000808A, 0x8000000080008000, 0x000000000000808B, 0x0000000080000001,
   0x8000000080008081, 0x8000000000008009, 0x000000000000008A, 0x0000000000000088, 0x0000000080008009, 0x000000008000000A]
  ++ [0x000000008000808B, 0x800000000000008B, 0x8000000000008089, 0x8000000000008003, 0x8000000000008002, 0x8000000000000080,
   0x000000000000800A, 0x800000008000000A, 0x8000000080008081, 0x8000000000008080, 0x0000000080000001, 0x8000000080008008]

def laneAt (a : List Word) (i : Nat) : Word := (a[i]?).getD 0

/-- One round of Keccak-f[1600]. -/
def keccakRound (a : List Word) (rc : Word) : List Word :=
  let c := (List.range 5).map fun x => laneAt a x ^^^ laneAt a (x + 5) ^^^ laneAt a (x + 10) ^^^ laneAt a (x + 15) ^^^ laneAt a (x + 20)
  let d := (List.range 5).map fun x => laneAt c ((x + 4) % 5) ^^^ (laneAt c ((x + 1) % 5)).rotateLeft 1
  let t := (List.range 25).map fun i => (laneAt a i ^^^ laneAt d (i % 5)).rotateLeft ((keccakRot[i]?).getD 0)
  -- lane (x, y) of the permuted state comes from lane (x + 3y, x)
  let b := (List.range 25).map fun i => laneAt t ((i % 5 + 3 * (i / 5)) % 5 + 5 * (i % 5))
  (List.range 25).map fun i =>
    let y := i / 5
    let v := laneAt b i ^^^ (~~~(laneAt b (5 * y + (i % 5 + 1) % 5)) &&& laneAt b (5 * y + (i % 5 + 2) % 5))
    if i = 0 then v ^^^ rc else v

def keccakF (a : List Word) : List Word := keccakRc.foldl keccakRound a

/-- Absorb one block of 72 bytes. -/
def sha3Absorb (a : List Word) (block : List Byte) : List Word :=
  keccakF ((List.range 25).map fun i =>
    laneAt a i ^^^ (if i < 9 then BitVec.ofNat 64 (natOfBytes ((block.drop (8 * i)).take 8)) else 0))

/-- Absorb a padded message, one block per unit of fuel. -/
def sha3Blocks : Nat → List Word → List Byte → List Word
  | 0, a, _ => a
  | n + 1, a, l => sha3Blocks n (sha3Absorb a (l.take 72)) (l.drop 72)

/-- SHA3-512 of a message, as a number of 64 bytes, first byte lowest. -/
def sha3 (m : List Byte) : BitVec 512 :=
  let pad := 72 - m.length % 72
  let tail : List Byte := if pad = 1 then [0x86] else (0x06 :: List.replicate (pad - 2) 0) ++ [0x80]
  let msg := m ++ tail
  let a := sha3Blocks (msg.length / 72) (List.replicate 25 0) msg
  packList 512 64 ((a.take 8).map fun w => w.toNat)

end Sys2Proof.Machine
end

