-- ==== Sys2Proof/Machine/Image.lean ====
section
/-! DEFINITION. Blocks and configuration images: the checks of a whole block (R76-R78, R92), of a whole image (R80-R93, R182, R204, R227,
R239, R240, R298-R301), and how a graph of an image becomes a resident graph (R91, R303). -/

namespace Sys2Proof.Machine

/-! ## Blocks (R76-R78) -/

def hdrIcnt (h : Frame) : Nat := fieldOf h 0 7
def hdrRdmask (h : Frame) : BitVec 32 := h.extractLsb' 96 32
def hdrWrmask (h : Frame) : BitVec 32 := h.extractLsb' 64 32
def hdrStmask (h : Frame) : BitVec 32 := h.extractLsb' 32 32

def isMemOp (op : Nat) : Bool := decide (0x100 ≤ op) && decide (op ≤ 0x110)
/-- Stores, atomics and STF: the instructions that write memory (R78). -/
def writesMem (op : Nat) : Bool := op == 0x101 || op == 0x103 || (decide (0x104 ≤ op) && decide (op ≤ 0x10C)) || op == 0x10F
def isBranchOp (op : Nat) : Bool := decide (0x0C0 ≤ op) && decide (op ≤ 0x0C5)

/-- SEQ, PSEQ and SSEQ of a memory word. -/
def seqOf (w : Word) : Nat := fieldOf w 21 7
def pseqOf (w : Word) : Nat := fieldOf w 14 7
def sseqOf (w : Word) : Nat := fieldOf w 7 7

/-- A 32-bit mask with the named bits. -/
def maskOf (l : List Nat) : BitVec 32 := BitVec.ofNat 32 ((List.range 32).foldl (fun a i => if has l i then a + 2 ^ i else a) 0)

/-- The entries that a word of a block uses: BRK reads A in a graph alone (R366). -/
def blockUses (w : Word) : List Opnd := (wordUses w).filter fun o => !(opOfWord w == 0x1C4 && o == .a)

/-- Whether some entry occurs twice. -/
def dupIn (l : List Nat) : Bool :=
  match l with
  | [] => false
  | x :: r => has r x || dupIn r

/-- The breaches of R92 that only the whole block shows, by its header and its words. -/
def blockOnlyCauses (h : Frame) (words pad : List Word) : List Nat :=
  let n := words.length
  let mems := words.filter fun w => isMemOp (opOfWord w)
  let seqs := mems.map seqOf
  let badLink (w : Word) : Bool :=
    (fun (x : Nat) => decide (x ≠ 127) && (decide (x = seqOf w) || !has seqs x)) (pseqOf w)
      || (fun (x : Nat) => decide (x ≠ 127) && (decide (x = seqOf w) || !has seqs x)) (sseqOf w)
  let targets := words.flatMap wordTargets
  let badTarget (t : Target) : Bool :=
    match words[t.slot.toNat]? with
    | none => true
    | some w => !(blockUses w).any (· == t.opnd)
  let noProducer := words.zipIdx.any fun (w, i) => (blockUses w).any fun o => !targets.any fun t => t.slot.toNat == i && t.opnd == o
  let branches := words.filter fun w => isBranchOp (opOfWord w)
  let windowWords (op : Nat) : List Nat := (words.filter fun w => opOfWord w == op).map fun w => fieldOf w 23 5
  let anyOp (l : List Nat) : Bool := words.any fun w => has l (opOfWord w)
  let self := branches.any fun w => fieldOf w 48 3 == 0 && opOfWord w == 0x0C0 && fieldOf w 0 48 == 0
  let nullBad (w : Word) : Bool :=
    opOfWord w == 0x0CA && (List.range 16).any fun i => w.getLsbD i &&
      (match fieldOf w 16 4 with
       | 1 => !(hdrStmask h).getLsbD i | 2 => !(hdrStmask h).getLsbD (16 + i)
       | 3 => !(hdrWrmask h).getLsbD i | 4 => !(hdrWrmask h).getLsbD (16 + i) | _ => false)
  causeIf (targets.any badTarget) 7 ++ causeIf noProducer 8
    ++ causeIf (decide (32 < mems.length) || dupIn seqs || mems.any badLink) 9
    ++ causeIf (hdrStmask h != maskOf ((mems.filter fun w => writesMem (opOfWord w)).map seqOf) || hdrWrmask h != maskOf (windowWords 0x0C9)
        || hdrRdmask h != maskOf (windowWords 0x0C8) || h.getLsbD 7 != anyOp [0x0C2, 0x0C3] || h.getLsbD 8 != anyOp [0x0C4]
        || h.getLsbD 9 != self || words.any nullBad) 10
    ++ causeIf (branches.isEmpty || dupIn (branches.map fun w => fieldOf w 48 3) || decide (1 < (branches.filter fun w => w.getLsbD 51).length)) 11
    ++ causeIf (fieldOf h 240 16 != 0xB10C || fieldOf h 128 112 != 0 || fieldOf h 10 22 != 0 || pad.any (· != 0) || n == 0) 12

/-- Every cause of R92 of a block. -/
def blockCauses (h : Frame) (words pad : List Word) : List Nat := words.flatMap (wordCauses .block) ++ blockOnlyCauses h words pad

/-- A block as its image holds it: header, words and the padding slots of its last frame. -/
structure RawBlock where
  header : Frame
  words : List Word
  pad : List Word
  size : Nat
  deriving DecidableEq, Repr

/-- Read a block from storage (R76). -/
def readBlock (s : State) (key : Nat) : RawBlock :=
  let h : Frame := BitVec.ofNat 256 (rdNum s key 32)
  let n := hdrIcnt h + 1
  let frames := (n + 3) / 4
  let slots := (List.range (4 * frames)).map fun i => rdWord s (key + 32 + 8 * i)
  { header := h, words := slots.take n, pad := slots.drop n, size := 32 * (1 + frames) }

/-! ## Images (R80-R82, R298, R299) -/

/-- A directory entry (R81). -/
structure Dir where
  idx : Nat
  raw : Word
  deriving DecidableEq, Repr

def dirKind (d : Dir) : Nat := fieldOf d.raw 60 4
def dirTile (d : Dir) : Nat := fieldOf d.raw 42 18
def dirStage (d : Dir) : Nat := fieldOf d.raw 36 6
def dirFidx (d : Dir) : Nat := fieldOf d.raw 32 4
def dirOff (d : Dir) : Nat := fieldOf d.raw 0 32 * 32
def dirLen (d : Dir) : Nat := fieldOf d.raw 32 28 * 32
/-- Whether an entry holds a tile's frame. -/
def dirIsFrame (d : Dir) : Bool := decide (1 ≤ dirKind d) && decide (dirKind d ≤ 6)

def imgSize (s : State) (k : Nat) : Nat := rdNum s (k + 8) 8
def imgDirCount (s : State) (k : Nat) : Nat := rdNum s (k + 0x10) 4
def imgDirOff (s : State) (k : Nat) : Nat := rdNum s (k + 0x18) 8
def imgDir (s : State) (k i : Nat) : Dir := { idx := i, raw := rdWord s (k + imgDirOff s k + 8 * i) }
/-- How many directory entries lie in a copy of `len` bytes. -/
def dirsHeld (s : State) (k len : Nat) : Nat := min (imgDirCount s k) ((len - imgDirOff s k) / 8)
def imgDirs (s : State) (k : Nat) : List Dir := (List.range (imgDirCount s k)).map (imgDir s k)
def imgFrame (s : State) (k : Nat) (d : Dir) : Frame := BitVec.ofNat 256 (rdNum s (k + dirOff d) 32)

/-- Graph headers (R82). -/
def gNframe (h : Frame) : Nat := fieldOf h 48 16
def gDie (h : Frame) : Nat := fieldOf h 0 3
def gOrgRow (h : Frame) : Nat := fieldOf h 3 7
def gOrgCol (h : Frame) : Nat := fieldOf h 10 7
def gNrow (h : Frame) : Nat := fieldOf h 17 7
def gNcol (h : Frame) : Nat := fieldOf h 24 7

/-- The frames of the graph whose header is directory entry i. -/
def graphFrames (s : State) (k i : Nat) : List Dir :=
  let h := imgFrame s k (imgDir s k i)
  ((List.range (gNframe h)).map fun j => imgDir s k (i + 1 + j)).filter dirIsFrame

/-- An entry of a kernel (R298): the directory index of its first block, if any, and of its graphs. -/
structure KEntry where
  block : Option Nat
  graphs : List Nat
  deriving DecidableEq, Repr

/-- Whether directory entry 0 is a kernel table (R298). -/
def hasTable (s : State) (k : Nat) : Bool :=
  let d := imgDir s k 0
  dirKind d == 8 && rdNum s (k + dirOff d) 4 == 0x4E52454B

def tableNentry (s : State) (k : Nat) : Nat := rdNum s (k + dirOff (imgDir s k 0) + 4) 4
def tableNpatch (s : State) (k : Nat) : Nat := rdNum s (k + dirOff (imgDir s k 0) + 8) 4

/-- Word w of entry record e of the kernel table. -/
def tableWord (s : State) (k e w : Nat) : Nat := rdNum s (k + dirOff (imgDir s k 0) + 32 + 32 * e + 4 * w) 4

/-- The entries of a kernel: its table's, or the default table's (R299). -/
def kernelEntries (s : State) (k : Nat) : List KEntry :=
  if hasTable s k then
    (List.range (tableNentry s k)).map fun e =>
      let b := tableWord s k e 0
      { block := if b = 0xFFFFFFFF then none else some b
        graphs := (List.range (tableWord s k e 1 % 8)).map fun j => tableWord s k e (2 + j) }
  else
    let ds := imgDirs s k
    let blocks := (ds.filter fun d => dirKind d == 0).map (·.idx)
    { block := blocks.head?, graphs := (ds.filter fun d => dirKind d == 7).map (·.idx) }
      :: blocks.map fun b => { block := some b, graphs := [] }

/-- Patch records as directory index and argument (R298). -/
def kernelPatches (s : State) (k : Nat) : List (Nat × Nat) :=
  if hasTable s k then
    (List.range (tableNpatch s k)).map fun j =>
      let w := rdWord s (k + dirOff (imgDir s k 0) + 32 + 32 * tableNentry s k + 8 * j)
      (fieldOf w 0 32, fieldOf w 32 4)
  else []

/-- Breaches of R298, and of R299 by an image that holds `heads` graphs: cause 0x19. -/
def tableBad (s : State) (k heads : Nat) : Bool :=
  if hasTable s k then
    let d := imgDir s k 0
    let ne := tableNentry s k
    let np := tableNpatch s k
    let n := imgDirCount s k
    if ne = 0 || decide (1024 < ne) || decide (4096 < np) || rdNum s (k + dirOff d + 12) 20 != 0 || decide (dirLen d < 32 + 32 * ne + 8 * np) then true
    else
      ((List.range ne).any fun e =>
        let b := tableWord s k e 0
        let w1 := tableWord s k e 1
        let ng := w1 % 8
        decide (w1 / 8 ≠ 0) || decide (6 < ng) || (decide (b = 0xFFFFFFFF) && decide (ng = 0))
          || (decide (b ≠ 0xFFFFFFFF) && !(decide (b < n) && dirKind (imgDir s k b) == 0))
          || (List.range 6).any fun j =>
              let x := tableWord s k e (2 + j)
              if j < ng then !(decide (x < n) && dirKind (imgDir s k x) == 7) else decide (x ≠ 0xFFFFFFFF))
      || (List.range np).any fun j =>
        let w := rdWord s (k + dirOff d + 32 + 32 * ne + 8 * j)
        let x := fieldOf w 0 32
        decide (fieldOf w 36 28 ≠ 0) || decide (9 < fieldOf w 32 4)
          || !(decide (x < n) && dirKind (imgDir s k x) == 5 && (dirFidx (imgDir s k x) == 1 || dirFidx (imgDir s k x) == 2))
  else decide (6 < heads)

/-! ## Routes (R29, R33, R91) -/

/-- A used switch entry: tile, entry 0-31 towards a track or 32 + local sink, source. -/
structure SwEnt where
  tile : Nat
  out : Nat
  src : Nat
  deriving DecidableEq, Repr

/-- The tile beyond direction d (0 N, 1 E, 2 S, 3 W) on the same die (R20, R91). -/
def neighbour (t d : Nat) : Option Nat :=
  let row := (t / 4096) % 8 * 16 + (t / 16) % 16
  let col := (t / 512) % 8 * 16 + t % 16
  let mk (r c : Nat) : Option Nat := some (t / 32768 * 32768 + r / 16 * 4096 + c / 16 * 512 + r % 16 * 16 + c % 16)
  match d with
  | 0 => if row = 0 then none else mk (row - 1) col
  | 1 => if col = 95 then none else mk row (col + 1)
  | 2 => if row = 95 then none else mk (row + 1) col
  | _ => if col = 0 then none else mk row (col - 1)

/-- The entries of SW frame 0 or 1 of a tile. -/
def swEntries (tile fidx : Nat) (f : Frame) : List SwEnt :=
  ((List.range (if fidx = 0 then 32 else 8)).filter fun i => f.getLsbD (8 * i + 7)).map fun i =>
    { tile := tile, out := i + (if fidx = 0 then 0 else 32), src := fieldOf f (8 * i) 6 }

/-- The used switch entries of a graph. -/
def graphSw (s : State) (k : Nat) (fs : List Dir) : List SwEnt :=
  (fs.filter fun d => dirKind d == 6).flatMap fun d => swEntries (dirTile d) (dirFidx d) (imgFrame s k d)

/-- The entries of the neighbouring switch that carry on what an entry drives. -/
def swNext (sw : List SwEnt) (e : SwEnt) : List SwEnt :=
  if 32 ≤ e.out then []
  else match neighbour e.tile (e.out / 8) with
    | none => []
    | some n => sw.filter fun x => decide (x.tile = n) && decide (x.src = 8 * ((e.out / 8 + 2) % 4) + e.out % 8)

/-- Everything that a list of entries leads to, in order. -/
def swReach (sw : List SwEnt) : Nat → List SwEnt → List SwEnt
  | 0, _ => []
  | _, [] => []
  | fuel + 1, e :: r => e :: swReach sw fuel (r ++ swNext sw e)

/-- The entries of the route from a local source. -/
def routeOf (sw : List SwEnt) (tile src : Nat) : List SwEnt :=
  swReach sw (sw.length + 1) (sw.filter fun e => decide (e.tile = tile) && decide (e.src = 32 + src))

/-- Local sources and sinks of a tile kind (R91), by tile row: MT 0-3, SU 4-7, CE 8-11, MC 12-15. -/
def localSources (row : Nat) : Nat := if row < 4 then 4 else if row < 8 then 5 else if row < 12 then 8 else 2
def localSinks (row : Nat) : Nat := if row < 12 then 4 else 2

/-- The local sources of a graph that carry routes, as tile and source. -/
def graphSources (sw : List SwEnt) : List (Nat × Nat) := ((sw.filter fun e => 32 ≤ e.src).map fun e => (e.tile, e.src - 32)).eraseDups

/-- The sinks of a route. -/
def routeSinks (r : List SwEnt) : List (Nat × Nat) := (r.filter fun e => 32 ≤ e.out).map fun e => (e.tile, e.out - 32)

def swRoutedIn (sw : List SwEnt) (tile sink : Nat) : Bool := sw.any fun e => decide (e.tile = tile) && decide (e.out = 32 + sink)
def swRoutedOut (sw : List SwEnt) (tile src : Nat) : Bool := sw.any fun e => decide (e.tile = tile) && decide (e.src = 32 + src)

/-- The entries at fault for R21, R29, R33 and R91 in a graph's routes, cause 0x15: a number that R91 does not list, a track that goes nowhere, an entry
that is not fed, and the first entries of a route without a consumer port or with more than four. -/
def routesBad (sw : List SwEnt) : List SwEnt :=
  let routes := (graphSources sw).map fun p => routeOf sw p.1 p.2
  let reached := routes.flatten
  let long := (routes.filter fun r => decide (4 < (routeSinks r).length) || (routeSinks r).isEmpty).flatten
  sw.filter fun e => (decide (32 ≤ e.src) && decide (localSources (tileRow e.tile) ≤ e.src - 32))
      || (decide (32 ≤ e.out) && decide (localSinks (tileRow e.tile) ≤ e.out - 32))
      || (decide (e.out < 32) && (swNext sw e).isEmpty) || !reached.any (· == e) || (decide (32 ≤ e.src) && long.any (· == e))

/-! ## The channels of a graph -/

def nodeOfEnt (sw r : List SwEnt) (e : SwEnt) : ChNode :=
  { beats := [], next := (swNext sw e).filterMap fun x => r.findIdx? (· == x)
    sink := if 32 ≤ e.out then some (e.tile, e.out - 32) else none, entered := 0, kept := 0, ended := false, late := false }

/-- The channel of a local source (R29-R33). -/
def channelOf (sw : List SwEnt) (p : Nat × Nat) : Channel :=
  let r := routeOf sw p.1 p.2
  { tile := p.1, src := p.2, roots := (r.zipIdx.filter fun q => decide (q.1.tile = p.1) && decide (q.1.src = 32 + p.2)).map (·.2)
    nodes := r.map (nodeOfEnt sw r), done := false, sentAt := none, unsampled := 0 }

/-! ## Checks of one tile's frames -/

/-- The frame of a kind and index on a tile; zero where it is absent. -/
def tileFrame? (s : State) (k : Nat) (fs : List Dir) (tile kind fidx : Nat) : Option Frame :=
  (fs.find? fun d => decide (dirTile d = tile) && decide (dirKind d = kind) && decide (dirFidx d = fidx)).map (imgFrame s k)

def tileFrame (s : State) (k : Nat) (fs : List Dir) (tile kind fidx : Nat) : Frame := (tileFrame? s k fs tile kind fidx).getD 0

/-- The sixteen words of a CE. -/
def ceWords (s : State) (k : Nat) (fs : List Dir) (tile : Nat) : List Word :=
  (List.range 16).map fun i => (tileFrame s k fs tile 1 (i / 4)).extractLsb' (64 * (i % 4)) 64

def portBindOf (f : Frame) (i : Nat) : PortBind :=
  let x := fieldOf f (20 * i) 20
  { bound := x.testBit 6, slot := x % 16, opnd := opndOf (x / 16 % 4), join := x.testBit 7, jact := BitVec.ofNat 12 (x / 256) }

def counterOf (f1 f2 : Frame) (j : Nat) : Counter :=
  let f := if j < 2 then f1 else f2
  let b := 128 * (j % 2)
  { start := f.extractLsb' b 32, step := f.extractLsb' (b + 32) 16, count := f.extractLsb' (b + 64) 32 }

/-- Causes at a frame of a tile: the cause, the KIND and the frame index. -/
def atFrame (kind fidx : Nat) (l : List Nat) : List (Nat × Nat × Nat) := l.map fun c => (c, kind, fidx)

/-- Breaches of R66, R84-R86, R92 and R182 on a CE, each with the frame at fault: that of the word, the port frame, or that of the counter. -/
def ceCauses (s : State) (k : Nat) (fs : List Dir) (tile : Nat) : List (Nat × Nat × Nat) :=
  let p := tileFrame s k fs tile 2 0
  let f1 := tileFrame s k fs tile 2 1
  let f2 := tileFrame s k fs tile 2 2
  let words := ceWords s k fs tile
  let en (i : Nat) : Bool := p.getLsbD (80 + i)
  let live := (words.zipIdx.filter fun q => en q.2)
  let ports := (List.range 4).map (portBindOf p)
  let targets := live.flatMap fun q => wordTargets q.1
  let counts := (List.range 4).map fun j => (counterOf f1 f2 j).count
  let portBad (i : Nat) (b : PortBind) : Bool :=
    let paired := (i % 2 == 0) && b.join
    (decide (i % 2 = 1) && b.join) || (!paired && b.jact != 0)
      || (if b.bound then !(en b.slot && (((words[b.slot]?).map wordUses).getD []).any (· == b.opnd))
          else fieldOf p (20 * i) 20 != 0)
  let produced (i : Nat) (o : Opnd) : Bool :=
    ports.any (fun b => b.bound && b.slot == i && b.opnd == o) || targets.any fun t => t.slot.toNat == i && t.opnd == o
  let ownPort (i : Nat) : Bool := decide (fieldOf p (96 + 4 * i) 4 ≠ 0) && !(en i && isMemOp (opOfWord ((words[i]?).getD 0)))
  let counterBad (f : Frame) : Bool := decide (fieldOf f 48 16 ≠ 0) || decide (fieldOf f 96 32 ≠ 0) || decide (fieldOf f 176 16 ≠ 0) || decide (fieldOf f 224 32 ≠ 0)
  (live.flatMap fun q => atFrame 1 (q.2 / 4) (wordCauses .graph q.1
      ++ causeIf ((wordTargets q.1).any fun t => decide (t.slot.toNat < 16) && !en t.slot.toNat) 7
      ++ causeIf ((wordUses q.1).any fun o => !produced q.2 o) 8
      ++ causeIf (opOfWord q.1 == 0x0CC && (counts[fieldOf q.1 21 2]?).getD 0 == 0) 0x17))
    ++ ((words.zipIdx.filter fun q => !en q.2 && q.1 != 0).flatMap fun q => atFrame 1 (q.2 / 4) [12])
    ++ atFrame 2 0 (causeIf (decide (fieldOf p 192 64 ≠ 0) || (ports.zipIdx.any fun q => portBad q.2 q.1) || (List.range 16).any ownPort) 0x17)
    ++ atFrame 2 1 (causeIf (counterBad f1 || (List.range 3).any fun j => (counts[j]?).getD 0 == 0 && (counts[j + 1]?).getD 0 != 0) 0x17)
    ++ atFrame 2 2 (causeIf (counterBad f2) 0x17)

/-- The data inputs that an SU's operation requires, and those that it may read besides (R204, R210). -/
def suInputs (op : Nat) (f : SuFrame) : List Nat × List Nat :=
  if op ≤ 0x203 then (if f.param.getLsbD 0 then [] else [0], [])
  else if op ≤ 0x20A || op = 0x210 then ([0, 1], [])
  else if op = 0x212 then ([0], [1])
  else ([0], [])

/-- Breaches of R87 and R204 on an SU, its routes included. -/
def suTileCauses (s : State) (k : Nat) (fs : List Dir) (sw : List SwEnt) (tile : Nat) : List (Nat × Nat × Nat) :=
  match tileFrame? s k fs tile 3 0 with
  | none => []
  | some fr =>
    let op := fieldOf fr 0 10
    let f := suFrameOf fr
    let (need, may) := suInputs op f
    let nout := if op = 0x213 then fieldOf fr 165 2 + 1 else 0
    atFrame 3 0 (frameBitsCauses .su fr
      ++ causeIf (need.any (fun i => !swRoutedIn sw tile i) || [0, 1, 2].any (fun i => swRoutedIn sw tile i && !has (need ++ may) i)
          || swRoutedIn sw tile 3 != f.bcin || swRoutedOut sw tile 4 != f.bcout
          || (List.range nout).any fun i => !swRoutedOut sw tile i) 0x16)

/-- Breaches of R89, R90, R227 and R232 on an MT. -/
def mtTileCauses (s : State) (k : Nat) (fs : List Dir) (tile : Nat) : List (Nat × Nat × Nat) :=
  let fn := tileFrame? s k fs tile 5 0
  let a0 := tileFrame? s k fs tile 5 1
  let a1 := tileFrame? s k fs tile 5 2
  let own (f : Option Frame) (kd : FrameKind) : List Nat := match f with | none => [] | some x => frameBitsCauses kd x
  let laneBad := match fn with
    | none => false
    | some f =>
      let op := fieldOf f 0 10
      -- the compress and expand functions run on an element pattern: AGLIN or AGND
      let pattern (a : Frame) : Bool := decide (fieldOf a 0 10 ≤ 0x281) && decide (Ty.width (agFrameOf a).ty ≤ 32)
      if op = 0x288 then (match a0 with | some a => a.getLsbD 10 || !pattern a | none => true)
      else if op = 0x289 then (match a0 with | some a => !a.getLsbD 10 || !pattern a | none => true)
      else a1.isSome
  atFrame 5 0 (own fn .mtf) ++ atFrame 5 1 (own a0 .ag) ++ atFrame 5 2 (own a1 .ag) ++ atFrame 5 0 (causeIf laneBad 0x16)

/-- The frames of an MC. -/
def mcFrames (s : State) (k : Nat) (fs : List Dir) (tile : Nat) : List (Option Frame) := (List.range 4).map fun i => tileFrame? s k fs tile 4 i

/-- Width and height of a cell's region, and its position, by its first frame. -/
def cellPos (fr : List (Option Frame)) : Option (Nat × Nat × Nat × Nat) :=
  (fr.filterMap id).head?.map fun f => let m := mcFrameOf f; (m.wid.toNat, m.hgt.toNat, m.posy.toNat, m.posx.toNat)

/-- The cells of a graph's region as tile, y and x. -/
def regionCells (s : State) (k : Nat) (fs : List Dir) (tiles : List Nat) (wid hgt : Nat) : List (Nat × Nat × Nat) :=
  tiles.filterMap fun t => match cellPos (mcFrames s k fs t) with
    | some (w, h, y, x) => if w = wid ∧ h = hgt then some (t, y, x) else none
    | none => none

/-- The breaches of R239 and R240 at one cell. -/
def cellBad (s : State) (k : Nat) (fs : List Dir) (sw : List SwEnt) (cells : List (Nat × Nat × Nat)) (wid hgt : Nat) (c : Nat × Nat × Nat) : Bool :=
  let (t, y, x) := c
  let fr := mcFrames s k fs t
  let at_ (y x : Nat) : Option Nat := (cells.find? fun d => decide (d.2.1 = y ∧ d.2.2 = x)).map (·.1)
  let first := ((cells.head?).map fun d => mcFrames s k fs d.1).getD []
  let sameAs (a b : Option Frame) : Bool :=
    match a, b with
    | none, none => true
    | some a, some b =>
      let m := mcFrameOf a
      let n := mcFrameOf b
      fieldOf a 0 10 == fieldOf b 0 10 && m.aty == n.aty && m.bty == n.bty && m.mxs == n.mxs && m.acc == n.acc && m.kblk == n.kblk
    | _, _ => false
  let takesA := fr.any fun f => match f with | some f => decide (fieldOf f 0 10 = 0x240 ∨ fieldOf f 0 10 = 0x241 ∨ fieldOf f 0 10 = 0x244) | none => false
  !((cells.filter fun d => d.2 == c.2).length == 1)
    || !((List.range 4).all fun i => sameAs ((fr[i]?).bind id) ((first[i]?).bind id))
    || (fr.filterMap id).any (fun f => let m := mcFrameOf f; !(m.wid.toNat == wid && m.hgt.toNat == hgt && m.posy.toNat == y && m.posx.toNat == x))
    || (decide (x < wid) && (match at_ y (x + 1) with | some n => routeSinks (routeOf sw t 0) != [(n, 0)] | none => true))
    || (decide (y < hgt) && (match at_ (y + 1) x with | some n => routeSinks (routeOf sw t 1) != [(n, 1)] | none => true))
    || (y == 0 && swRoutedIn sw t 1) || (x == 0 && takesA && !swRoutedIn sw t 0)

/-- Breaches of R88, R239 and R240 on an MC. -/
def mcTileCauses (s : State) (k : Nat) (fs : List Dir) (sw : List SwEnt) (tiles : List Nat) (tile : Nat) : List (Nat × Nat × Nat) :=
  let fr := mcFrames s k fs tile
  match cellPos fr with
  | none => []
  | some (w, h, y, x) =>
    let cells := regionCells s k fs tiles w h
    (fr.zipIdx.flatMap fun q => atFrame 4 q.2 ((q.1.map (frameBitsCauses .mc)).getD []))
      ++ atFrame 4 4 (causeIf (cells.length != (w + 1) * (h + 1) || cellBad s k fs sw cells w h (tile, y, x)) 0x17)

/-! ## Checks of a graph and of an image -/

def rectBad (h : Frame) : Bool := decide (95 < gOrgRow h + gNrow h) || decide (95 < gOrgCol h + gNcol h)

/-- Whether a tile lies in a graph's rectangle (R20, R82). -/
def inRect (h : Frame) (t : Nat) : Bool :=
  let row := (t / 4096) % 8 * 16 + (t / 16) % 16
  let col := (t / 512) % 8 * 16 + t % 16
  decide (t / 32768 = gDie h) && decide (gOrgRow h ≤ row) && decide (row ≤ gOrgRow h + gNrow h) && decide (gOrgCol h ≤ col)
    && decide (col ≤ gOrgCol h + gNcol h)

/-- The frame indices that a kind takes, and the tile rows that carry it (R83). -/
def fidxMax (kind : Nat) : Nat := match kind with | 1 => 3 | 2 => 2 | 3 => 0 | 4 => 3 | 5 => 2 | _ => 1
def rowOkFor (kind row : Nat) : Bool :=
  match kind with
  | 1 | 2 => decide (8 ≤ row) && decide (row < 12)
  | 3 => decide (4 ≤ row) && decide (row < 8)
  | 4 => decide (12 ≤ row)
  | 5 => decide (row < 4)
  | _ => true

/-- The memory words of a CE with their chain and slot. -/
def chainWords (s : State) (k : Nat) (fs : List Dir) (t : Nat) : List (Nat × Nat × Word) :=
  let p := tileFrame s k fs t 2 0
  ((ceWords s k fs t).zipIdx.filter fun q => p.getLsbD (80 + q.2) && isMemOp (opOfWord q.1)).map fun q => (fieldOf p (96 + 4 * q.2) 4, q.2, q.1)

/-- Memory words of a graph with their chain: SEQ is unique in its chain across the graph, PSEQ and SSEQ name its members (R69). -/
def chainCauses (s : State) (k : Nat) (fs : List Dir) (all : List (Nat × Nat × Word)) (tile : Nat) : List (Nat × Nat × Nat) :=
  (chainWords s k fs tile).flatMap fun (c, i, w) =>
    let mates := (all.filter fun m => decide (m.1 = c)).map fun m => seqOf m.2.2
    let link (x : Nat) : Bool := decide (x ≠ 127) && (decide (x = seqOf w) || !has mates x)
    atFrame 1 (i / 4) (causeIf (decide (1 < (mates.filter (· == seqOf w)).length) || link (pseqOf w) || link (sseqOf w)) 9)

/-- The breaches of one graph of an image of `len` bytes, each with the directory entry at fault. -/
def graphCauses (s : State) (k len : Nat) (head : Dir) : List (Nat × Nat) :=
  let h := imgFrame s k head
  let n := gNframe h
  let bad := n == 0 || decide (imgDirCount s k < head.idx + 1 + n)
  (if bad then [(0x10, head.idx)] else []) ++
    let ds := ((List.range n).filter fun j => decide (head.idx + 1 + j < dirsHeld s k len)).map fun j => imgDir s k (head.idx + 1 + j)
    let fs := ds.filter fun d => dirIsFrame d && decide (dirOff d + 32 ≤ len)
    let tiles := (fs.map dirTile).eraseDups
    let sw := graphSw s k fs
    let at_ (t kind fidx : Nat) : Nat :=
      let on (p : Dir → Bool) : Option Dir := fs.find? fun d => decide (dirTile d = t) && p d
      ((((on fun d => dirKind d == kind && dirFidx d == fidx).or (on fun d => dirKind d == kind)).or (on fun _ => true)).map (·.idx)).getD head.idx
    let tag (t : Nat) (l : List (Nat × Nat × Nat)) : List (Nat × Nat) := l.map fun c => (c.1, at_ t c.2.1 c.2.2)
    let stageOf (d : Dir) : Nat := ((fs.find? fun e => decide (dirTile e = dirTile d)).map dirStage).getD 0
    let ces := tiles.filter fun t => fs.any fun d => decide (dirTile d = t) && (dirKind d == 1 || dirKind d == 2)
    let chains := ces.flatMap (chainWords s k fs)
    (if fieldOf h 64 192 != 0 || fieldOf h 31 17 != 0 then [(0x10, head.idx)] else []) ++ (if rectBad h then [(0x14, head.idx)] else [])
      ++ ((ds.filter fun d => !dirIsFrame d).map fun d => (0x10, d.idx))
      ++ (fs.flatMap fun d =>
          (causeIf (decide (fidxMax (dirKind d) < dirFidx d)) 0x11 ++ causeIf (!rowOkFor (dirKind d) (tileRow (dirTile d))) 0x12
            ++ causeIf (decide (dirStage d ≠ stageOf d) || fs.any fun e => decide (dirTile e = dirTile d) && decide (e.idx < d.idx)
                && decide (dirKind e = dirKind d) && decide (dirFidx e = dirFidx d)) 0x13
            ++ causeIf (!namesTile (dirTile d) || !inRect h (dirTile d)) 0x14
            ++ causeIf (dirKind d == 6 && (let f := imgFrame s k d
                (dirFidx d == 1 && fieldOf f 64 192 != 0)
                  || (List.range 32).any fun i => let b := fieldOf f (8 * i) 8; b.testBit 6 || (!b.testBit 7 && b != 0) || (b.testBit 7 && decide (40 ≤ b % 64)))) 0x15).map
            fun c => (c, d.idx))
      ++ ((routesBad sw).flatMap fun e => tag e.tile [(0x15, 6, if e.out < 32 then 0 else 1)])
      ++ (ces.flatMap fun t => tag t (ceCauses s k fs t ++ chainCauses s k fs chains t))
      ++ (tiles.flatMap fun t => tag t (suTileCauses s k fs sw t ++ mtTileCauses s k fs t ++ mcTileCauses s k fs sw tiles t))

/-- The byte range of what a directory entry names (R81): a header for KIND 0, for which no more is checked at load (R93). -/
def dirRange (d : Dir) : Nat × Nat := (dirOff d, if dirKind d = 8 then dirLen d else 32)

/-- A copy by itself: what lies beyond its bytes reads as zero. -/
def copyAlone (s : State) (k len : Nat) : State := { s with mem := s.mem.filter fun c => decide (k ≤ c.1) && decide (c.1 < k + len) }

/-- Every breach of an image of IMGLEN bytes at key k (R93, R301), with the entry at fault; none names the header or the table. A breach of the header, of the directory's range or of a graph's header
ends no check: what lies beyond the copy reads as zero, and a frame there counts as absent, besides its own cause. (Model: DEDUCED, unsafe: notes/assumptions 127) -/
def imageCauses (s : State) (k len : Nat) : List (Nat × Option Nat) :=
  let s := copyAlone s k len
  let size := imgSize s k
  let n := imgDirCount s k
  let off := imgDirOff s k
  let hdr : List (Nat × Option Nat) :=
    (causeIf (rdNum s k 4 != 0x4D494648 || rdNum s (k + 4) 2 != 0x0100 || rdNum s (k + 6) 2 != 0 || decide (size % 32 ≠ 0) || decide (size < 128)
        || n == 0 || rdNum s (k + 0x14) 4 != 0 || decide (off % 8 ≠ 0) || decide (off < 128) || decide (size < off + 8 * n)
        || rdNum s (k + 0x60) 32 != 0) 0x10 ++ causeIf (size != len) 0x19).map fun c => (c, none)
  let ds := (List.range (dirsHeld s k len)).map (imgDir s k)
  let heads := ds.filter fun d => dirKind d == 7
  let inside (d : Dir) : Bool :=
    let (o, l) := dirRange d
    decide (o + l ≤ size) && decide (128 ≤ o) && (decide (o + l ≤ off) || decide (off + 8 * n ≤ o))
  let counted (d : Dir) : Bool := heads.any fun h => decide (h.idx < d.idx) && decide (d.idx ≤ h.idx + gNframe (imgFrame s k h))
  let entries : List (Nat × Option Nat) := ds.flatMap fun d =>
    (causeIf (decide (9 ≤ dirKind d) || ((dirKind d == 0 || dirKind d == 7) && fieldOf d.raw 32 28 != 0) || (dirIsFrame d && !counted d)) 0x11
      ++ causeIf (decide (dirKind d ≤ 8) && !inside d) 0x10).map fun c => (c, some d.idx)
  let graphs : List (Nat × Option Nat) := (heads.flatMap (graphCauses s k len)).map fun p => (p.1, some p.2)
  let zeroed := (rdBytes s k 0x20 ++ List.replicate 64 0 ++ rdBytes s (k + 0x60) (len - 0x60)).take len
  let digest := sha3 zeroed
  hdr ++ entries ++ graphs
    ++ (causeIf (decide (digest.toNat ≠ rdNum s (k + 0x20) 64)) 0x18 ++ causeIf (tableBad s k heads.length) 0x19).map fun c => (c, none)

/-- The outcome of the check: the lowest cause, with the lowest directory entry found at fault for it. (Model: DEDUCED, unsafe: notes/assumptions 33) -/
def imageVerdict (s : State) (k len : Nat) : Option (Nat × Option Nat) :=
  let l := imageCauses s k len
  (minOf? (l.map (·.1))).map fun c =>
    let at_ := (l.filter fun p => decide (p.1 = c)).map (·.2)
    (c, if at_.any (·.isNone) then none else minOf? (at_.filterMap id))

/-- NCLMIN (R302): one more than the highest logical cluster that the graphs of an entry name, or 1. -/
def nclMin (s : State) (k : Nat) (e : KEntry) : Nat :=
  let ts := e.graphs.flatMap fun g => (graphFrames s k g).map dirTile
  (ts.map fun t => logicalCluster t + 1).foldl max 1

/-! ## Elements at the start of a graph -/

def freshCeFrame : CeFrame := { live := false, iter := 0, ks := [], wraps := [], entries := [], closed := [], fired := [] }

/-- A CE as its frames configure it (R84-R86). -/
def freshCe (words : List Word) (p f1 f2 : Frame) : Ce :=
  { words := words, sloten := p.extractLsb' 80 16, chain := (List.range 16).map fun i => fieldOf p (96 + 4 * i) 4
    ports := (List.range 4).map (portBindOf p), counters := (List.range 4).map (counterOf f1 f2), stopopt := p.extractLsb' 160 32
    idx := [0, 0, 0, 0], frames := List.replicate 8 freshCeFrame, nextIter := 0, lastFrame := 7, noMore := false, doneIn := [], doneOut := []
    stage := [], dlv := [[], [], [], []], fib := [[], [], [], []], last := [none, none, none, none], carry := []
    rd := [0, 0, 0, 0], marks := [], waits := [] }

/-- An operation that has consumed nothing. -/
def freshSuState : SuState :=
  { openFib := none, pending := none, eCount := 0, aCount := 0, backDone := false, lastA := none, lastB := none, dupA := none, dupB := none
    skipOut := none, errClose := false, fold := none, cnt := 0, err := none, openVals := false, n := 0, fibre := 0, errFibres := 0
    zeroed := false, gate := .seed, spill := 0, spillHead := 0, gateMark := none, recorded := [], ring := [], inDone := [], marks := [], ended := false }

def freshSu (f : Frame) : Su := { frame := f, st := freshSuState }

def freshAg (f : Frame) : AgState :=
  { frame := f, i := [0, 0, 0, 0], ended := false, written := 0, range := [], first := none, closing := none, stopped := none, inDone := false, owed := none, run := 0
    zeroed := false, marks := [], circuit := none, circBuf := [], refused := none, queue := [], writesOwed := 0, held := [] }

def freshMtFn (f : Frame) : MtState := { frame := f, sync := [], invs := [], waiting := [], inDone := false, marks := [] }

def freshMc (fr : List (Option Frame)) : Mc :=
  { frames := fr, rcvd := 0, completed := 0, sweeps := [], pass := none, lastCfg := none, kb := 0, row := 0, tok := 0, arows := [], seen := []
    scales := List.replicate 32 0, drained := 0, north := 0, aDone := false, lastSeen := false, ended := false, marks := [] }

/-- An AG's frame as the loader leaves it (R303 step 2): IMGADDR added where IREL is set, then the launch arguments of its patch records. -/
def patchedAg (f : Frame) (imgaddr : Nat) (patches : List (Nat × Nat)) (args : List Word) (idx : Nat) : Frame :=
  let base := fieldOf f 32 64 + (if f.getLsbD 11 then imgaddr else 0)
  let base := (patches.filter fun p => decide (p.1 = idx)).foldl (fun b p => b + ((args[p.2]?).getD 0).toNat) base
  setField f 32 64 base

/-- The resident graph of the graph header at directory index i (R91, R303); a tile that carries only SW frames has stage 0 (R22). -/
def loadGraph (s : State) (k i imgaddr : Nat) (args : List Word) (enables : BitVec 5) : Graph :=
  let fs := graphFrames s k i
  let sw := graphSw s k fs
  let patches := kernelPatches s k
  let tiles := (fs.map dirTile).eraseDups
  let agOf (t fidx : Nat) : Option AgState :=
    (fs.find? fun d => decide (dirTile d = t) && dirKind d == 5 && decide (dirFidx d = fidx)).map fun d =>
      freshAg (patchedAg (imgFrame s k d) imgaddr patches args d.idx)
  let tileOf (t : Nat) : Tile :=
    let row := tileRow t
    let has_ (l : List Nat) : Bool := fs.any fun d => decide (dirTile d = t) && has l (dirKind d)
    { stage := ((fs.find? fun d => decide (dirTile d = t) && decide (dirKind d ≠ 6)).map dirStage).getD 0
      ce := if decide (8 ≤ row) && decide (row < 12) && has_ [1, 2] then
          some (freshCe (ceWords s k fs t) (tileFrame s k fs t 2 0) (tileFrame s k fs t 2 1) (tileFrame s k fs t 2 2)) else none
      su := (tileFrame? s k fs t 3 0).map freshSu
      mt := if has_ [5] then some { fn := (tileFrame? s k fs t 5 0).map freshMtFn, ag0 := agOf t 1, ag1 := agOf t 2 } else none
      mc := if has_ [4] then some (freshMc (mcFrames s k fs t)) else none }
  { dir := i, inst := s.fresh, tiles := tiles.foldl (fun tb t => Tab.set tb t (tileOf t)) [], chans := (graphSources sw).map (channelOf sw), regions := []
    enables := enables, lastMove := s.cycle, stalled := false }

/-- The tracks that a graph's routes hold. -/
def graphTracks (s : State) (k i : Nat) : List (Nat × Nat) :=
  ((graphSw s k (graphFrames s k i)).filter fun e => decide (e.out < 32)).map fun e => (e.tile, e.out)

end Sys2Proof.Machine
end

