-- ==== Sys2Proof/Machine/Wire.lean ====
section
/-! DEFINITION. Packets on their way out (R385, R389-R394): the link of a flow, credits, sequence numbers, and outstanding requests; and accesses on the
PCIe link (R120, R134, R135). -/

namespace Sys2Proof.Machine

/-! ## Whose access it is -/

/-- The group at which an answer is due. -/
def siteGroup : Site → Option Nat
  | .none => none
  | .block g _ _ _ | .ce g _ _ _ _ | .engine g _ _ | .elem g _ _ _ => some g

def destGroup : Dest → Option Nat
  | .load s _ _ _ | .atomic s _ _ => siteGroup s
  | .store p _ => some p.1
  | .engine g _ _ _ | .multicast g _ _ | .rinv g _ | .ag g _ _ _ _ => some g

/-- Whether a link counts for the packages that RTAB lets it lead to (R385). -/
def linkCounts (l : Link) : Bool := l.st == .up || l.st == .attesting || l.st == .trusted

/-- The Erdor links that count for a package. -/
def linksFor (s : State) (pkg : Nat) : List Nat :=
  (List.range 36).filter fun n => (Tab.get s.rtab pkg 0).getLsbD n && linkCounts (link s n)

/-- Whether a meeting is the one of a job, communicator and number (R400). -/
def sameMeeting (m : Meeting) (job commid num : Nat) : Bool := decide (m.job = job ∧ m.commid = commid ∧ m.num = num)

/-- Whether a step travels under the protection of its link alone: a switch reduces it (R413). -/
def stepBare (s : State) (p : Packet) : Bool :=
  let num := natOfBytes (p.data.take 4)
  s.meetings.any fun m => sameMeeting m p.jobid.toNat p.va.toNat num && m.plan.any fun x => decide (x % 256 ≠ 0)

/-- Whether a packet is protected end to end: every packet of a job is, but for a step that a switch reduces (R413). -/
def sealedPkt (s : State) (ptype : Nat) (p : Packet) : Bool := decide (p.jobid ≠ 0) && !(decide (ptype = 10) && stepBare s p)

/-- The bytes of the member list and the data that a job packet holds at most (R413). -/
def jobBytes : Nat := 992

/-- Flits of a packet: its 24-byte header, the 12-byte nonce and the 16-byte tag of a sealed one, its member list and its data, 120 bytes a flit (R393, R413). -/
def flitsOf (p : Packet) (is_sealed : Bool) : Nat := (24 + (if is_sealed then 28 else 0) + p.data.length + 119) / 120

/-- A flit sequence of a link before its first flit. -/
def freshFlitSeq : FlitSeq := { txSeq := 0, rxSeq := 0, replay := [], nakOwed := false }

def seqOfLink (l : Link) (k : Nat) : FlitSeq := Tab.get l.seqs k freshFlitSeq

/-- Whether a link's packet channel can take k flits of a class now: credits (R391) and room for 256 flits that await acknowledgement (R390). -/
def canTx (l : Link) (cls k : Nat) : Bool :=
  let g := (l.granted[cls]?).getD 0
  let t := (l.sent[cls]?).getD 0
  decide (k ≤ (g - t).toNat) && decide ((seqOfLink l 0).replay.length + k ≤ 256)

/-- k flits leave on sequence q of a link: each takes the next SEQ and waits in the replay buffer (R389, R390). -/
def pushFlits (l : Link) (q k : Nat) : Link :=
  let x := seqOfLink l q
  let new := (List.range k).map fun i => ((x.txSeq + BitVec.ofNat 12 i).toNat, 0)
  { l with seqs := Tab.set l.seqs q { x with txSeq := x.txSeq + BitVec.ofNat 12 k, replay := x.replay ++ new } }

/-- The place of the packet count of a pair key (R411, R413): its job and the package that the key names beside this one. -/
def pairKey (jobid pkg : Nat) : Nat := jobid * 4096 + pkg

/-- A packet leaves on a link's packet channel, whether or not a credit is there. The nonce of a sealed one is the count of packets under its pair key (R413). (Model: DESIGN CHOICE, unsafe: notes/assumptions 52) -/
def leave (s : State) (n cls ptype : Nat) (p : Packet) : State :=
  let is_sealed := sealedPkt s ptype p
  let k := flitsOf p is_sealed
  let key := pairKey p.jobid.toNat p.dst.toNat
  let cnt := Tab.get s.pairCounts key 0
  let l := pushFlits (link s n) 0 k
  let s := setLink s n { l with sent := modAt l.sent cls (· + BitVec.ofNat 32 k) }
  { s with outbox := s.outbox ++ [(n, ptype, if is_sealed then { p with nonce := BitVec.ofNat 96 cnt } else p)]
           pairCounts := if is_sealed then Tab.set s.pairCounts key (cnt + 1) else s.pairCounts }

/-- A packet leaves on a link's packet channel, if it can. (Model: DESIGN CHOICE, safe, DESIGN CHOICE, unsafe: notes/assumptions 41, 152) -/
def txPacket (s : State) (n cls ptype : Nat) (p : Packet) : Option State :=
  if linkCounts (link s n) && canTx (link s n) cls (flitsOf p (sealedPkt s ptype p)) && !hubStopped s then some (leave s n cls ptype p) else none

/-- A flit of the link itself leaves; the outbox names it by its kind: 32 resync, 33 credit, 34 one that carries NAK. -/
def linkFlit (s : State) (n kind : Nat) (flag : Nat) (data : List Byte) : State :=
  let p : Packet := { src := s.pkgid, dst := (link s n).peer, hasid := 0, tag := 0, va := 0, jobid := 0, flag := BitVec.ofNat 21 flag, data := data }
  { s with outbox := s.outbox ++ [(n, kind, p)] }

/-- A credit flit leaves with GRANTED of the three classes (R391). (Model: DESIGN CHOICE, safe: notes/assumptions 153) -/
def sendCredit (s : State) (n : Nat) : State := linkFlit s n 33 0 ((link s n).rgranted.flatMap fun x => bytesOf 4 x.toNat)

/-- The class of a packet (R393). -/
def classOf (ptype : Nat) : Nat :=
  match ptype with
  | 1 | 3 | 5 | 7 | 11 => 1
  | 6 => 2
  | _ => 0

/-- The tag of the next request. -/
def nextTag (s : State) : BitVec 20 := BitVec.ofNat 20 s.fresh

/-- The JOBID of a context, 0 for one that is no member of a job (R404). -/
def jobOf (s : State) (c : Nat) : BitVec 32 := if (ctx s c).ctxjob.getLsbD 32 then BitVec.ofNat 32 (fieldOf (ctx s c).ctxjob 0 32) else 0

/-- The outcome of an attempt to send a request. -/
inductive Sent where
  | gone (s : State)
  | later
  | unreachable

/-- The link of a flow to a package: the one that its outstanding requests use, else the lowest that counts (R394), one that is being revoked last (R417). -/
def flowLink (s : State) (pkg : Nat) (same : Dest → Bool) : Option Nat :=
  match s.reqs.find? fun r => decide (r.home = pkg) && same r.dest with
  | some r => some r.link
  | none =>
    match (linksFor s pkg).find? fun n => !(link s n).revoking with
    | some n => some n
    | none => (linksFor s pkg).head?

/-- Whether a gang member waits for ALLGO before what depends on another package (R325). The packages of the other members are not named in a LAUNCH, so every other package counts. (Model: DEDUCED, safe: notes/assumptions 83) -/
def gangHeld (s : State) (g : Nat) : Bool := ((grp? s g).bind (·.gang)).any fun y => !y.allgo

/-- Send a request to a home package: it is outstanding until its response (R393). -/
def sendRequest (s : State) (c pkg ptype hasid va : Nat) (flag : BitVec 21) (data : List Byte) (dest : Dest) (same : Dest → Bool) : Sent :=
  if (destGroup dest).any (gangHeld s) then .later
  else match flowLink s pkg same with
  | none => .unreachable
  | some n =>
    if (link s n).revoking then .later else
    let p : Packet :=
      { src := s.pkgid, dst := BitVec.ofNat 12 pkg, hasid := BitVec.ofNat 16 hasid, tag := nextTag s, va := BitVec.ofNat 57 va, jobid := jobOf s c
        flag := flag, data := data }
    match txPacket s n (classOf ptype) ptype p with
    | none => .later
    | some s =>
      .gone { s with reqs := s.reqs ++ [{ tag := p.tag.toNat, ptype := ptype, home := pkg, pkt := p, sent := s.dtime, link := n, dest := dest }]
                     fresh := s.fresh + 1 }

/-- A flit of headerless words leaves on a circuit lane group of a link (R388). The outbox names it by 16 + lane group in place of a PTYPE. -/
def circFlit (s : State) (n lg : Nat) (data : List Byte) : State :=
  let p : Packet := { src := s.pkgid, dst := (link s n).peer, hasid := 0, tag := 0, va := 0, jobid := 0, flag := 0, data := data }
  { modLink s n (fun l => pushFlits l (lg + 1) 1) with outbox := s.outbox ++ [(n, 16 + lg, p)] }

/-- A request joins the PCIe link's order (R120). -/
def pciePush (s : State) (r : Pcie) : State := { s with pcie := s.pcie ++ [r] }

/-! ## Keys of places that lie outside the module -/

/-- Keys at or above this name a location of a peer package: package, HASID, VA. -/
def peerBase : Nat := 2 ^ 90
def peerKey (pkg hasid va : Nat) : Nat := peerBase + (pkg * 2 ^ 16 + hasid) * 2 ^ 57 + va
def isPeer (k : Nat) : Bool := decide (peerBase ≤ k)
def isHost (k : Nat) : Bool := decide (2 ^ 64 ≤ k) && decide (k < peerBase)
def peerPkg (k : Nat) : Nat := (k - peerBase) / 2 ^ 73
def peerHasid (k : Nat) : Nat := (k - peerBase) / 2 ^ 57 % 2 ^ 16
def peerVa (k : Nat) : Nat := (k - peerBase) % 2 ^ 57

/-- The flat key of a place. -/
def keyOfPlace (x : Group) (p : Place) : Nat :=
  match p with
  | .store k => k
  | .sync _ tile byte => upKey (clusterOfTile x tile) (tileInCluster tile * 131072 + byte)
  | .host bus => hostKey bus
  | .peer pkg hasid va => peerKey pkg hasid va

end Sys2Proof.Machine
end

