-- ==== Sys2Proof/Machine/Access.lean ====
section
/-! DEFINITION. Accesses of memory instructions (R117-R130, R183-R194): what a load reads, when a store has performed, the order in which a thread and a chain
issue, atomics, and sync words. -/

namespace Sys2Proof.Machine

/-! ## What an access reads (R117-R119) -/

/-- The youngest byte that a list of writes holds for a key. -/
def lastByte (l : List (Nat × Byte)) (k : Nat) : Option Byte := l.foldl (fun a p => if p.1 = k then some p.2 else a) none

/-- The locations of n bytes from a key: aligned 8-byte words (R117). -/
def locations (k n : Nat) : List Nat := (List.range ((k + n + 7) / 8 - k / 8)).map fun i => k / 8 + i

/-- Whether writes touch a location of n bytes from a key. -/
def overlaps (l : List (Nat × Byte)) (k n : Nat) : Bool := l.any fun p => decide (k / 8 ≤ p.1 / 8) && decide (p.1 / 8 < (k + n + 7) / 8)

/-- Whether every earlier store of a party has performed at a scope (R120): those in write queues, those that await an acknowledgement from another
package, and, at system scope, those on the PCIe link. -/
def storesPerformed (s : State) (party : Nat × Nat) (scope : Scope) : Bool :=
  match scope with
  | .tile | .cluster => true
  | _ =>
    !(s.clusters.any fun c => c.2.writeq.any fun e => decide (e.party = party))
      && !(s.reqs.any fun r => match r.dest with | .store p _ => decide (p = party) | _ => false)
      && (match scope with
          | .system => !(s.pcie.any fun r => match r with | .write _ p _ => decide (p = party) | _ => false)
          | _ => true)

/-- The party of a serving point: what it may take from a queue is what every party may see. -/
def servedParty : Nat × Nat := (2 ^ 40, 0)

/-- Whether an entry of a write queue is visible to a party (R118, R125): a release is held until its party's earlier stores have performed at its scope, and a store to a scratchpad is visible to its own party alone. -/
def entryVisible (s : State) (party : Nat × Nat) (earlier : List WqEntry) (e : WqEntry) : Bool :=
  decide (e.party = party) || (!e.pad && !e.rel)
    || !((e.pad && decide (party ≠ servedParty)) || match e.scope with
        | .tile | .cluster => false
        | _ => earlier.any (fun d => decide (d.party = e.party))
            || (s.reqs.any fun r => match r.dest with | .store p _ => decide (p = e.party) | _ => false)
            || (match e.scope with
                | .system => s.pcie.any fun r => match r with | .write _ p _ => decide (p = e.party) | _ => false
                | _ => false))

/-- The queued bytes of a cluster that a party's loads see, oldest first. -/
def queuedFor (s : State) (cl : Nat) (party : Nat × Nat) : List (Nat × Byte) :=
  let q := (cluster s cl).writeq
  (q.zipIdx.filter fun e => entryVisible s party (q.take e.2) e.1).flatMap fun e => e.1.bytes

/-- Whether some queued store of a cluster overlaps a range. -/
def queueOverlaps (s : State) (cl k n : Nat) : Bool := (cluster s cl).writeq.any fun e => overlaps e.bytes k n

/-- Whether a party that issues from several clusters has a store to a location queued at another one than `cl` (R119, R124). -/
def queuedElsewhere (s : State) (cl : Nat) (party : Nat × Nat) (k n : Nat) : Bool :=
  s.clusters.any fun c => decide (c.1 ≠ cl) && c.2.writeq.any fun e => decide (e.party = party) && overlaps e.bytes k n

/-- The bytes of an access that its party finds in structures of its own, uncommitted stores first (R118). -/
def heldBytes (s : State) (cl : Nat) (party : Nat × Nat) (own : List (Nat × Byte)) (k n : Nat) : List (Option Byte) :=
  let q := queuedFor s cl party
  (List.range n).map fun i => match lastByte own (k + i) with | some b => some b | none => lastByte q (k + i)

/-- n bytes at a key as a party sees them: its own uncommitted stores first, then its cluster's queue, then storage (R118). -/
def viewBytes (s : State) (cl : Nat) (party : Nat × Nat) (own : List (Nat × Byte)) (k n : Nat) : List Byte :=
  (heldBytes s cl party own k n).zipIdx.map fun (b, i) => b.getD (rdByte s (k + i))

/-! ## Atomics (R189) -/

/-- The new value of an atomic. -/
def atomNew (op : AtomOp) (t : Ty) (old b c : Nat) : Nat :=
  let w := Ty.width t
  let o := old % 2 ^ w
  let b := b % 2 ^ w
  match op with
  | .add => (o + b) % 2 ^ w
  | .min => lowNat w (min (decodeI t o) (decodeI t b))
  | .max => lowNat w (max (decodeI t o) (decodeI t b))
  | .and => o &&& b
  | .or => o ||| b
  | .xor => o ^^^ b
  | .xchg => b
  | .cas => if o = c % 2 ^ w then b else o
  | .fadd => (roundF t .rne 0 (exAdd .rne (decodeF t o) (decodeF t b)).1).1

/-- Whether the host performs an atomic (R135): FetchAdd, Swap and CAS, when bring-up found an AtomicOp completer. -/
def hostAtomOk (s : State) (op : AtomOp) (t : Ty) : Bool :=
  (link s 36).atomok && (match op with | .add => Ty.isInt t | .xchg | .cas => true | _ => false)

/-! ## Where an access goes -/

/-- The outcome of finding the place of one access: a fault (code, cause), a wait, a place. -/
inductive Found where
  | fault (code cause : Nat)
  | wait
  | at_ (k : Nat) (sync : Option (Nat × Nat × Nat))
  deriving DecidableEq, Repr

/-- Whether an owner is serving the parked readers of a word of a page: an access that is no STF waits until they have been served (R192). -/
def servesNow (s : State) (g : Nat) (p : Place) (n : Nat) : Bool :=
  match p with
  | .sync gi t b =>
    (((mt? s g gi t).bind (·.fn)).map (·.sync)).any fun l => l.any fun w => w.2.serving && decide (w.1 / 8 ≤ (b + n - 1) / 8) && decide (b / 8 ≤ w.1 / 8)
  | _ => false

/-- A gm access of n bytes by a holder of translations for a group (R183, R184, R344, R351). -/
def gmFind (s : State) (h g va n : Nat) (need : Need) : State × Found :=
  match grp? s g with
  | none => (s, .wait)
  | some x =>
    if va % n ≠ 0 then (s, .fault 7 0)
    else if invalBlocks s x.ctx va then (s, .wait)
    else match resolve s h x.ctx g va need with
      | (s, .error e) => (s, if e = causeWait then .wait else if e = causeSyncKind then .fault 9 0 else .fault 8 e)
      | (s, .ok p) =>
        if need != .sync && servesNow s g p n then (s, .wait)
        else
          -- an access through the owner follows what the owner has begun (R130)
          let s := match p with | .sync _ _ _ => ownerSettle s | _ => s
          (s, .at_ (keyOfPlace x p) (match p with | .sync gi t b => some (gi, t, b) | _ => none))

/-- An uncorrectable error met by an access (R110, R358): an HBM word is ECC_DATA; other storage is fatal. -/
def eccOf (s : State) (k n : Nat) : Option Bool := if poisoned s k n then some (decide (k < 2 ^ 60)) else none

/-! ## The order of a block's memory instructions (R123, R125) -/

/-- Whether a slot of a block has neither fired nor been left, or still waits for an answer. -/
def unresolved (k : Block) (slot : Nat) : Bool := !has k.fired slot || k.waits.any fun w => decide (w.1 = slot)

/-- The slots of a block that hold back later memory instructions: acquires and completed waits still to come (R125, R131, R335), PGINV and PGPROBE (R356). -/
def holdsBack (w : Word) : Bool :=
  let op := opOfWord w
  (isMemOp op && w.getLsbD 3) || has [0x181, 0x182, 0x183, 0x1C7, 0x1C8] op

/-- A CT-queue instruction with a pop (R129, R196). (Model: DEDUCED, safe: notes/assumptions 20) -/
def isCtPop (w : Word) : Bool := opOfWord w == 0x15F && fieldOf w 18 4 == 0 && fieldOf w 25 3 != 0

/-- A FENCE with a release part. -/
def isRelFence (w : Word) : Bool := opOfWord w == 0x110 && w.getLsbD 4

/-- A slot whose effect at commit holds back the younger blocks: a BARAW's wait (R335), an acquire store, which performs after the commit (R125, R126), a release FENCE after stores of its own block (R126, R194). -/
def holdsToCommit (k : Block) (w : Word) (slot : Nat) : Bool :=
  (has [0x101, 0x103] (opOfWord w) && w.getLsbD 3 && has k.stDone (seqOf w)) || (opOfWord w == 0x182 && k.actions.any fun a => decide (a.1 = slot)) || (isRelFence w && decide (k.stmask ≠ 0) && (!has k.fired slot || has k.issued (seqOf w)))

/-- Whether an older block of the thread holds back the accesses of the block at position b. -/
def olderHolds (t : Thread) (b : Nat) : Bool :=
  (t.blocks.take b).any fun k => k.words.zipIdx.any fun (w, i) => ((holdsBack w || isCtPop w) && unresolved k i) || holdsToCommit k w i

/-- Whether a committed release FENCE of a thread still waits for the stores of its block (R126), or a committed acquire store of it has still to perform (R125). An acquire store on its way to the host
carries the note of no site. -/
def fencePending (s : State) (cl : Nat) (party : Nat × Nat) : Bool :=
  ((cluster s cl).writeq.any fun e => decide (e.party = party) && (e.bytes.isEmpty || e.acq))
    || s.pcie.any fun r => match r with | .write _ p (some (.none, _)) => decide (p = party) | _ => false

/-- Whether something of its own block holds back the memory instruction in a slot. -/
def ownHolds (k : Block) (slot : Nat) : Bool :=
  k.words.zipIdx.any fun (w, i) =>
    (isCtPop w && !has k.fired i) || (has [0x181, 0x183, 0x1C7, 0x1C8] (opOfWord w) && unresolved k i)
      || (decide (i ≠ slot) && isMemOp (opOfWord w) && w.getLsbD 3 && k.waits.any fun x => decide (x.1 = i))

/-- The SEQs that come just before a memory instruction in wave order (R123): its predecessor's, or, without one, every lower one. -/
def waveBefore (k : Block) (w : Word) : List Nat :=
  let p := pseqOf w
  if p ≠ 127 then [p] else (k.words.filter fun v => isMemOp (opOfWord v) && decide (seqOf v < seqOf w)).map seqOf

/-- Whether the places of some SEQs in wave order have passed: each has issued, been nulled or been discharged, and so has what comes before it. -/
def wavePassed (k : Block) : Nat → List Nat → Bool
  | 0, _ => false
  | fuel + 1, l => l.all fun q =>
      has k.issued q && ((k.words.filter fun v => isMemOp (opOfWord v) && decide (seqOf v = q)).all fun v => wavePassed k fuel (waveBefore k v))

/-- Wave order (R123): what comes before an instruction has passed. (Model: DEDUCED, safe: notes/assumptions 22) -/
def waveReady (k : Block) (w : Word) : Bool := wavePassed k 33 (waveBefore k w)

/-- How far along the wave order a SEQ stands: one more than what comes just before it. -/
def waveRank (k : Block) : Nat → Nat → Nat
  | 0, _ => 0
  | fuel + 1, q =>
    match k.words.find? fun v => isMemOp (opOfWord v) && decide (seqOf v = q) with
    | none => 0
    | some v => ((waveBefore k v).map fun p => waveRank k fuel p + 1).foldl max 0

/-- The buffers of a collective, as address and length (R399-R401): with the ranks of its meeting, or as many as there may be while it has none. -/
def collBuffers (s : State) (g th : Nat) (e : EngEntry) : List (Nat × Nat) :=
  let op := opOfWord e.word
  let w := Ty.width (tyOfCode (fieldOf e.word 48 4)) / 8
  let count := (lane e.c 1).toNat
  let met := (s.meetings.find? fun m => decide (m.own = some (g, th))).bind fun m => (Tab.get? m.heads m.rank).bind List.head?
  let n := match met with | some h => h / 2 ^ 32 | none => 64
  [((lane e.a 0).toNat, w * if op = 0x15A then n * count else count), ((lane e.b 0).toNat, w * if op = 0x159 ∨ op = 0x15A then n * count else count)]

/-- The collectives of a thread that come before the block at position b and have not completed. -/
def collsBefore (t : Thread) (b : Nat) : List EngEntry :=
  (t.clq.filter (!·.done) ++ (t.blocks.take b).flatMap (·.engines)).filter fun e => decide (0x158 ≤ opOfWord e.word) && decide (opOfWord e.word ≤ 0x15B)

/-- Whether an access of the block at position b reaches a buffer of a collective that comes before it: it issues after the collective has completed (R133). -/
def collHolds (s : State) (g th b : Nat) (es : List (Nat × Nat)) : Bool :=
  (thread? s g th).any fun t => (collsBefore t b).any fun e => (collBuffers s g th e).any fun (a, n) => es.any fun (va, k) => decide (va < a + n) && decide (a < va + k)

/-- The accesses of a block that are still outstanding. -/
def loadsOut (k : Block) : Bool := k.waits.any fun w => match w.2 with | .load _ _ _ _ _ | .reader _ _ _ _ => true | _ => false

/-- Whether a memory instruction may issue now (R123, R125, R129, R335, R356). -/
def mayIssue (s : State) (g th b slot : Nat) (k : Block) (f : MFields) (needOldest : Bool) : Bool :=
  match thread? s g th, k.words[slot]? with
  | some t, some w =>
    let relaxed := f.pol == .rlx
    let rel := (f.pol == .rel || f.pol == .acqrel) && !(writesMem (opOfWord w) && decide (opOfWord w = 0x101 ∨ opOfWord w = 0x103))
    t.barWait.isEmpty && !t.arrivals.any (·.2.2) && !fencePending s (threadCl s g th) (g, th) && waveReady k w && !ownHolds k slot && !olderHolds t b && (decide (b = 0) || !(needOldest || !relaxed))
      && (!rel || (!loadsOut k && storesPerformed s (g, th) f.scope))
  | _, _ => false

/-- A memory instruction of a block has issued. -/
def markIssued (s : State) (g th b slot : Nat) (q : Nat) : State :=
  modBlock s g th b fun k => { k with fired := slot :: k.fired, issued := q :: k.issued }

/-- Whether every byte of the block's older blocks and of its own earlier stores: what loads of the block see of uncommitted stores (R118). -/
def uncommitted (t : Thread) (b : Nat) : List (Nat × Byte) := (t.blocks.take (b + 1)).flatMap fun k => k.stores.flatMap (·.bytes)

/-- The work name of a slot of a block: its CE, at stage 0 (R23). -/
def blockWork (x : Group) (k : Block) (th slot : Nat) : Nat := physTile x (ceTile k th slot)

/-- A fault of a memory instruction of a block: precise; the slot has fired. (Model: DEDUCED, unsafe: notes/assumptions 23) -/
def memFault (s : State) (g th b slot code cause : Nat) (wr : Bool) (addr : Nat) : State :=
  blockFault (markFired s g th b slot) g th b (some slot) code cause wr (addr % 2 ^ 64)

/-- Accesses of the block at position b to some locations: a younger block that has read one of them already, and with it every block behind, is discarded and mapped again, since the accesses of a thread to one location
take effect in program order (R119, R123). (Model: DEDUCED, safe: notes/assumptions 137) -/
def replay (s : State) (g th b : Nat) (locs : List Nat) : State :=
  match (thread? s g th).bind fun t => t.blocks.zipIdx.find? fun (k, i) => decide (b < i) && k.reads.any (has locs) with
  | some (_, i) => discardYounger s g th i
  | none => s

/-- The result of one part of a load: the bytes at a storage key; a number of answers to come, with the value of the bytes that its party holds already; a fault; a wait. -/
inductive Got where
  | bytes (k : Nat) (l : List Byte)
  | asked (known n : Nat)
  | fault (code cause : Nat)
  | wait
  deriving DecidableEq, Repr

/-- A scratchpad read of n bytes at offset x (R104, R446). -/
def padRead (s : State) (x : Group) (g cl work : Nat) (sp : MvSpace) (n off : Nat) : State × List Byte :=
  let o := padOffset (spaceSize x sp) n off
  match padKey x sp cl n off with
  | none => (spoob s g cl sp o, List.replicate n 0)
  | some k =>
    let s := watchPad s g work sp o false
    (eccTouch s k n false, rdBytes s k n)

/-- The keys of a scratchpad write; `oob` says what an access beyond the allocation leaves. -/
def padKeysOr (s : State) (x : Group) (g cl work : Nat) (sp : MvSpace) (off : Nat) (l : List Byte) (oob : State → Nat → State) : State × List (Nat × Byte) :=
  let o := padOffset (spaceSize x sp) l.length off
  match padKey x sp cl l.length off with
  | none => (oob s (spoobPayload sp o), [])
  | some k => (watchPad s g work sp o true, keyed k l)

/-- A scratchpad write: the bytes with their keys, or nothing beyond the allocation. -/
def padWriteKeys (s : State) (x : Group) (g cl work : Nat) (sp : MvSpace) (off : Nat) (l : List Byte) : State × List (Nat × Byte) :=
  padKeysOr s x g cl work sp off l fun s p => spoobAt s g cl p

/-- An access of a block that reached no storage is recorded when the block commits (R104, R170). -/
def noteSpoob (g th b : Nat) (s : State) (payload : Nat) : State := modBlock s g th b fun k => { k with spoobs := k.spoobs ++ [payload] }

/-- Runs of consecutive offsets at which nothing is held: offset and length. -/
def gapsOf : Nat → List (Option Byte) → List (Nat × Nat)
  | _, [] => []
  | i, some _ :: r => gapsOf (i + 1) r
  | i, none :: r =>
    match gapsOf (i + 1) r with
    | (j, n) :: t => if j = i + 1 then (i, n + 1) :: t else (i, 1) :: (j, n) :: t
    | [] => [(i, 1)]

/-- Ask for the parts of a read that its party does not hold, at the host or at a peer; none when one cannot be sent now, and whether none ever can. -/
def askGaps (x : Group) (k : Nat) (mkDest : Nat → Nat → Dest) (same : Dest → Bool) : State → List (Nat × Nat) → Except Bool State
  | s, [] => .ok s
  | s, (i, n) :: r =>
    if isHost k then askGaps x k mkDest same (pciePush s (.read (k + i) n (mkDest i n))) r
    else match sendRequest s x.ctx (peerPkg k) 0 (peerHasid k) (peerVa k + i) (BitVec.ofNat 21 n) [] (mkDest i n) same with
      | .gone s => askGaps x k mkDest same s r
      | .later => .error false
      | .unreachable => .error true

/-- One gm read of n bytes for a site: local storage answers now; host memory and peer packages answer later, for what the party does not hold itself (R117, R118, R134, R346). -/
def gmRead (s : State) (h g cl va n : Nat) (party : Nat × Nat) (own : List (Nat × Byte)) (oldest : Bool) (mkDest : Nat → Nat → Dest) (same : Dest → Bool) : State × Got :=
  match gmFind s h g va n .read, grp? s g with
  | (s, .fault c e), _ => (s, .fault c e)
  | (s, .wait), _ | (s, _), none => (s, .wait)
  | (s, .at_ k _), some x =>
    if queuedElsewhere s cl party k n then (s, .wait)
    else if isHost k || isPeer k then
      let held := heldBytes s cl party own k n
      if !oldest then (s, .wait)
      else if held.all (·.isSome) then (s, .bytes k (held.map fun b => b.getD 0))
      else match askGaps x k mkDest same s (gapsOf 0 held) with
        | .ok s => (s, .asked (natOfBytes (held.map fun b => b.getD 0)) (gapsOf 0 held).length)
        | .error false => (s, .wait)
        | .error true => (s, .fault 8 6)
    else match eccOf s k n with
      | some true => (s, .fault 0x14 0)
      | some false => (eccTouch s k n false, .wait)
      | none => (eccFixAt s k n, .bytes k (viewBytes s cl party own k n))

/-- The keys of the bytes of a gm store, checked (R184). -/
def gmWriteKeys (s : State) (h g va : Nat) (l : List Byte) : State × Except (Option (Nat × Nat)) (List (Nat × Byte)) :=
  match gmFind s h g va l.length .write with
  | (s, .fault c e) => (s, .error (some (c, e)))
  | (s, .wait) => (s, .error none)
  | (s, .at_ k _) => (s, .ok (keyed k l))

/-- An atomic at storage: its old value, and the new one written; at an owner the write may come later in the cycle of the read (R130). -/
def atomAt (s : State) (owner : Bool) (k n : Nat) (new : Nat → Nat) : State × Nat :=
  let old := rdNum s k n
  (if owner then { s with ownerWrites := s.ownerWrites ++ [(k, n, new old)] } else wrNum s k n (new old), old)

/-- What an atomic at a gm address does: its old value now, an answer later, a fault, a wait. -/
def gmAtomic (s : State) (h g cl va : Nat) (party : Nat × Nat) (op : AtomOp) (t : Ty) (b c : Nat) (mkDest : Dest) (same : Dest → Bool) : State × Got :=
  let n := Ty.width t / 8
  match gmFind s h g va n .atomic with
  | (s, .fault c' e) => (s, .fault c' e)
  | (s, .wait) => (s, .wait)
  | (s, .at_ k sync) =>
    if isHost k && !hostAtomOk s op t then (s, .fault 0x0C 0)
    else if queueOverlaps s cl k n || queuedElsewhere s cl party k n then (s, .wait)
    else if isHost k then (pciePush s (.atomic k n op (BitVec.ofNat 64 b) (BitVec.ofNat 64 c) mkDest), .asked 0 1)
    else if isPeer k then match grp? s g with
      | none => (s, .wait)
      | some x =>
        match sendRequest s x.ctx (peerPkg k) 4 (peerHasid k) (peerVa k) (BitVec.ofNat 21 (AtomOp.code op * 16 + Ty.code t))
            (bytesOf 8 b ++ bytesOf 8 c) mkDest same with
        | .gone s => (s, .asked 0 1)
        | .later => (s, .wait)
        | .unreachable => (s, .fault 8 6)
    else match eccOf s k n with
      | some true => (s, .fault 0x14 0)
      | some false => (eccTouch s k n false, .wait)
      | none =>
        let (s, old) := atomAt (eccFixAt s k n) sync.isSome k n fun old => atomNew op t old b c
        (s, .bytes k (bytesOf n old))

/-- Whether an MTOWN of a placed group owns a byte of a unit pad (R233). -/
def ownedByte (s : State) (x : Group) (cl o : Nat) : Bool :=
  x.image.graphs.any fun (_, gr) => gr.tiles.any fun (t, y) =>
    decide (clusterOfTile x t = cl) && decide (tileInCluster t = o / 131072)
      && (y.mt.bind (·.fn)).any fun m => decide (fieldOf m.frame 0 10 = 0x28A) && decide (fieldOf m.frame 64 64 ≤ o % 131072) && decide (o % 131072 < fieldOf m.frame 128 64)

/-- An atomic on a scratchpad (R189); in an owned range it passes the owner (R233). Beyond the allocation the old value is zero, nothing is written, and one record says so (R104). -/
def padAtomic (s : State) (x : Group) (g cl work : Nat) (sp : MvSpace) (off : Nat) (op : AtomOp) (t : Ty) (b c : Nat) : State × List Byte :=
  let n := Ty.width t / 8
  let o := padOffset (spaceSize x sp) n off
  match padKey x sp cl n off with
  | none => (spoob s g cl sp o, List.replicate n 0)
  | some k =>
    let owned := sp == .up && ownedByte s x cl o
    let s := eccTouch (watchPad (watchPad (if owned then ownerSettle s else s) g work sp o false) g work sp o true) k n false
    let (s, old) := atomAt s owned k n fun old => atomNew op t old b c
    (s, bytesOf n old)

/-! ## Sync words (R191-R193, R234) -/

/-- A sync word before its first access: full with INITFULL. -/
def freshSync (m : MtState) : SyncWord := { full := m.frame.getLsbD 48, readers := [], overflow := [], serving := false }

def syncWord (m : MtState) (byte : Nat) : SyncWord := Tab.get m.sync byte (freshSync m)

def setSync (s : State) (g gi tile byte : Nat) (w : SyncWord) : State :=
  modMtFn s g gi tile fun m => { m with sync := Tab.set m.sync byte w }

/-- The MTSYNC that serves a sync word; an MTOWN keeps no full/empty state. -/
def mtSync? (s : State) (g gi tile : Nat) : Option MtState :=
  (mt? s g gi tile).bind fun m => m.fn.bind fun f => if fieldOf f.frame 0 10 = 0x28B then some f else none

/-- The entries of an MT's overflow area that its readers hold, and their number. -/
def overflowEntries (m : MtState) : List Nat := m.sync.flatMap fun p => p.2.overflow.map (·.entry)
def overflowUsed (m : MtState) : Nat := (overflowEntries m).length

/-- A reader takes the lowest free entry of its owner's overflow area, 16 bytes of the die pad (R104, R234). What they hold is the device's own. (Model: DESIGN CHOICE, unsafe: notes/assumptions 39) -/
def overflowTake (s : State) (g tile : Nat) (x : Group) (m : MtState) (r : Reader) : State × Reader :=
  let e := ((List.range 65536).find? fun i => !has (overflowEntries m) i).getD 0
  let (s', ks) := padWriteKeys s x g (clusterOfTile x tile) (workOfTile s x tile) .dp (fieldOf m.frame 192 32 + 16 * e) ((List.range 16).map (Config.overflowByte s.fresh))
  (putBytes { s' with fresh := s.fresh + 1 } ks, { r with entry := e })

/-- The outcome of a sync access. -/
inductive Synced where
  | value (v : Word)
  | parked
  | full
  | wait
  | noOwner
  deriving DecidableEq, Repr

/-- LDE (take) or LDF at a sync word. -/
def syncRead (s : State) (g gi tile byte : Nat) (take : Bool) (site : Site) (seq : Nat) : State × Synced :=
  match mtSync? s g gi tile, grp? s g with
  | some m, some x =>
    let w := syncWord m byte
    let key := keyOfPlace x (.sync gi tile byte)
    if w.serving then (s, .wait)
    else if w.full then
      let s := ownerSettle s
      let v := rdWord s key
      let s := eccTouch s key 8 false
      (if take then setSync s g gi tile byte { w with full := false } else s, .value v)
    else
      let r : Reader := { take := take, entry := 0, site := site, seq := seq }
      if w.readers.length < 64 && w.overflow.isEmpty then (setSync s g gi tile byte { w with readers := w.readers ++ [r] }, .parked)
      else if overflowUsed m < fieldOf m.frame 32 16 then
        let (s, r) := overflowTake s g tile x m r
        (record (setSync s g gi tile byte { w with overflow := w.overflow ++ [r] }) (clusterOfTile x tile) 2 4 (tileInCluster tile) x.ctx
          (byte % 2 ^ 17 + (overflowUsed m + 1) * 2 ^ 32), .parked)
      else (record s (clusterOfTile x tile) 2 5 (tileInCluster tile) x.ctx (byte % 2 ^ 17), .full)
  | _, _ => (s, .noOwner)

/-- STF at a sync word, which never waits (R191): 0 at a full word, whose parked readers the owner may still be serving (R193); 1 when it filled the word, which wakes the SAVED groups that have recorded it (R320). -/
def syncFill (s : State) (g gi tile byte : Nat) (v : Word) : State × Synced :=
  match mtSync? s g gi tile, grp? s g with
  | some m, some x =>
    let w := syncWord m byte
    if w.full then (s, .value 0)
    else
      let s := wrNum (ownerSettle s) (keyOfPlace x (.sync gi tile byte)) 8 v.toNat
      let s := setSync s g gi tile byte { w with full := true, serving := !(w.readers.isEmpty && w.overflow.isEmpty) }
      (wakeOn s fun _ _ k => match k with | .word g' t b => decide (g' = g ∧ t = tile ∧ b = byte) | _ => false, .value 1)
  | _, _ => (s, .noOwner)

/-! ## Results of a block's memory instructions -/

/-- The targets of a slot's word. -/
def slotTargets (k : Block) (slot : Nat) : Option Target × Option Target :=
  match k.words[slot]? with
  | some w => (targetOf (fieldOf w 38 10), targetOf (fieldOf w 28 10))
  | none => (none, none)

/-- Deliver what a memory instruction read: LDX sends the mask to T1; every other load sends one value to both (R142, R188). -/
def deliverLoad (s : State) (g th b slot : Nat) (v m : Value) : State :=
  match block? s g th b with
  | none => s
  | some k =>
    let (t0, t1) := slotTargets k slot
    if ((k.words[slot]?).map opOfWord) = some 0x102 then arrive (arrive s g th b slot t0 (.val v)) g th b slot t1 (.val m)
    else deliver s g th b slot t0 t1 (.val v)

def dropWait (s : State) (g th b slot : Nat) : State :=
  modBlock s g th b fun k => { k with waits := k.waits.filter fun w => decide (w.1 ≠ slot) }

/-- An answer for a waiting load of a block, at byte `at_` of its value: bytes, or the cause of its page fault (R188, R346). -/
def answerBlock (s : State) (g th b slot at_ : Nat) (data : Except Nat (List Byte)) : State :=
  match block? s g th b with
  | none => s
  | some k =>
    match k.waits.findSome? fun w => if w.1 = slot then (match w.2 with | .load v m owed cut first => some (v, m, owed, cut, first) | _ => none) else none with
    | none => s
    | some (v, m, owed, cut, first) =>
      let w := (k.words[slot]?).getD 0
      let ew := Ty.width (tyOfCode (fieldOf w 48 4)) / 8
      let isLdx := decide (opOfWord w = 0x102)
      match data with
      | .error cause =>
        if !isLdx || at_ / ew ≤ first / ew then
          let a := (entryValue (entry? k slot .a))
          memFault (dropWait s g th b slot) g th b slot 8 cause (writesMem (opOfWord w)) ((lane a 0).toNat + (if isLdx then
            (elem (entryValue (entry? k slot .b)) (8 * ew) (at_ / ew)) * ew else 0))
        else
          let cut := min cut (at_ / ew * ew)
          let v := BitVec.ofNat 1024 (v.toNat % 2 ^ (8 * cut))
          let m := BitVec.ofNat 1024 (m.toNat % 2 ^ (cut / ew))
          let s := dropWait s g th b slot
          if owed ≤ 1 then deliverLoad s g th b slot v m
          else modBlock s g th b fun k => { k with waits := (slot, .load v m (owed - 1) cut first) :: k.waits }
      | .ok l =>
        let v := if at_ < cut then v ||| BitVec.ofNat 1024 (natOfBytes l * 2 ^ (8 * at_)) else v
        let s := dropWait s g th b slot
        if owed ≤ 1 then deliverLoad s g th b slot v m
        else modBlock s g th b fun k => { k with waits := (slot, .load v m (owed - 1) cut first) :: k.waits }

end Sys2Proof.Machine
end

