-- ==== Sys2Proof/Machine/Streams.lean ====
section
/-! DEFINITION. The stream-unit operations (R204-R226): scanners and their back channel, joiners, REPEAT, REDUCE, FILTER, SPLIT, the level writers and the
gate. One step of an operation handles one token, or the pair of tokens that its table names. -/

namespace Sys2Proof.Machine

/-! ## What every operation shares (R204-R209) -/

/-- The SU at the site, when it can act: its group, graph and state. -/
def suAct (s : State) (go : Nat → Nat → Nat → Group → Graph → SuState → State) : State :=
  match s.site with
  | .elem g gi tile _ =>
    match grp? s g, graph? s g gi, su? s g gi tile with
    | some x, some gr, some u => if elemLive s g gi tile && !u.st.ended && !savedCut x u.st.marks then go g gi tile x gr u.st else s
    | _, _, _ => s
  | _ => s

/-- The token at the head of a data input; a MARK is held (R208). -/
def suIn (gr : Graph) (tile i : Nat) : Option Token :=
  match portHead gr tile i with
  | some t => if kindOf t = 7 && !badToken t then none else some t
  | none => none

/-- Whether an input offers a token that any element refuses (R26). -/
def suBad (gr : Graph) (tile : Nat) (done : List Nat) (ins : List Nat) : Bool :=
  ins.any fun i => match portHead gr tile i with
    | some t => badToken t || has done i
    | none => false

/-- Whether every routed output of a list has space (R204). -/
def roomOn (gr : Graph) (tile : Nat) (outs : List Nat) : Bool := outs.all fun o => canSend gr tile o

/-- The outputs of an SU: while one that is routed has no space, the operation stalls (R204). -/
def suOuts : List Nat := [0, 1, 2, 3, 4]

/-- The outputs of an operation with every other routed data output, which carries what goes on every routed output (R207). -/
def withRouted (gr : Graph) (tile : Nat) (outs : List Nat) : List Nat := outs ++ [0, 1, 2, 3].filter fun o => !has outs o && routedOut gr tile o && !sentDone gr tile o

/-- Consume one token of an input; a sampled token that no other inherits gets its SINK record (R441). -/
def eat (s : State) (g gi tile sink : Nat) (t : Token) (inherited : Bool) : State :=
  let s := consume s g gi tile sink 1
  if inherited || !sampledOf t then s else sinkToken s g gi tile t

/-- Send one token on each of a list of outputs, inheriting from a source token (R27). -/
def put (s : State) (g gi tile : Nat) (outs : List Nat) (src t : Token) : State :=
  let t := heir src t
  outs.foldl (fun s o => send s g gi tile o [t]) s

/-- STOP or ERRSTOP. -/
def isStop (t : Token) : Bool := decide (kindOf t = 4) || decide (kindOf t = 10)
/-- The cause of an ERRSTOP. -/
def errOf (t : Token) : Option Nat := if kindOf t = 10 then some (fieldOf t.payload 0 8) else none
/-- STOP at a level, or ERRSTOP with a cause. -/
def stopTok (err : Option Nat) (level : Nat) : Token :=
  match err with
  | some c => tok kindERRSTOP level c
  | none => tok kindSTOP level 0

/-- Add to a field of STREAMERR, saturating (R209). -/
def addRangeErr (s : State) (g n : Nat) : State :=
  modGrp s g fun x => { x with streamerr := setField x.streamerr 16 16 (min 0xFFFF (fieldOf x.streamerr 16 16 + n)) }
def addOrderErr (s : State) (g n : Nat) : State :=
  modGrp s g fun x => { x with streamerr := setField x.streamerr 0 16 (min 0xFFFF (fieldOf x.streamerr 0 16 + n)) }

/-- The key of an access of n bytes at an offset in MTSEL's pad, wrapped and aligned down (R104, R205). -/
def mtKey (x : Group) (tile mt n off : Nat) : Nat := upKey (clusterOfTile x tile) (mt * 131072 + off % 131072 / n * n)

/-- n bytes of an array as a number. -/
def arrayRead (s : State) (x : Group) (tile : Nat) (f : SuFrame) (off n : Nat) : Nat := rdNum s (mtKey x tile f.mtsel.toNat n off) n
def arrayWrite (s : State) (x : Group) (tile : Nat) (f : SuFrame) (off n v : Nat) : State :=
  let k := mtKey x tile f.mtsel.toNat n off
  wrNum (eccTouch s k n true) k n v
/-- What a read of n bytes of an array finds (R110, R450). -/
def arrayTouch (s : State) (x : Group) (tile : Nat) (f : SuFrame) (off n : Nat) : State := eccTouch s (mtKey x tile f.mtsel.toNat n off) n false

/-! ## Level scanners (R210, R211) -/

/-- The four scanners. -/
inductive Scan where
  | c | b | d | l
  deriving DecidableEq, Repr

def scanNfib (f : SuFrame) : Nat := fieldOf f.param 12 20
def scanRoot (f : SuFrame) : Bool := f.param.getLsbD 0
def scanValout (f : SuFrame) : Bool := f.param.getLsbD 1

/-- seg[p]. -/
def segAt (s : State) (x : Group) (tile : Nat) (f : SuFrame) (p : Nat) : Nat := arrayRead s x tile f (f.segbase.toNat + 4 * p) 4
/-- crd[q]. -/
def crdAt (s : State) (x : Group) (tile : Nat) (f : SuFrame) (q : Nat) : Nat := arrayRead s x tile f (f.crdbase.toNat + 4 * q) 4
/-- Whether coordinate c is set in the bitmap of fibre p. -/
def bitAt (s : State) (x : Group) (tile : Nat) (f : SuFrame) (p c : Nat) : Bool :=
  (arrayRead s x tile f (f.crdbase.toNat + 8 * ((f.len.toNat + 63) / 64 * p + c / 64)) 8).testBit (c % 64)

/-- Open fibre p: the fibre, the first place to look at, and the end; none is a range error. -/
def scanOpen (k : Scan) (s : State) (x : Group) (tile : Nat) (f : SuFrame) (p : Nat) : Option (Nat × Nat × Nat) :=
  match k with
  | .c =>
    if scanNfib f ≤ p then none
    else
      let a := segAt s x tile f p
      let b := segAt s x tile f (p + 1)
      if b < a || f.len.toNat < b then none else some (p, a, b)
  | .b | .d => if scanNfib f ≤ p then none else some (p, 0, f.len.toNat)
  | .l => if f.len.toNat ≤ p then none else some (p, 0, 1)

/-- The first set bit of fibre p from c up to an end. -/
def firstBit (s : State) (x : Group) (tile : Nat) (f : SuFrame) (p c e : Nat) : Option Nat :=
  ((List.range (e - c)).map (· + c)).find? fun i => bitAt s x tile f p i

/-- The next coordinate of an open fibre, its position, and the place after it. -/
def scanNext (k : Scan) (s : State) (x : Group) (tile : Nat) (f : SuFrame) (o : Nat × Nat × Nat) : Option (Nat × Nat × Nat) :=
  let (p, c, e) := o
  match k with
  | .c => if c < e then some (crdAt s x tile f c, c, c + 1) else none
  | .b => (firstBit s x tile f p c e).map fun i =>
      (i, segAt s x tile f p + ((List.range i).filter fun j => bitAt s x tile f p j).length, i + 1)
  | .d => if c < e then some (c, (p * f.len.toNat + c) % 2 ^ 32, c + 1) else none
  | .l => if c < e then some (crdAt s x tile f p, p, c + 1) else none

/-- What the reads of one step of a scanner find: with an open fibre its next entry, with none the segment that opens fibre p (R205, R450). -/
def scanTouch (k : Scan) (s : State) (x : Group) (tile : Nat) (f : SuFrame) (o : Nat × Nat × Nat) : State :=
  let (p, c, e) := o
  let bits (s : State) (n : Nat) : State :=
    (List.range (n / 64 + 1)).foldl (fun s i => arrayTouch s x tile f (f.crdbase.toNat + 8 * ((f.len.toNat + 63) / 64 * p + i)) 8) s
  match k with
  | .c => if c < e then arrayTouch s x tile f (f.crdbase.toNat + 4 * c) 4 else s
  | .b =>
    match firstBit s x tile f p c e with
    | some i => arrayTouch (bits s i) x tile f (f.segbase.toNat + 4 * p) 4
    | none => if c < e then bits s (e - 1) else s
  | .d => s
  | .l => if c < e then arrayTouch s x tile f (f.crdbase.toNat + 4 * p) 4 else s
def openTouch (k : Scan) (s : State) (x : Group) (tile : Nat) (f : SuFrame) (p : Nat) : State :=
  if k == .c && decide (p < scanNfib f) then arrayTouch (arrayTouch s x tile f (f.segbase.toNat + 4 * p) 4) x tile f (f.segbase.toNat + 4 * (p + 1)) 4 else s

/-- The outputs of a scanner's stream. -/
def scanOuts (f : SuFrame) : List Nat := if scanValout f then [0, 1, 2] else [0, 1]

/-- A control token of a scanner goes to every output of its stream, and a stop is counted for the back channel (R211, R212). -/
def scanControl (s : State) (g gi tile : Nat) (f : SuFrame) (src t : Token) : State :=
  let s := put s g gi tile (scanOuts f) src t
  if isStop t then modSu s g gi tile fun u => { u with eCount := u.eCount + 1 } else s

/-- Open a fibre for a reference: the pending STOP leaves first (R211). A range error leaves an ERRSTOP pending. -/
def scanRef (k : Scan) (s : State) (g gi tile : Nat) (x : Group) (f : SuFrame) (u : SuState) (src : Token) (p : Option Nat) : State :=
  let lv := f.level.toNat
  let s := match u.pending with | some t => scanControl s g gi tile f src t | none => s
  match p with
  | none => modSu s g gi tile fun u => { u with pending := some (stopTok none lv), dupA := some src }
  | some p =>
    let s := openTouch k s x tile f p
    match scanOpen k s x tile f p with
    | some o => modSu s g gi tile fun u => { u with openFib := some o, pending := none, dupA := some src }
    | none => addRangeErr (modSu s g gi tile fun u => { u with pending := some (stopTok (some 2) lv), dupA := some src }) g 1

/-- The scanner's stream ends: the pending STOP, DONE on every routed output; with a back channel it still reads that (R211). -/
def scanDone (s : State) (g gi tile : Nat) (gr : Graph) (f : SuFrame) (u : SuState) (src : Token) : State :=
  let s := match u.pending with | some t => scanControl s g gi tile f src t | none => s
  let s := put s g gi tile (withRouted gr tile [0, 1, 2]) src (tok kindDONE 0 0)
  modSu s g gi tile fun v => { v with pending := none, inDone := [0], ended := !f.bcin || v.backDone }

/-- One step of a scanner. -/
def scan (k : Scan) (f : SuFrame) (s : State) : State :=
  suAct s fun g gi tile x gr u =>
    if !roomOn gr tile suOuts then s
    else match u.openFib with
      | some o =>
        let s := scanTouch k s x tile f o
        match scanNext k s x tile f o with
        | some (c, q, n) =>
          let src := u.dupA.getD (tok 0 0 0)
          let s := put s g gi tile [0] src (tok kindCRD 0 (c % 2 ^ 32 + q % 2 ^ 32 * 2 ^ 32))
          let s := put s g gi tile [1] src (tok kindREF 0 q)
          let s := if scanValout f then put (arrayTouch s x tile f (f.valbase.toNat + 8 * q) 8) g gi tile [2] src (tok kindVAL 0 (arrayRead s x tile f (f.valbase.toNat + 8 * q) 8)) else s
          modSu s g gi tile fun u => { u with openFib := some (o.1, n, o.2.2) }
        | none => modSu (wake s g) g gi tile fun u => { u with openFib := none, pending := some (stopTok none f.level.toNat) }
      | none =>
        if has u.inDone 0 then (if suBad gr tile u.inDone [0] then elemFreeze s g gi tile TOKEN_BAD else s)
        else if scanRoot f then
          if u.n = 0 then scanRef k (modSu s g gi tile fun u => { u with n := 1 }) g gi tile x f u (tok kindREF 0 0) (some 0)
          else scanDone s g gi tile gr f u (tok 0 0 0)
        else if suBad gr tile u.inDone [0] then elemFreeze s g gi tile TOKEN_BAD
        else match suIn gr tile 0 with
          | none => s
          | some t =>
            if kindOf t = 3 then scanRef k (eat s g gi tile 0 t true) g gi tile x f u t (some t.payload.toNat)
            else if isEmpty t then scanRef k (eat s g gi tile 0 t true) g gi tile x f u t none
            else if isStop t then
              let lv := f.level.toNat + 1 + levelOf t
              if 7 < lv then elemFreeze s g gi tile TOKEN_ALIGN
              else
                let e := match u.pending.bind errOf with | some c => some c | none => errOf t
                modSu (scanControl (eat s g gi tile 0 t true) g gi tile f t (stopTok e lv)) g gi tile fun u => { u with pending := none }
            else if kindOf t = 5 then scanDone (eat s g gi tile 0 t true) g gi tile gr f u t
            else elemFreeze s g gi tile TOKEN_ALIGN

def execScanc (f : SuFrame) (s : State) : Host.Outcome State Fault Refusal := .next (scan .c f s)
def execScanb (f : SuFrame) (s : State) : Host.Outcome State Fault Refusal := .next (scan .b f s)
def execScand (f : SuFrame) (s : State) : Host.Outcome State Fault Refusal := .next (scan .d f s)
def execScanl (f : SuFrame) (s : State) : Host.Outcome State Fault Refusal := .next (scan .l f s)

/-! ## SKIP and galloping (R212, R214) -/

/-- The doubling probes of SCANC: lo and step when they end. -/
def gallopUp (crd : Nat → Nat) (t e : Nat) : Nat → Nat → Nat → Nat × Nat
  | 0, lo, step => (lo, step)
  | fuel + 1, lo, step => if lo + step < e && crd (lo + step) < t then gallopUp crd t e fuel (lo + step) (2 * step) else (lo, step)

/-- The halving probes of SCANC: hi when they end. -/
def gallopDown (crd : Nat → Nat) (t : Nat) : Nat → Nat → Nat → Nat
  | 0, _, hi => hi
  | fuel + 1, lo, hi =>
    if hi - lo ≤ 1 then hi
    else
      let mid := (lo + hi) / 2
      if crd mid < t then gallopDown crd t fuel mid hi else gallopDown crd t fuel lo mid

/-- Where SCANC resumes (R214). -/
def gallopC (crd : Nat → Nat) (t q e : Nat) : Nat :=
  if q = e || t ≤ crd q then q
  else
    let (lo, step) := gallopUp crd t e 40 q 1
    gallopDown crd t 40 lo (if lo + step < e then lo + step else e)

/-- Where an open fibre resumes on an applicable SKIP. A place already passed is never gone back to. -/
def gallop (op : Nat) (s : State) (x : Group) (tile : Nat) (f : SuFrame) (o : Nat × Nat × Nat) (t : Nat) : Nat × Nat × Nat :=
  let (p, c, e) := o
  if op = 0x200 then (p, gallopC (crdAt s x tile f) t c e, e)
  else if op = 0x201 || op = 0x202 then (p, if c < t then min t e else c, e)
  else o

/-- A scanner reads one token of its back channel (R212). (Model: DEDUCED, safe: notes/assumptions 16) -/
def execSkip (g gi tile : Nat) (s : State) : Host.Outcome State Fault Refusal :=
  .next (match grp? s g, graph? s g gi, su? s g gi tile with
    | some x, some gr, some u =>
      let f := suFrameOf u.frame
      let op := fieldOf u.frame 0 10
      if !elemLive s g gi tile || !f.bcin || u.st.ended || savedCut x u.st.marks then s
      else match portHead gr tile 3 with
        | none => s
        | some t =>
          let back := u.st.backDone
          if back || 11 ≤ kindOf t then elemFreeze s g gi tile TOKEN_BAD
          -- the MARK of a breakpoint on the back channel stays ahead of its token (R446)
          else if kindOf t = 7 && x.cutWhy.isSome then s
          else if kindOf t = 4 && levelOf t = 0 then
            modSu (eat s g gi tile 3 t false) g gi tile fun u => { u with aCount := u.aCount + 1 }
          else if kindOf t = 5 then
            modSu (eat s g gi tile 3 t false) g gi tile fun u => { u with backDone := true, ended := has u.inDone 0 }
          else if kindOf t = 9 && levelOf t = f.level.toNat then
            let s := eat s g gi tile 3 t false
            match u.st.openFib with
            | some o =>
              if u.st.aCount = u.st.eCount then
                modSu s g gi tile fun u => { u with openFib := some (gallop op s x tile f o (fieldOf t.payload 0 32)) }
              else s
            | none => s
          else elemFreeze s g gi tile TOKEN_ALIGN
    | _, _, _ => s)

/-! ## Joiners (R213, R215-R217, R42) -/

/-- The operator of a REDOP code on w-bit patterns, w 64 for VAL and 32 for CV (R217). -/
def redopFn (code w a b : Nat) : Nat :=
  let ti : Ty := if w = 64 then .i64 else .i32
  let tf : Ty := if w = 64 then .f64 else .f32
  match code with
  | 0 => (a + b) % 2 ^ w
  | 1 => lowNat w (min (decodeI ti a) (decodeI ti b))
  | 2 => lowNat w (max (decodeI ti a) (decodeI ti b))
  | 3 => min a b
  | 4 => max a b
  | 5 => a &&& b
  | 6 => a ||| b
  | 7 => a ^^^ b
  | 8 => (minMaxF tf false a b).1
  | _ => (minMaxF tf true a b).1

/-- Two tokens of one coordinate joined under DUPPOL, a first (R216). -/
def dupJoin (f : SuFrame) (a b : Token) : Token :=
  match f.duppol.toNat with
  | 0 => a
  | 1 => b
  | _ => if kindOf a = 1 && kindOf b = 1 then
      { a with payload := setField a.payload 0 32 (redopFn f.redop.toNat 32 (fieldOf a.payload 0 32) (fieldOf b.payload 0 32)) }
    else a

/-- The three joiners. -/
inductive Join where
  | isect | union | merge
  deriving DecidableEq, Repr

/-- CRD or CV: a token with a coordinate. -/
def hasCoord (t : Token) : Bool := decide (kindOf t = 1) || decide (kindOf t = 2)

def skipSide (f : SuFrame) : Nat := if f.param.getLsbD 0 then 1 else 0

/-- A joiner's side takes its head: the token itself, or the joined run of duplicates, which is consumed already. -/
def takeValue (s : State) (g gi tile : Nat) (f : SuFrame) (side : Nat) (t : Token) (inherited : Bool) : State :=
  let s := if f.strict then eat s g gi tile side t inherited
    else if inherited || !sampledOf t then s else sinkToken s g gi tile t
  modSu s g gi tile fun u =>
    if side = 0 then { u with lastA := some (coordOf t), dupA := none } else { u with lastB := some (coordOf t), dupB := none }

/-- A joiner's side takes a control token; the back channel hears of stops and DONE on the skip side (R212). (Model: DEDUCED, unsafe: notes/assumptions 38) -/
def takeControl (s : State) (g gi tile : Nat) (f : SuFrame) (bc : Bool) (side : Nat) (t : Token) : State :=
  let s := eat s g gi tile side t true
  let s := modSu s g gi tile fun u =>
    let u := if kindOf t = 8 then u
      else if side = 0 then { u with lastA := none, dupA := none } else { u with lastB := none, dupB := none }
    let u := if kindOf t = 5 then { u with inDone := side :: u.inDone } else u
    if bc && side == skipSide f && kindOf t ≠ 8 then { u with skipOut := none } else u
  if bc && side == skipSide f then
    if isStop t then put s g gi tile [4] t (tok kindSTOP 0 0)
    else if kindOf t = 5 then put s g gi tile [4] t (tok kindDONE 0 0)
    else s
  else s

/-- Pass a control token on every output of a joiner. -/
def joinPass (s : State) (g gi tile : Nat) (src t : Token) : State :=
  match graph? s g gi with
  | some gr => put s g gi tile (withRouted gr tile [0, 1, 2]) src t
  | none => s

/-- One side delivers its head while the other has none to offer. -/
def joinOne (k : Join) (s : State) (g gi tile : Nat) (f : SuFrame) (side : Nat) (t : Token) : State :=
  match k with
  | .isect => takeValue s g gi tile f side t false
  | .union =>
    let s := takeValue s g gi tile f side t true
    let s := put s g gi tile [side] t t
    let s := put s g gi tile [1 - side] t (tok kindEMPTY 0 0)
    put s g gi tile [2] t (tok kindCRD 0 (coordOf t))
  | .merge => put (takeValue s g gi tile f side t true) g gi tile [0] t t

/-- Both sides deliver equal coordinates. -/
def joinBoth (k : Join) (s : State) (g gi tile : Nat) (f : SuFrame) (a b : Token) : State :=
  let s := takeValue (takeValue s g gi tile f 0 a true) g gi tile f 1 b true
  match k with
  | .merge =>
    if f.param.getLsbD 1 then put s g gi tile [0] a (dupJoin f a b)
    else put (put s g gi tile [0] a a) g gi tile [0] b b
  | _ => put (put (put s g gi tile [0] a a) g gi tile [1] b b) g gi tile [2] a (tok kindCRD 0 (coordOf a))

/-- The SKIP that a compare of the skip side's s and the other side's o sends, and the target then outstanding (R213). -/
def skipAt (f : SuFrame) (out : Option Nat) (sv o : Nat) : Option Nat × Bool :=
  let out := match out with | some t => if t ≤ sv then none else some t | none => none
  if sv < o && decide (fieldOf f.param 16 16 ≤ o - sv) && out.isNone then (some o, true) else (out, false)

/-- The compare of two coordinates. -/
def joinCompare (k : Join) (s : State) (g gi tile : Nat) (f : SuFrame) (u : SuState) (a b : Token) : State :=
  let bc := k == .isect && f.bcout
  let ca := coordOf a
  let cb := coordOf b
  let s := if bc then
      let (sv, o) := if skipSide f = 0 then (ca, cb) else (cb, ca)
      let (out, sends) := skipAt f u.skipOut sv o
      let s := modSu s g gi tile fun u => { u with skipOut := out }
      if sends then put s g gi tile [4] a (tok kindSKIP f.level.toNat o) else s
    else s
  if ca < cb then joinOne k s g gi tile f 0 a
  else if cb < ca then joinOne k s g gi tile f 1 b
  else joinBoth k s g gi tile f a b

/-- The heads of both sides resolved (R42, R215). -/
def joinResolve (k : Join) (s : State) (g gi tile : Nat) (f : SuFrame) (u : SuState) (a b : Token) : State :=
  let bc := k == .isect && f.bcout
  let took (s : State) : State := takeControl (takeControl s g gi tile f bc 0 a) g gi tile f bc 1 b
  let clear (s : State) : State := modSu s g gi tile fun u => { u with errClose := false }
  let own : Option Nat := if u.errClose then some 1 else none
  if hasCoord a && hasCoord b then joinCompare k s g gi tile f u a b
  else if hasCoord a then joinOne k s g gi tile f 0 a
  else if hasCoord b then joinOne k s g gi tile f 1 b
  else if isStop a && isStop b then
    if levelOf a ≠ levelOf b then elemFreeze s g gi tile TOKEN_ALIGN
    else
      let e := match own with | some c => some c | none => match errOf a with | some c => some c | none => errOf b
      clear (joinPass (took s) g gi tile a (stopTok e (levelOf a)))
  else if kindOf a = 5 && kindOf b = 5 then
    modSu (clear (joinPass (took s) g gi tile a (tok kindDONE 0 0))) g gi tile fun u => { u with ended := true }
  else
    let (side, t) := if kindOf a = 5 then (1, b) else (0, a)
    let e := match own with | some c => some c | none => errOf t
    clear (joinPass (takeControl s g gi tile f bc side t) g gi tile t (stopTok e (levelOf t)))

/-- Read a coordinate of a side under the lenient policy: a run of duplicates gathers; a descending one closes the fibre in error (R216). -/
def absorb (s : State) (g gi tile : Nat) (f : SuFrame) (side : Nat) (dup : Option Token) (last : Option Nat) (k : Nat) (t : Token) : State :=
  let s := consumeAt s g gi tile side k
  match dup with
  | some d => modSu s g gi tile fun u => if side = 0 then { u with dupA := some (dupJoin f d t) } else { u with dupB := some (dupJoin f d t) }
  | none =>
    if last.any fun l => decide (coordOf t < l) then
      addOrderErr (modSu s g gi tile fun u => { u with errClose := true, dupA := none, dupB := none }) g 1
    else modSu s g gi tile fun u => if side = 0 then { u with dupA := some t } else { u with dupB := some t }

/-- Where the next coordinate of a side's run of duplicates stands: at the head, or behind SCALE tokens, which pass when the run has joined (R42, R216). -/
def runNext (gr : Graph) (tile side : Nat) : Option (Nat × Token) :=
  let l := portTokens gr tile side
  let k := (l.takeWhile fun t => decide (kindOf t = 8)).length
  (l[k]?).map fun t => (k, t)

/-- One step of a joiner. -/
def joinStep (k : Join) (f : SuFrame) (s : State) : State :=
  suAct s fun g gi tile _ gr u =>
    let wrong (t : Option Token) : Bool := t.any fun t => decide (kindOf t = 0 ∨ kindOf t = 3) || isEmpty t
    let bc := k == .isect && f.bcout
    if !roomOn gr tile suOuts then s
    else if suBad gr tile u.inDone [0, 1] then elemFreeze s g gi tile TOKEN_BAD
    else
      let done (i : Nat) : Option Token := if has u.inDone i then some (tok kindDONE 0 0) else none
      let pa := (suIn gr tile 0).or (done 0)
      let pb := (suIn gr tile 1).or (done 1)
      if wrong pa || wrong pb then elemFreeze s g gi tile TOKEN_ALIGN
      else if f.strict && ((pa.any fun t => hasCoord t && u.lastA.any fun l => decide (coordOf t ≤ l))
          || (pb.any fun t => hasCoord t && u.lastB.any fun l => decide (coordOf t ≤ l))) then elemFreeze s g gi tile STREAM_ORDER
      else
        -- in error, both sides' values are discarded up to their closing tokens
        let discard (side : Nat) (t : Token) : State :=
          modSu (eat s g gi tile side t false) g gi tile fun u => if side = 0 then { u with dupA := none } else { u with dupB := none }
        let gathers (side : Nat) (dup : Option Token) : Option (Nat × Token) :=
          if f.strict || u.errClose then none
          else (runNext gr tile side).bind fun (k, t) =>
            if hasCoord t && (match dup with | none => decide (k = 0) | some d => decide (coordOf d = coordOf t)) then some (k, t) else none
        -- a run that a SCALE follows waits for the token behind it
        let waits (side : Nat) (dup : Option Token) (p : Option Token) : Bool :=
          !f.strict && !u.errClose && dup.isSome && (p.any fun t => decide (kindOf t = 8)) && (runNext gr tile side).isNone
        if waits 0 u.dupA pa || waits 1 u.dupB pb then s
        else match pa, pb with
        | some a, _ => if kindOf a = 8 && (f.strict || u.dupA.isNone) then
              joinPass (takeControl s g gi tile f bc 0 a) g gi tile a a
            else if u.errClose && hasCoord a then discard 0 a
            else match gathers 0 u.dupA with
            | some (k, t) => absorb s g gi tile f 0 u.dupA u.lastA k t
            | none => match pb with
              | none => s
              | some b =>
                if kindOf b = 8 && (f.strict || u.dupB.isNone) then joinPass (takeControl s g gi tile f bc 1 b) g gi tile b b
                else if u.errClose && hasCoord b then discard 1 b
                else match gathers 1 u.dupB with
                | some (k, t) => absorb s g gi tile f 1 u.dupB u.lastB k t
                | none => joinResolve k s g gi tile f u ((if f.strict then none else u.dupA).getD a) ((if f.strict then none else u.dupB).getD b)
        | none, some b =>
          if kindOf b = 8 && (f.strict || u.dupB.isNone) then joinPass (takeControl s g gi tile f bc 1 b) g gi tile b b
          else if u.errClose && hasCoord b then discard 1 b
          else match gathers 1 u.dupB with
            | some (k, t) => absorb s g gi tile f 1 u.dupB u.lastB k t
            | none => s
        | none, none => s

def execIsect (f : SuFrame) (s : State) : Host.Outcome State Fault Refusal := .next (joinStep .isect f s)
def execUnion (f : SuFrame) (s : State) : Host.Outcome State Fault Refusal := .next (joinStep .union f s)
def execMerge (f : SuFrame) (s : State) : Host.Outcome State Fault Refusal := .next (joinStep .merge f s)

/-! ## REPEAT, REDUCE, FILTER, SPLIT (R218-R221) -/

/-- A value kind or EMPTY. -/
def isData (t : Token) : Bool := isValue t || isEmpty t

/-- The operation has consumed DONE on every routed data input: DONE leaves on its outputs and on every other routed one (R207). -/
def suEnd (s : State) (g gi tile : Nat) (gr : Graph) (ins outs : List Nat) (src : Token) : State :=
  modSu (put s g gi tile (withRouted gr tile outs) src (tok kindDONE 0 0)) g gi tile fun u => { u with inDone := ins ++ u.inDone, ended := true }

def repeatStep (s : State) : State :=
  suAct s fun g gi tile _ gr u =>
    if !roomOn gr tile suOuts then s
    else if suBad gr tile u.inDone [0, 1] then elemFreeze s g gi tile TOKEN_BAD
    else match suIn gr tile 0, suIn gr tile 1 with
      | some h, some t =>
        if isData h && isData t then put (eat s g gi tile 1 t false) g gi tile [0] h h
        else if isData h && isStop t && levelOf t = 0 then
          put (eat (eat s g gi tile 0 h true) g gi tile 1 t true) g gi tile [0] h (stopTok (errOf t) 0)
        else if isData h && isStop t then
          match (portTokens gr tile 0)[1]? with
          | none => s
          | some n =>
            if badToken n then elemFreeze s g gi tile TOKEN_BAD
            else if kindOf n = 7 then s
            else if isStop n && levelOf n + 1 = levelOf t then
              let e := match errOf n with | some c => some c | none => errOf t
              put (eat (eat (eat s g gi tile 0 h true) g gi tile 0 n true) g gi tile 1 t true) g gi tile [0] h (stopTok e (levelOf t))
            else elemFreeze s g gi tile TOKEN_ALIGN
        else if kindOf h = 5 && kindOf t = 5 then
          suEnd (eat (eat s g gi tile 0 h true) g gi tile 1 t true) g gi tile gr [0, 1] [0] h
        else elemFreeze s g gi tile TOKEN_ALIGN
      | _, _ => s

def execRepeatOp (_ : SuFrame) (s : State) : Host.Outcome State Fault Refusal := .next (repeatStep s)

/-- Fold a value token into a fibre's result; none is a mixed fibre (R219). -/
def foldToken (code : Nat) (acc : Option Token) (t : Token) : Option Token :=
  match acc with
  | none => if kindOf t = 0 || kindOf t = 1 then some t else none
  | some a =>
    if kindOf a ≠ kindOf t then none
    else if code = 10 then some a
    else if kindOf t = 0 then some { a with payload := BitVec.ofNat 64 (redopFn code 64 a.payload.toNat t.payload.toNat) }
    else some { a with payload := setField a.payload 0 32 (redopFn code 32 (fieldOf a.payload 0 32) (fieldOf t.payload 0 32)) }

/-- Send a fibre's result, or EMPTY. -/
def sendFold (s : State) (g gi tile code : Nat) (u : SuState) (src : Token) (drop : Bool) : State :=
  let s := match u.fold, drop with
    | some a, false => put s g gi tile [0] a (if code = 10 then tok kindVAL 0 u.cnt else tok (kindOf a) 0 a.payload.toNat)
    | _, _ => put s g gi tile [0] src (tok kindEMPTY 0 0)
  modSu s g gi tile fun u => { u with fold := none, cnt := 0 }

def reduceStep (f : SuFrame) (s : State) : State :=
  suAct s fun g gi tile _ gr u =>
    let code := f.redop.toNat
    if !roomOn gr tile suOuts then s
    else if suBad gr tile u.inDone [0] then elemFreeze s g gi tile TOKEN_BAD
    else match suIn gr tile 0 with
      | none => s
      | some t =>
        if isValue t then
          match foldToken code u.fold t with
          | none => elemFreeze s g gi tile TOKEN_ALIGN
          | some a => modSu (eat s g gi tile 0 t u.fold.isNone) g gi tile fun u => { u with fold := some a, cnt := u.cnt + 1 }
        else if isEmpty t then eat s g gi tile 0 t false
        else if isStop t then
          let s := eat s g gi tile 0 t true
          if levelOf t = 0 then
            let s := sendFold s g gi tile code u t (kindOf t = 10)
            modSu s g gi tile fun u => { u with err := match u.err, errOf t with | some e, _ => some e | none, some c => some (BitVec.ofNat 8 c) | none, none => none }
          else
            let e := match u.err with | some c => some c.toNat | none => errOf t
            let s := put (sendFold s g gi tile code u t false) g gi tile [0] t (stopTok e (levelOf t - 1))
            modSu s g gi tile fun u => { u with err := none }
        else if kindOf t = 5 then
          let s := eat s g gi tile 0 t true
          let s := if u.fold.isSome then sendFold s g gi tile code u t false else s
          suEnd s g gi tile gr [0] [0] t
        else elemFreeze s g gi tile TOKEN_ALIGN

def execReduce (f : SuFrame) (s : State) : Host.Outcome State Fault Refusal := .next (reduceStep f s)

def filterStep (f : SuFrame) (s : State) : State :=
  suAct s fun g gi tile _ gr u =>
    let two := routedIn gr tile 1
    if !roomOn gr tile suOuts then s
    else if suBad gr tile u.inDone [0, 1] then elemFreeze s g gi tile TOKEN_BAD
    else match suIn gr tile 0, (if two then suIn gr tile 1 else some (tok kindVAL 0 1)) with
      | some t, some p =>
        let take (kept : Bool) : State :=
          let s := eat s g gi tile 0 t kept
          if two then eat s g gi tile 1 p (kept && sampledOf t) else s
        if isValue t && isData p then
          if isValue p && p.payload ≠ 0 then put (take true) g gi tile [0] t t else take false
        else if isEmpty t && isData p then
          if f.param.getLsbD 0 then take false else put (take true) g gi tile [0] t (tok kindEMPTY 0 0)
        else if isControl t && (!two || sameControl t p) then
          if kindOf t = 5 then suEnd (take true) g gi tile gr [0, 1] [0] t else put (take true) g gi tile [0] t t
        else elemFreeze s g gi tile TOKEN_ALIGN
      | _, _ => s

def execFilter (f : SuFrame) (s : State) : Host.Outcome State Fault Refusal := .next (filterStep f s)

def splitStep (f : SuFrame) (s : State) : State :=
  suAct s fun g gi tile _ gr u =>
    let nout := fieldOf f.param 5 2 + 1
    let outs := List.range nout
    if !roomOn gr tile suOuts then s
    else if suBad gr tile u.inDone [0] then elemFreeze s g gi tile TOKEN_BAD
    else match suIn gr tile 0 with
      | none => s
      | some t =>
        if isValue t then
          let key := if hasCoord t then coordOf t else fieldOf t.payload 0 32
          put (eat s g gi tile 0 t true) g gi tile [(key >>> fieldOf f.param 0 5) % nout] t t
        else if isEmpty t then eat s g gi tile 0 t false
        else
          let s := eat s g gi tile 0 t true
          if kindOf t = 5 then suEnd s g gi tile gr [0] outs t else put s g gi tile outs t t

def execSplit (f : SuFrame) (s : State) : Host.Outcome State Fault Refusal := .next (splitStep f s)

/-! ## Level writers (R222, R223) -/

/-- The three level writers. -/
inductive Lwr where
  | c | b | d
  deriving DecidableEq, Repr

/-- LWRB's words of a fibre. -/
def lwrWords (f : SuFrame) : Nat := (f.len.toNat + 63) / 64

/-- What a writer does before the first token or close of a fibre: LWRC writes seg[0] once; LWRB zeroes the fibre's words and writes seg[f]. -/
def lwrOpen (k : Lwr) (s : State) (g gi tile : Nat) (x : Group) (f : SuFrame) (u : SuState) : State :=
  if u.zeroed then s
  else
    let s := modSu s g gi tile fun u => { u with zeroed := true }
    match k with
    | .c => if u.fibre = 0 then arrayWrite s x tile f f.segbase.toNat 4 0 else s
    | .b =>
      let w := lwrWords f
      let s := (List.range w).foldl (fun s i => arrayWrite s x tile f (f.crdbase.toNat + 8 * (w * u.fibre + i)) 8 0) s
      arrayWrite s x tile f (f.segbase.toNat + 4 * u.fibre) 4 u.n
    | .d => s

/-- A coordinate, or for LWRD a value or EMPTY, is written; an index outside the array adds to RANGEERR. -/
def lwrEntry (k : Lwr) (s : State) (g gi tile : Nat) (x : Group) (f : SuFrame) (u : SuState) (t : Token) : State :=
  let count (s : State) : State := modSu s g gi tile fun u => { u with n := u.n + 1, openVals := true }
  let refused : State := addRangeErr (modSu s g gi tile fun u => { u with openVals := true }) g 1
  match k with
  | .c => if u.n < f.len.toNat then count (arrayWrite s x tile f (f.crdbase.toNat + 4 * u.n) 4 (coordOf t)) else refused
  | .b =>
    let c := coordOf t
    if c < f.len.toNat then
      let off := f.crdbase.toNat + 8 * (lwrWords f * u.fibre + c / 64)
      count (arrayWrite (arrayTouch s x tile f off 8) x tile f off 8 (arrayRead s x tile f off 8 ||| 2 ^ (c % 64)))
    else refused
  | .d => if u.n < f.len.toNat then count (arrayWrite s x tile f (f.valbase.toNat + 8 * u.n) 8 (if isEmpty t then 0 else t.payload.toNat)) else refused

/-- A level-0 fibre closes. -/
def lwrClose (k : Lwr) (s : State) (g gi tile : Nat) (x : Group) (f : SuFrame) (u : SuState) (err : Bool) : State :=
  let s := match k with
    | .c => arrayWrite s x tile f (f.segbase.toNat + 4 * (u.fibre + 1)) 4 u.n
    | _ => s
  modSu s g gi tile fun u =>
    { u with fibre := u.fibre + 1, zeroed := k == .c, openVals := false, errFibres := u.errFibres + boolBit err }

/-- Model: DEDUCED, unsafe: notes/assumptions 34. -/
def lwrStep (k : Lwr) (f : SuFrame) (s : State) : State :=
  suAct s fun g gi tile x gr u =>
    if !roomOn gr tile suOuts then s
    else if suBad gr tile u.inDone [0] then elemFreeze s g gi tile TOKEN_BAD
    else match suIn gr tile 0 with
      | none => s
      | some t =>
        let writes := if k = .d then isData t else hasCoord t
        let passed := k ≠ .d && isEmpty t
        if passed then eat s g gi tile 0 t false
        else if !writes && !isStop t && kindOf t ≠ 5 then elemFreeze s g gi tile TOKEN_ALIGN
        else
          let s := modSu (eat s g gi tile 0 t (kindOf t = 5 || u.dupA.isNone)) g gi tile fun u => { u with dupA := u.dupA.or (some t) }
          if writes then lwrEntry k (lwrOpen k s g gi tile x f u) g gi tile x f u t
          else if isStop t then lwrClose k (lwrOpen k s g gi tile x f u) g gi tile x f u (kindOf t = 10)
          else
            let s := if k = .c then lwrOpen k s g gi tile x f u else s
            let closes := u.openVals && k ≠ .d
            let s := if closes then lwrClose k s g gi tile x f u false else s
            let s := if k = .b then arrayWrite s x tile f (f.segbase.toNat + 4 * (u.fibre + boolBit closes)) 4 u.n else s
            let src := u.dupA.getD t
            let s := put s g gi tile [0] src (tok kindVAL 0 (u.n % 2 ^ 32 + u.errFibres % 2 ^ 32 * 2 ^ 32))
            suEnd s g gi tile gr [0] [0] t

def execLwrc (f : SuFrame) (s : State) : Host.Outcome State Fault Refusal := .next (lwrStep .c f s)
def execLwrb (f : SuFrame) (s : State) : Host.Outcome State Fault Refusal := .next (lwrStep .b f s)
def execLwrd (f : SuFrame) (s : State) : Host.Outcome State Fault Refusal := .next (lwrStep .d f s)

/-! ## The gate (R224-R226) -/

/-- Whether the gate can send one token towards O0: to the channel when the ring is empty, or into the ring. -/
def gateRoom (f : SuFrame) (gr : Graph) (tile : Nat) (u : SuState) : Bool :=
  (u.spill == 0 && canSend gr tile 0) || decide (u.spill < f.len.toNat)

/-- Send a token towards O0: through the spill ring when it holds any, or when O0 has no space. (Model: DEDUCED, unsafe: notes/assumptions 40) -/
def gateSend (s : State) (g gi tile : Nat) (x : Group) (f : SuFrame) (gr : Graph) (u : SuState) (src t : Token) : State :=
  if u.spill = 0 && canSend gr tile 0 then put s g gi tile [0] src t
  else
    let i := (u.spillHead + u.spill) % max 1 f.len.toNat
    let t := { t with tag := (t.tag &&& 0xFE) ||| (src.tag &&& 1) }
    let s := arrayWrite s x tile f (f.valbase.toNat + 16 * i) 16 (t.payload.toNat + t.tag.toNat * 2 ^ 64)
    modSu s g gi tile fun u => { u with spill := u.spill + 1 }

/-- The entries of a gate's spill ring, oldest first, and the ring as they make it: what a cut saves with the gate (R226). -/
def ringEntries (s : State) (x : Group) (tile : Nat) (f : SuFrame) (u : SuState) : List Nat :=
  (List.range u.spill).map fun i => arrayRead s x tile f (f.valbase.toNat + 16 * ((u.spillHead + i) % max 1 f.len.toNat)) 16
def ringRestore (s : State) (x : Group) (tile : Nat) (f : SuFrame) (u : SuState) : State :=
  u.ring.zipIdx.foldl (fun s (v, i) => arrayWrite s x tile f (f.valbase.toNat + 16 * ((u.spillHead + i) % max 1 f.len.toNat)) 16 v) s

/-- The token that the gate has at an input: on I1 those that a cut has made it record come first (R226). -/
def gateIn (gr : Graph) (tile : Nat) (u : SuState) (i : Nat) : Option Token := if i = 1 then (u.recorded.head?).or (suIn gr tile 1) else suIn gr tile i

/-- The gate consumes that token. -/
def gateEat (s : State) (g gi tile : Nat) (u : SuState) (i : Nat) (t : Token) (inherited : Bool) : State :=
  if i = 1 && !u.recorded.isEmpty then
    let s := modSu s g gi tile fun u => { u with recorded := u.recorded.drop 1 }
    if inherited || !sampledOf t then s else sinkToken s g gi tile t
  else eat s g gi tile i t inherited

/-- Move the oldest spilled token to O0. -/
def gateDrain (s : State) (g gi tile : Nat) (x : Group) (f : SuFrame) (u : SuState) : State :=
  let v := arrayRead s x tile f (f.valbase.toNat + 16 * u.spillHead) 16
  let t : Token := { payload := BitVec.ofNat 64 v, tag := BitVec.ofNat 8 (v / 2 ^ 64), log := none }
  modSu (send (arrayTouch s x tile f (f.valbase.toNat + 16 * u.spillHead) 16) g gi tile 0 [t]) g gi tile fun u => { u with spill := u.spill - 1, spillHead := (u.spillHead + 1) % max 1 f.len.toNat }

/-- The marker of an epoch (R225): the next epoch, or the drain. -/
def gateEpoch (s : State) (g gi tile : Nat) (x : Group) (f : SuFrame) (gr : Graph) (u : SuState) (t : Token) : State :=
  if u.cnt = 0 then
    modSu (gateSend s g gi tile x f gr u t (tok kindDONE 0 0)) g gi tile fun u => { u with gate := .drain }
  else
    let s := gateSend s g gi tile x f gr u t (stopTok (errOf t) f.level.toNat)
    modSu (put s g gi tile [1] t (tok kindVAL 0 u.cnt)) g gi tile fun u => { u with cnt := 0, gate := .loop }

/-- The gate takes a token of input i, in SEED i 0 and in LOOP and DRAIN i 1. EMPTY is dropped in every state (R224). (Model: DEDUCED, unsafe: notes/assumptions 139) -/
def gateTake (s : State) (g gi tile : Nat) (x : Group) (f : SuFrame) (gr : Graph) (u : SuState) (i : Nat) (t : Token) : State :=
  let lv := f.level.toNat
  let align : State := elemFreeze s g gi tile TOKEN_ALIGN
  if isEmpty t then gateEat s g gi tile u i t false
  else if u.gate = .drain then
    if i = 1 && kindOf t = 5 then
      if roomOn gr tile [1, 2, 3] then suEnd (gateEat s g gi tile u 1 t true) g gi tile gr [1] [1] t else s
    else align
  else if isValue t then
    if gateRoom f gr tile u then
      modSu (gateSend (gateEat s g gi tile u i t true) g gi tile x f gr u t t) g gi tile fun u => { u with cnt := u.cnt + 1 }
    else s
  else if isStop t && levelOf t < lv then
    if gateRoom f gr tile u then gateSend (gateEat s g gi tile u i t true) g gi tile x f gr u t t else s
  else if i = 0 && kindOf t = 5 then
    if gateRoom f gr tile u && canSend gr tile 1 then
      gateEpoch (modSu (eat s g gi tile 0 t true) g gi tile fun u => { u with inDone := 0 :: u.inDone }) g gi tile x f gr u t
    else s
  else if i = 1 && isStop t && levelOf t = lv then
    if gateRoom f gr tile u && canSend gr tile 1 then gateEpoch (gateEat s g gi tile u 1 t true) g gi tile x f gr u t else s
  else align

/-- One step of the gate. A cut does not hold it back (R226). -/
def gateStep (f : SuFrame) (s : State) : State :=
  match s.site with
  | .elem g gi tile _ =>
    match grp? s g, graph? s g gi, su? s g gi tile with
    | some x, some gr, some su =>
      let u := su.st
      if !elemLive s g gi tile || (u.ended && u.spill == 0) then s
      else if u.spill ≠ 0 && canSend gr tile 0 then gateDrain s g gi tile x f u
      else if u.ended then s
      else
        let i := if u.gate = .seed then 0 else 1
        if suBad gr tile u.inDone [0, 1] then elemFreeze s g gi tile TOKEN_BAD
        else match gateIn gr tile u i with
          | none => s
          | some t => gateTake s g gi tile x f gr u i t
    | _, _, _ => s
  | _ => s

/-- Model: DEDUCED, safe: notes/assumptions 15. -/
def execGate (f : SuFrame) (s : State) : Host.Outcome State Fault Refusal := .next (gateStep f s)

end Sys2Proof.Machine
end

