-- ==== Sys2Proof/Machine/Matrix.lean ====
section
/-! DEFINITION. Matrix cells (R239-R252): sweeps, the A stream, K-blocks, accumulators and the drain. -/

namespace Sys2Proof.Machine

/-! ## Accumulators (R242, R254) -/

/-- The 36 bits of entry (i, j) of an accumulator of a cell. -/
def accGet (x : Group) (tile acc i j : Nat) : BitVec 36 := Tab.get (Tab.get x.image.accs tile []) (1024 * acc + 32 * i + j) 0

/-- Write every entry of an accumulator; a zero entry is not listed. -/
def accPut (t : Tab (BitVec 36)) (acc : Nat) (v : Nat → BitVec 36) : Tab (BitVec 36) :=
  (t.filter fun p => decide (p.1 < 1024 * acc))
    ++ ((List.range 1024).filterMap fun n => if v n = 0 then none else some (1024 * acc + n, v n))
    ++ t.filter fun p => decide (1024 * acc + 1024 ≤ p.1)

def setAcc (s : State) (g tile acc : Nat) (v : Nat → BitVec 36) : State :=
  modImage s g fun i => { i with accs := Tab.set i.accs tile (accPut (Tab.get i.accs tile []) acc v) }

/-- The bits of entry (i, j) read under a format (R242). -/
def accBits (x : Group) (tile : Nat) (fmt : Ty) (acc i j : Nat) : Nat :=
  match fmt with
  | .f32 => fieldOf (accGet x tile acc i j) 0 32
  | .f64 => fieldOf (accGet x tile acc i j) 0 32 + fieldOf (accGet x tile (acc + 1) i j) 0 32 * 2 ^ 32
  | _ => (accGet x tile acc i j).toNat

/-- Write a whole accumulator under a format, by the bits of entry 32 i + j. -/
def setAccBits (s : State) (g tile : Nat) (fmt : Ty) (acc : Nat) (v : List Nat) : State :=
  let at_ (n : Nat) : Nat := (v[n]?).getD 0
  match fmt with
  | .f64 => setAcc (setAcc s g tile acc fun n => BitVec.ofNat 36 (at_ n % 2 ^ 32)) g tile (acc + 1) fun n => BitVec.ofNat 36 (at_ n / 2 ^ 32 % 2 ^ 32)
  | .f32 => setAcc s g tile acc fun n => BitVec.ofNat 36 (at_ n % 2 ^ 32)
  | _ => setAcc s g tile acc fun n => BitVec.ofNat 36 (at_ n)

/-- The watchpoints of TYPE 1 on an entry of an accumulator (R446). -/
def watchAcc (s : State) (g tile acc : Nat) (wr : Bool) (hit : Nat → Nat → Bool) : State :=
  if s.dbgs = [] then s
  else watch s g (((grp? s g).map fun x => workOfTile s x tile).getD noWork) (tile % 2 ^ 18 + acc % 8 * 2 ^ 18) wr fun c a =>
    decide (fieldOf c 61 2 = 1) && decide (fieldOf a 0 18 = tile) && decide (fieldOf a 18 3 = acc) && (a.getLsbD 31 || hit (fieldOf a 21 5) (fieldOf a 26 5))

/-- The accumulator format of a type of A (R242). -/
def accFmt (aty : Ty) : Ty := match aty with | .f32 => .f32 | .f64 => .f64 | _ => .a36

/-! ## Regions and sweeps (R239, R248, R249) -/

/-- The cells of a region of a resident graph, as tile, y and x. -/
def cellsOf (gr : Graph) (wid hgt : Nat) : List (Nat × Nat × Nat) :=
  gr.tiles.filterMap fun (t, x) => (x.mc.bind fun m => cellPos m.frames).bind fun (w, h, y, c) => if w = wid ∧ h = hgt then some (t, y, c) else none

/-- The tile of cell (0, 0) of the region that a cell belongs to. -/
def regionOrigin (gr : Graph) (m : Mc) : Option Nat :=
  (cellPos m.frames).bind fun (w, h, _, _) => ((cellsOf gr w h).find? fun c => decide (c.2.1 = 0 ∧ c.2.2 = 0)).map (·.1)

def freshRegion : RegionState := { injected := [], lastQueued := false }
def regionState (gr : Graph) (origin : Nat) : RegionState := Tab.get gr.regions origin freshRegion

/-- The sweeps that a cell has switched to. -/
def switched (m : Mc) : Nat := m.completed + boolBit m.pass.isSome

/-- The MC frame of a configuration. -/
def mcConfig (m : Mc) (cfg : Nat) : Option Frame := (m.frames[cfg]?).bind id

def mcOp (f : Frame) : Nat := fieldOf f 0 10
/-- Whether a configuration consumes A. -/
def consumesA (f : Frame) : Bool := mcOp f == 0x240 || mcOp f == 0x241 || mcOp f == 0x244

/-- A cell that is idle or between passes switches to its oldest queued sweep (R249); a pass that needs A after A's DONE raises TOKEN_ALIGN (R244). -/
def mcSwitch (s : State) (g gi tile : Nat) : State :=
  match mc? s g gi tile with
  | none => s
  | some m =>
    match m.pass, m.sweeps with
    | none, (c, l) :: r =>
      if m.lastSeen then s
      else
        let s := modMc s g gi tile fun m => { m with sweeps := r, pass := some (c, l), kb := 0, row := 0, tok := 0, arows := [], drained := 0, north := 0 }
        if m.aDone && ((mcConfig m c).any consumesA) then elemFreeze s g gi tile TOKEN_ALIGN else s
    | _, _ => s

/-- The running pass is complete (R250). -/
def mcComplete (s : State) (g gi tile : Nat) : State :=
  mcSwitch (modMc s g gi tile fun m =>
    match m.pass with
    | some (c, l) => { m with pass := none, seen := [], lastCfg := some c, completed := m.completed + 1, lastSeen := m.lastSeen || l }
    | none => m) g gi tile

/-- A sweep reaches a cell once every neighbour that has one, west and north, has received it (R248). -/
def execSweep (g gi tile : Nat) (s : State) : Host.Outcome State Fault Refusal :=
  .next (match graph? s g gi, mc? s g gi tile with
    | some gr, some m =>
      match cellPos m.frames, regionOrigin gr m with
      | some (w, h, y, x), some o =>
        let cells := cellsOf gr w h
        let got (y x : Nat) : Bool := (cells.find? fun c => decide (c.2.1 = y ∧ c.2.2 = x)).any fun c =>
          ((Tab.get? gr.tiles c.1).bind (·.mc)).any fun n => decide (m.rcvd < n.rcvd)
        if !elemLive s g gi tile || 4 ≤ m.sweeps.length || (decide (0 < x) && !got y (x - 1)) || (decide (0 < y) && !got (y - 1) x) then s
        else match (regionState gr o).injected[m.rcvd]? with
          | none => s
          | some p => mcSwitch (modMc s g gi tile fun m => { m with rcvd := m.rcvd + 1, sweeps := m.sweeps ++ [p] }) g gi tile
      | _, _ => s
    | _, _ => s)

/-! ## The A stream (R243, R244) -/

/-- A tokens of a row of a K-block, besides the SCALE (R242): 32 elements, at most 16 tokens for f32 and 32 for f64. -/
def rowTokens (aty : Ty) : Nat := 32 * Ty.width aty / 64

/-- The cell at the site, when it can act. -/
def mcAct (s : State) (go : Nat → Nat → Nat → Group → Graph → Mc → State) : State :=
  match s.site with
  | .elem g gi tile _ =>
    match grp? s g, graph? s g gi, mc? s g gi tile with
    | some x, some gr, some m => if elemLive s g gi tile && !savedCut x m.marks then go g gi tile x gr m else s
    | _, _, _ => s
  | _ => s

/-- A token of A is forwarded east (R243). -/
def passEast (s : State) (g gi tile : Nat) (t : Token) : State := put (eat s g gi tile 0 t true) g gi tile [0] t t

/-- What a cell does at its A input while no pass consumes A: stops and DONE pass (R244). -/
def idleA (s : State) (g gi tile : Nat) (gr : Graph) (m : Mc) : State :=
  match suIn gr tile 0 with
  | none => s
  | some t =>
    if badToken t || m.aDone then elemFreeze s g gi tile TOKEN_BAD
    else if !canSend gr tile 0 then s
    else if isStop t then passEast s g gi tile t
    else if kindOf t = 5 then modMc (passEast s g gi tile t) g gi tile fun m => { m with aDone := true }
    else s

/-- What follows a cell's last pass on its result output: DONE once the sweep input has given DONE, or at once in row 0 (R252). -/
def lastDone (s : State) (g gi tile : Nat) (gr : Graph) (m : Mc) : State :=
  let y := ((cellPos m.frames).map fun p => p.2.2.1).getD 0
  if !m.lastSeen || m.ended || !canSend gr tile 1 then s
  else if y = 0 then modMc (send s g gi tile 1 [tok kindDONE 0 0]) g gi tile fun m => { m with ended := true }
  else match suIn gr tile 1 with
    | some t =>
      if badToken t then elemFreeze s g gi tile TOKEN_BAD
      else if kindOf t = 5 then modMc (put (eat s g gi tile 1 t true) g gi tile [1] t t) g gi tile fun m => { m with ended := true }
      else s
    | none => s

/-- Between passes. -/
def mcIdle (s : State) (g gi tile : Nat) (gr : Graph) (m : Mc) : State :=
  let s := idleA s g gi tile gr m
  match graph? s g gi with
  | some gr => lastDone s g gi tile gr m
  | none => s

/-- A pass that consumes A takes one token (R243, R244). -/
def takeA (s : State) (g gi tile : Nat) (gr : Graph) (m : Mc) (f : McFrame) (computes : Bool) : State :=
  match suIn gr tile 0 with
  | none => s
  | some t =>
    if badToken t || m.aDone || (kindOf t = 8 && levelOf t ≠ 0) then elemFreeze s g gi tile TOKEN_BAD
    else if has [1, 2, 3, 5] (kindOf t) then elemFreeze s g gi tile TOKEN_ALIGN
    else if !canSend gr tile 0 then s
    else if isStop t then passEast s g gi tile t
    else
      let due := f.mxs && decide (m.tok = 0)
      if (kindOf t = 8) ≠ due then elemFreeze s g gi tile TOKEN_ALIGN
      else
        let len := rowTokens f.aty + boolBit f.mxs
        let s := modMc (passEast s g gi tile t) g gi tile fun m =>
          let m := if kindOf t = 8 then { m with scales := modAt m.scales m.row fun _ => BitVec.ofNat 8 (fieldOf t.payload 0 8) }
            else if computes then
              { m with arows := if m.tok = boolBit f.mxs then m.arows ++ [[t]] else modAt m.arows m.row fun r => r ++ [t] }
            else m
          if m.tok + 1 < len then { m with tok := m.tok + 1 } else { m with tok := 0, row := m.row + 1 }
        if computes then s
        else match mc? s g gi tile with
          | some m =>
            if m.row < 32 then s
            else if m.kb < f.kblk.toNat then modMc s g gi tile fun m => { m with kb := m.kb + 1, row := 0 }
            else mcComplete s g gi tile
          | none => s

/-- One step of a pass of MMA, MMAS or MPASS; a K-block that is all there waits for its accumulation. -/
def aPass (f : McFrame) (computes : Bool) (s : State) : State :=
  mcAct s fun g gi tile _ gr m => if m.pass.isNone then mcIdle s g gi tile gr m else if m.row < 32 then takeA s g gi tile gr m f computes else s

def execMma (f : McFrame) (s : State) : Host.Outcome State Fault Refusal := .next (aPass f true s)
def execMmas (f : McFrame) (s : State) : Host.Outcome State Fault Refusal := .next (aPass f true s)
def execMpass (f : McFrame) (s : State) : Host.Outcome State Fault Refusal := .next (aPass f false s)

/-! ## K-blocks (R245, R251, R59, R60) -/

/-- Record size (R245). -/
def recordBytes (bty : Ty) (mxs : Bool) : Nat := let n := 32 * Ty.width bty / 8; if mxs then (if bty = .f4 then 32 else 64) else if bty = .f4 then 32 else n

/-- The key of the record of column c for a K-block. -/
def recordKey (x : Group) (tile c : Nat) (f : McFrame) (kb n : Nat) : Nat :=
  bsKey (clusterOfTile x tile) ((tileInCluster tile - 192) * 2 ^ 19 + c * 2 ^ 14 + (f.boff.toNat + kb * recordBytes f.bty f.mxs + n) % 16384)

/-- The value of an element (R60): integers take their values. -/
def mcValue (t : Ty) (bits : Nat) : Ex := if Ty.isInt t then exOfInt (decodeI t bits) else decodeF t bits

/-- The value of an E8M0 scale (R59). -/
def e8m0 (e : Nat) : Ex := if e = 255 then .nan else exPow2 ((e : Int) - 127)

/-- The product of one element of A and one of B (R60): integers have no negative zero. -/
def mcProduct (aty bty : Ty) (u v : Nat) : Ex × FlagSet :=
  if Ty.isInt aty && Ty.isInt bty then (exOfInt (decodeI aty u * decodeI bty v), 0) else exMul (mcValue aty u) (mcValue bty v)

/-- The steps of R60 on one element's K-block, up to P: its pattern and flags. -/
def kblockP (aty bty acc : Ty) (a b : List Nat) (scaleA scaleB : Ex) : Nat × FlagSet :=
  let prods := (a.zip b).map fun (u, v) => mcProduct aty bty u v
  let sn := (a.foldl (fun fl u => fl ||| (if Ty.isInt aty then 0 else snanFlag aty u)) 0) ||| (b.foldl (fun fl v => fl ||| (if Ty.isInt bty then 0 else snanFlag bty v)) 0)
  let fl := prods.foldl (fun fl p => fl ||| p.2) sn
  let infs (n : Bool) : Bool := prods.any fun p => p.1 == .inf n
  let fl := if infs true && infs false then fl ||| flagIV else fl
  let sum := match prods.map (·.1) with
    | [] => Ex.fin false 0 1
    | p :: r => r.foldl (fun s p => (exAdd .rne s p).1) p
  let (s1, _) := exMul sum scaleA
  let (s2, _) := exMul s1 scaleB
  let (p, fl') := roundF acc .rne 0 s2
  (p, fl ||| fl')

/-- Elements of a row of A. -/
def rowElems (aty : Ty) (r : List Token) : List Nat :=
  (r.flatMap fun t => (List.range (64 / Ty.width aty)).map fun i => elem (if isEmpty t then (0 : Word) else t.payload) (Ty.width aty) i).take 32

/-- The keys of the record of column c of a running K-block. -/
def recordKeys (x : Group) (tile c : Nat) (f : McFrame) (kb : Nat) : List Nat := (List.range (recordBytes f.bty f.mxs)).map fun n => recordKey x tile c f kb n

/-- Word w of the record of column c, as the pass has read it, or as it now stands (R109, R246). -/
def recordWord (s : State) (x : Group) (tile c : Nat) (f : McFrame) (m : Mc) (w : Nat) : Nat :=
  (Tab.get? m.seen (64 * c + w)).getD (natOfBytes ((List.range 8).map fun i => rdByte s (recordKey x tile c f m.kb (8 * w + i))))

/-- The record of column c of a running K-block. -/
def recordBits (s : State) (x : Group) (tile c : Nat) (f : McFrame) (m : Mc) : Nat :=
  (List.range (recordBytes f.bty f.mxs / 8)).foldr (fun w a => recordWord s x tile c f m w + a * 2 ^ 64) 0

/-- A pass reads word n mod 64 of the record of column n / 64 ahead of the accumulation (R246). -/
def readRecordWord (s : State) (g gi tile : Nat) (x : Group) (f : McFrame) (m : Mc) (n : Nat) : State :=
  let c := n / 64
  let w := n % 64
  if 32 ≤ c || recordBytes f.bty f.mxs / 8 ≤ w || (Tab.get? m.seen n).isSome then s
  else
    let s := eccBytes s (((recordKeys x tile c f m.kb).drop (8 * w)).take 8)
    modMc s g gi tile fun m => { m with seen := Tab.set m.seen n (recordWord s x tile c f m w) }

/-- A cell accumulates one K-block, once its 32 rows of A are there (R251); words of its records may have been read before, in any order (R246). -/
def execKblockAccumulate (g gi tile : Nat) (s : State) : Host.Outcome State Fault Refusal :=
  .next (match grp? s g, mc? s g gi tile with
    | some x, some m =>
      match m.pass.bind fun p => mcConfig m p.1 with
      | none => s
      | some fr =>
        let f := mcFrameOf fr
        if !elemLive s g gi tile || !(mcOp fr == 0x240 || mcOp fr == 0x241) then s
        else if s.part ≠ 0 then readRecordWord s g gi tile x f m (s.part - 1)
        else if m.row < 32 then s
        else
          let acc := accFmt f.aty
          let w := Ty.width f.bty
          let cols := (List.range 32).map fun c => let v := recordBits s x tile c f m; ((List.range 32).map fun k => v / 2 ^ (w * k) % 2 ^ w, v / 2 ^ (32 * w) % 256)
          let one : Ex := .fin false 1 1
          let rows := m.arows.zip m.scales
          let res := rows.zipIdx.flatMap fun ((r, sc), i) =>
            let a := rowElems f.aty r
            cols.zipIdx.map fun ((b, sb), j) =>
              let (p, fl) := kblockP f.aty f.bty acc a b (if f.mxs then e8m0 sc.toNat else one) (if f.mxs then e8m0 sb else one)
              if mcOp fr == 0x241 && decide (m.kb = 0) then (p, fl)
              else
                let old := accBits x tile acc f.acc.toNat i j
                let (e, fl1) := exAdd .rne (decodeF acc old) (decodeF acc p)
                let (v, fl2) := roundF acc .rne 0 e
                (v, fl ||| fl1 ||| fl2 ||| snanFlag acc old)
          let s := (List.range 32).foldl (fun s c => eccBytes s (recordKeys x tile c f m.kb)) s
          let s := watchAcc (setAccBits s g tile acc f.acc.toNat (res.map (·.1))) g tile f.acc.toNat true fun _ _ => true
          let s := addSkid (graphFlags s g gi tile (res.foldl (fun fl p => fl ||| p.2) 0)) g (workName s g gi tile) 1
          if m.kb < f.kblk.toNat then modMc s g gi tile fun m => { m with kb := m.kb + 1, row := 0, arows := [], seen := [] }
          else mcComplete s g gi tile
    | _, _ => s)

/-! ## MZERO and the drain (R241, R252) -/

def execMzero (f : McFrame) (s : State) : Host.Outcome State Fault Refusal :=
  .next (mcAct s fun g gi tile _ gr m =>
    if m.pass.isNone then mcIdle s g gi tile gr m
    else mcComplete (watchAcc (setAccBits s g tile f.bty f.acc.toNat []) g tile f.acc.toNat true fun _ _ => true) g gi tile)

/-- A drained row: its tokens and its stop, and the flags of its conversions. -/
def drainRow (x : Group) (tile : Nat) (f : McFrame) (i : Nat) : List Token × FlagSet :=
  let es := (List.range 32).map fun j => convert f.bty f.aty .rne false 0 (accBits x tile f.bty f.acc.toNat i j)
  let w := Ty.width f.aty
  let v : BitVec 2048 := packList 2048 w (es.map (·.1))
  ((List.range (32 * w / 64)).map (fun n => tok kindVAL 0 (elem v 64 n)) ++ [tok kindSTOP (if i = 31 then 1 else 0) 0], es.foldl (fun fl e => fl ||| e.2) 0)

/-- One step of an MDRAIN pass: a token from the north, or the cell's next row. -/
def execMdrain (f : McFrame) (s : State) : Host.Outcome State Fault Refusal :=
  .next (mcAct s fun g gi tile x gr m =>
    if m.pass.isNone then mcIdle s g gi tile gr m
    else
      let s := idleA s g gi tile gr m
      match graph? s g gi, cellPos m.frames with
      | some gr, some (_, _, y, _) =>
        if !canSendN gr tile 1 (if m.north < 32 * y then 1 else 32 * Ty.width f.aty / 64 + 1) then s
        else if m.north < 32 * y then
          match suIn gr tile 1 with
          | none => s
          | some t =>
            if badToken t then elemFreeze s g gi tile TOKEN_BAD
            else if kindOf t = 5 then elemFreeze s g gi tile TOKEN_ALIGN
            else modMc (put (eat s g gi tile 1 t true) g gi tile [1] t t) g gi tile fun m => { m with north := m.north + boolBit (isStop t) }
        else
          let (l, fl) := drainRow x tile f m.drained
          let s := watchAcc s g tile f.acc.toNat false fun i _ => decide (i = m.drained)
          let s := graphFlags (send s g gi tile 1 l) g gi tile fl
          if m.drained < 31 then modMc s g gi tile fun m => { m with drained := m.drained + 1 } else mcComplete s g gi tile
      | _, _ => s)

end Sys2Proof.Machine
end

