-- ==== Sys2Proof/Machine/Memory.lean ====
section
/-! DEFINITION. The memory instructions (R183-R194) in a block and at a memory node of a resident graph. -/

namespace Sys2Proof.Machine

/-- What a memory instruction does. -/
inductive MemOp where
  | ld | st | ldx | stx | atom (op : AtomOp) | lde | ldf | stf | fence
  deriving DecidableEq, Repr

/-- The entries that a memory instruction uses. -/
def memUses (m : MemOp) : Bool × Bool × Bool :=
  match m with
  | .ld | .lde | .ldf => (true, false, false)
  | .st | .ldx | .stf => (true, true, false)
  | .stx => (true, true, true)
  | .atom .cas => (true, true, true)
  | .atom _ => (true, true, false)
  | .fence => (false, false, false)

/-- The active elements of a gather or scatter as index and address (R188), from the first n elements of the index bits. -/
def gatherElems {k : Nat} (base : Nat) (w n : Nat) (b : BitVec k) : List (Nat × Nat) :=
  (List.range n).filterMap fun j =>
    let i := elem b w j
    if i = 2 ^ w - 1 then none else some (j, base + i * (w / 8))

/-! ## In a block -/

/-- The destination of an answer for part of a block's load. -/
def blockDest (g th b slot at_ n : Nat) : Dest := .load (.block g th b slot) 0 at_ n

/-- Requests of one thread share a link (R394). -/
def threadFlow (g th : Nat) : Dest → Bool := fun d =>
  match d with
  | .load (.block g' th' _ _) _ _ _ | .atomic (.block g' th' _ _) _ _ => decide (g' = g ∧ th' = th)
  | .store p _ => decide (p = (g, th))
  | _ => false

/-- The progress of a block's load: what it has read, its mask, answers due, the locations read, and whether a fault or a wait has stopped it. -/
structure Gather where
  st : State
  v : Nat
  m : Nat
  owed : Nat
  reads : List Nat
  first : Option Nat
  stop : Option (Option (Nat × Nat × Nat))

/-- One element of a block's gather (R188): a PAGE_FAULT beyond the first active element ends the gather without a fault. -/
def gatherOne (g th b slot cl work ew : Nat) (sp : MvSpace) (own : List (Nat × Byte)) (oldest : Bool) (r : Gather) (e : Nat × Nat) : Gather :=
  if r.stop.isSome then r
  else
    let (j, a) := e
    let at_ := j * ew
    let first := some (r.first.getD at_)
    match grp? r.st g with
    | none => r
    | some x =>
      if sp = .gm then
        match gmRead r.st (edgeHolder cl) g cl a ew (g, th) own oldest (fun o n => blockDest g th b slot (at_ + o) n) (threadFlow g th) with
        | (s, .bytes k l) => { r with st := s, v := r.v + natOfBytes l * 2 ^ (8 * at_), m := r.m + 2 ^ j, reads := r.reads ++ locations k ew, first := first }
        | (s, .asked x n) => { r with st := s, v := r.v + x * 2 ^ (8 * at_), m := r.m + 2 ^ j, owed := r.owed + n, first := first }
        | (s, .wait) => { r with st := s, stop := some none }
        | (s, .fault c e) => { r with st := s, first := first, stop := if c = 8 && r.first.isSome then some (some (0, 0, a)) else some (some (c, e, a)) }
      else
        let o := padOffset (spaceSize x sp) ew a
        match padKey x sp cl ew a with
        | none => { r with st := noteSpoob g th b r.st (spoobPayload sp o), m := r.m + 2 ^ j, first := first }
        | some k =>
          let s := eccTouch (watchPad r.st g work sp o false) k ew false
          { r with st := s, v := r.v + natOfBytes (viewBytes s cl (g, th) own k ew) * 2 ^ (8 * at_), m := r.m + 2 ^ j, reads := r.reads ++ locations k ew, first := first }

/-- A load of a block has issued, with what it has read: it delivers its value, or waits for the answers due. -/
def loadIssued (g th b slot q : Nat) (r : Gather) : State :=
  let s := replay (markIssued r.st g th b slot q) g th b r.reads
  let s := modBlock s g th b fun k => { k with reads := k.reads ++ r.reads }
  let v : Value := BitVec.ofNat 1024 r.v
  let m : Value := BitVec.ofNat 1024 r.m
  if r.owed = 0 then deliverLoad s g th b slot v m
  else modBlock s g th b fun k => { k with waits := (slot, .load v m r.owed 128 (r.first.getD 0)) :: k.waits }

/-- A load of a block at the elements given: LD is one element of 128 bytes, LDX one for each active index. -/
def blockLoad (s : State) (g th b slot : Nat) (k : Block) (f : MFields) (ew : Nat) (es : List (Nat × Nat)) : State :=
  match grp? s g, thread? s g th with
  | some x, some t =>
    let cl := clusterOfThread x th
    let own := uncommitted t b
    let start : Gather := { st := s, v := 0, m := 0, owed := 0, reads := [], first := none, stop := none }
    let r := es.foldl (gatherOne g th b slot cl (blockWork x k th slot) ew (mvOfSpace f.spc) own (decide (b = 0))) start
    match r.stop with
    | some none => s
    | some (some (c, e, a)) => if c = 0 then loadIssued g th b slot f.seq.toNat r else memFault r.st g th b slot c e false a
    | none => loadIssued g th b slot f.seq.toNat r
  | _, _ => s

/-- The checked keys of a store, in ascending element order; the first fault or wait ends it (R184, R188). `oob` says what an access beyond the allocation leaves. -/
def storeKeys (g cl work : Nat) (sp : MvSpace) (oob : State → Nat → State) : State → List (Nat × List Byte) → State × Except (Option (Nat × Nat × Nat)) (List (Nat × Byte))
  | s, [] => (s, .ok [])
  | s, (a, l) :: r =>
    let one : State × Except (Option (Nat × Nat × Nat)) (List (Nat × Byte)) :=
      if sp = .gm then
        match gmWriteKeys s (edgeHolder cl) g a l with
        | (s, .ok ks) => (s, .ok ks)
        | (s, .error none) => (s, .error none)
        | (s, .error (some (c, e))) => (s, .error (some (c, e, a)))
      else match grp? s g with
        | none => (s, .error none)
        | some x => let (s, ks) := padKeysOr s x g cl work sp a l oob; (s, .ok ks)
    match one with
    | (s, .error e) => (s, .error e)
    | (s, .ok ks) =>
      match storeKeys g cl work sp oob s r with
      | (s, .ok ks') => (s, .ok (ks ++ ks'))
      | (s, .error e) => (s, .error e)

/-- A store of a block (R175, R184): checked now, written at commit. -/
def blockStore (s : State) (g th b slot : Nat) (k : Block) (f : MFields) (ws : List (Nat × List Byte)) : State :=
  match grp? s g with
  | none => s
  | some x =>
    let cl := clusterOfThread x th
    match storeKeys g cl (blockWork x k th slot) (mvOfSpace f.spc) (noteSpoob g th b) s ws with
    | (_, .error none) => s
    | (s, .error (some (c, e, a))) => memFault s g th b slot c e true a
    | (s', .ok ks) =>
      if b ≠ 0 && ks.any fun p => isHost p.1 || isPeer p.1 then s
      else
        let dup := has k.stDone f.seq.toNat || has k.stDischarged f.seq.toNat
        let s := replay (markFired s' g th b slot) g th b (ks.map fun p => p.1 / 8)
        if dup then blockDup s g th b slot
        else
          let st : PStore := { pages := if f.spc == .gm then (ws.map fun p => p.1 / 65536).eraseDups else [], seq := f.seq.toNat, bytes := ks, rel := f.pol == .rel || f.pol == .acqrel, acq := f.pol == .acq || f.pol == .acqrel, scope := f.scope }
          produceStore (modBlock s g th b fun k => { k with stores := k.stores ++ [st] }) g th b slot f.seq.toNat false

/-- An atomic, LDE, LDF or STF of a block has performed (R123, R357): it stays performed, and a writing one counts as produced. -/
def performed (s : State) (g th b slot q : Nat) (writes : Bool) : State :=
  let s := modBlock s g th b fun k => { k with perf := true }
  if writes then produceStore (markFired s g th b slot) g th b slot q false else markIssued s g th b slot q

/-- The fault of a sync access that found no owner, or no room (R191, R192, R345). (Model: DEDUCED, unsafe: notes/assumptions 24) -/
def blockSync (s0 : State) (g th b slot : Nat) (f : MFields) (a : Nat) (r : State × Synced) (writes : Bool) (place : Nat × Nat × Nat) : State :=
  match r with
  | (_, .wait) => s0
  | (s, .noOwner) => memFault s g th b slot 8 5 writes a
  | (s, .full) => memFault s g th b slot 0x0A 0 writes a
  | (s, .value v) => deliverLoad (performed s g th b slot f.seq.toNat writes) g th b slot (splat v) 0
  | (s, .parked) =>
    modBlock (wake (markIssued s g th b slot f.seq.toNat) g) g th b fun k =>
      { k with waits := (slot, .reader g place.1 place.2.1 place.2.2) :: k.waits }

/-- What a memory instruction of a block reaches, as address and length. -/
def memReach (m : MemOp) (f : MFields) (a b' : Value) : List (Nat × Nat) :=
  let base := (lane a 0).toNat
  let w := Ty.width f.ty
  match m with
  | .ld | .st => [(base, 128)]
  | .ldx | .stx => (gatherElems base w (1024 / w) b').map fun p => (p.2, w / 8)
  | .atom _ => [(base, w / 8)]
  | .lde | .ldf | .stf => [(base, 8)]
  | .fence => []

/-- A memory instruction whose entries are all there. -/
def blockMem (s : State) (g th b slot : Nat) (m : MemOp) (f : MFields) (k : Block) (a b' c : Value) : State :=
  let oldestOnly := match m with | .atom _ | .lde | .ldf | .stf => true | _ => false
  if !mayIssue s g th b slot k f oldestOnly || (f.spc == .gm && collHolds s g th b (memReach m f a b')) then s
  else
    match grp? s g with
    | none => s
    | some x =>
      let cl := clusterOfThread x th
      let base := (lane a 0).toNat
      let w := Ty.width f.ty
      let ew := w / 8
      let work := blockWork x k th slot
      match m with
      | .ld => blockLoad s g th b slot k f 128 [(0, base)]
      | .ldx => blockLoad s g th b slot k f ew (gatherElems base w (1024 / w) b')
      | .st => blockStore s g th b slot k f [(base, bytesOf 128 b'.toNat)]
      | .stx => blockStore s g th b slot k f ((gatherElems base w (1024 / w) b').map fun (j, ad) => (ad, bytesOf ew (elem c w j)))
      | .fence => deliver (markIssued s g th b slot f.seq.toNat) g th b slot f.t0 f.t1 (.val 0)
      | .atom op =>
        if has k.stDone f.seq.toNat || has k.stDischarged f.seq.toNat then blockDup (markFired s g th b slot) g th b slot
        else if f.spc = .gm then
          match gmAtomic s (edgeHolder cl) g cl base (g, th) op f.ty (elem b' w 0) (elem c w 0) (.atomic (.block g th b slot) 0 w) (threadFlow g th) with
          | (_, .wait) => s
          | (s, .fault cd e) => memFault s g th b slot cd e true base
          | (s, .bytes k l) =>
            deliverLoad (replay (performed s g th b slot f.seq.toNat true) g th b (locations k ew)) g th b slot (splat (splatLane w (natOfBytes l))) 0
          | (s, .asked _ _) =>
            modBlock (performed s g th b slot f.seq.toNat true) g th b fun k => { k with waits := (slot, .load 0 0 1 128 0) :: k.waits }
        else
          let (s, l) := padAtomic s x g cl work (mvOfSpace f.spc) base op f.ty (elem b' w 0) (elem c w 0)
          let at_ := (padKey x (mvOfSpace f.spc) cl ew base).toList.flatMap fun k => locations k ew
          deliverLoad (replay (performed s g th b slot f.seq.toNat true) g th b at_) g th b slot (splat (splatLane w (natOfBytes l))) 0
      | .lde | .ldf | .stf =>
        if m = .stf && (has k.stDone f.seq.toNat || has k.stDischarged f.seq.toNat) then blockDup (markFired s g th b slot) g th b slot
        else
          match gmFind s (edgeHolder cl) g base 8 .sync with
          | (_, .wait) => s
          | (s, .fault cd e) => memFault s g th b slot cd e (decide (m = .stf)) base
          | (s, .at_ key (some (gi, tile, byte))) =>
            if queueOverlaps s cl key 8 then s
            else
              let s := replay s g th b [key / 8]
              let r := if m = .stf then syncFill s g gi tile byte (lane b' 0) else syncRead s g gi tile byte (decide (m = .lde)) (.block g th b slot) 0
              blockSync s g th b slot f base r (decide (m = .stf)) (gi, tile, byte)
          | (s, .at_ _ none) => memFault s g th b slot 9 0 (decide (m = .stf)) base

/-- A nulled memory instruction (R173). (Model: DEDUCED, safe: notes/assumptions 120) -/
def nullMem (s : State) (g th b slot : Nat) (m : MemOp) (f : MFields) : State :=
  match m with
  | .st | .stx | .atom _ | .stf => produceStore s g th b slot f.seq.toNat false
  | _ => deliver (modBlock s g th b fun k => { k with issued := f.seq.toNat :: k.issued }) g th b slot f.t0 f.t1 .void

/-! ## At a memory node of a graph -/

/-- The party of a chain (R119, R124). -/
def chainParty (g gi chain : Nat) : Nat × Nat := (g, 4096 + gi * 16 + chain)

/-- Requests of one edge AG share a link (R394). -/
def nodeFlow (g gi : Nat) : Dest → Bool := fun d =>
  match d with
  | .load (.ce g' gi' _ _ _) _ _ _ | .atomic (.ce g' gi' _ _ _) _ _ => decide (g' = g ∧ gi' = gi)
  | .store p _ => decide (p.1 = g ∧ 4096 ≤ p.2 ∧ p.2 < 8192 ∧ (p.2 - 4096) / 16 = gi)
  | _ => false

/-- Whether a slot has issued its accesses for an iteration, and for every earlier one. -/
def issuedThrough (c : Ce) (slot iter : Nat) (inclusive : Bool) : Bool :=
  let last := if inclusive then iter + 1 else iter
  (decide (last ≤ c.nextIter) || c.noMore) && c.frames.zipIdx.all fun (h, i) =>
    !h.live || decide (last ≤ h.iter) || has h.fired slot
      || c.waits.any fun w => decide (w.frame = i ∧ w.slot = slot) && w.pos.all fun p => p.issued

/-- The memory slots of a graph on a chain, as tile, CE, slot and word (R69, R85). -/
def chainMembers (gr : Graph) (chain : Nat) : List (Nat × Ce × Nat × Word) :=
  gr.tiles.flatMap fun (t, x) =>
    match x.ce with
    | none => []
    | some c => ((enabledSlots c).filter fun i => decide ((c.chain[i]?).getD 0 = chain) && isMemOp (opOfWord ((c.words[i]?).getD 0))).map fun i =>
        (t, c, i, (c.words[i]?).getD 0)

/-- Whether the chain lets a slot issue for an iteration (R124). -/
def chainReady (gr : Graph) (tile slot iter chain : Nat) (w : Word) : Bool :=
  (chainMembers gr chain).all fun (t, c, i, v) =>
    issuedThrough c i iter false
      && (let before := if pseqOf w = 127 then decide (seqOf v < seqOf w) else decide (seqOf v = pseqOf w)
          !before || issuedThrough c i iter true)

/-- Whether an acquire of the chain is still outstanding, other than in one firing. -/
def chainAcquires (gr : Graph) (tile fr slot chain : Nat) : Bool :=
  (chainMembers gr chain).any fun (t, c, i, v) =>
    v.getLsbD 3 && c.waits.any fun w => decide (w.slot = i) && !decide (t = tile ∧ w.frame = fr ∧ w.slot = slot)

/-- Whether an access of the chain is still owed an answer, other than the last position of one firing. -/
def chainOwes (gr : Graph) (chain : Nat) : Bool :=
  (chainMembers gr chain).any fun (_, c, i, _) => c.waits.any fun w => decide (w.slot = i) && w.pos.any fun p => decide (0 < p.owed)

/-- Change a position of a firing that is under way. -/
def modPos (s : State) (g gi tile fr slot i : Nat) (h : NodePos → NodePos) : State :=
  modCe s g gi tile fun c =>
    { c with waits := c.waits.map fun w => if w.frame = fr ∧ w.slot = slot then { w with pos := modAt w.pos i h } else w }

/-- The firing that is under way at a slot of a frame. -/
def nodeWait? (c : Ce) (fr slot : Nat) : Option NodeWait := c.waits.find? fun w => decide (w.frame = fr ∧ w.slot = slot)

/-- A position has issued and is owed n answers. -/
def issuePos (s : State) (g gi tile fr slot i n : Nat) (v m : Word) : State :=
  modPos s g gi tile fr slot i fun p => { p with issued := true, owed := n, val := v, mask := m, stop := none }

/-- A page fault stops the edge AG that serves a node (R137, R368): one MEM PGSTOP record, at the first stop. -/
def stopPos (s : State) (g gi tile fr slot i va cause : Nat) (wr : Bool) : State :=
  match grp? s g with
  | none => s
  | some x =>
    let s := modPos s g gi tile fr slot i fun p => { p with stop := some (va % 2 ^ 57, cause, wr, s.fresh) }
    record { s with fresh := s.fresh + 1 } (clusterOfTile x tile) 2 1 (tileInCluster tile) x.ctx (va % 2 ^ 57 + cause * 2 ^ 57)

/-- A node's store enters the write queue, or is written at a bank; the answer is the number of performings that its completion still awaits (R120, R127). -/
def nodeStore (s : State) (cl : Nat) (party : Nat × Nat) (f : MFields) (note : Site × Nat) (gm : Bool) (ks : List (Nat × Byte)) : State × Nat :=
  if !gm then (putBytes (eccStore s ks) ks, 0)
  else if ks = [] then (s, 0)
  else
    let wide := match f.scope with | .tile | .cluster => false | _ => true
    let e : WqEntry := { bytes := ks, party := party, rel := f.pol == .rel || f.pol == .acqrel, acq := false, pad := false, sent := false, scope := f.scope, note := if wide then some note else none }
    (modCluster s cl fun k => { k with writeq := k.writeq ++ [e] }, if wide then 1 else 0)

/-- The fault of an access of a node: a page fault stops its edge AG; the others raise the freeze line (R184). -/
def nodeFault (s : State) (g gi tile fr slot i code cause a : Nat) (wr : Bool) : State :=
  if code = 8 then stopPos s g gi tile fr slot i a cause wr else raiseFreeze s g code cause (a % 2 ^ 64) (workName s g gi tile)

/-- The reads of one position: local ones now, the others owed. -/
def nodeReads (g gi tile fr slot i cl work ew : Nat) (party : Nat × Nat) (sp : MvSpace) : State → List (Nat × Nat) →
    State × Except (Option (Nat × Nat × Nat)) (Nat × Nat × Nat)
  | s, [] => (s, .ok (0, 0, 0))
  | s, (j, a) :: r =>
    let dest (o n : Nat) : Dest := .load (.ce g gi tile fr slot) i (j * ew + o) n
    match grp? s g with
    | none => (s, .error none)
    | some x =>
      let got : State × Got :=
        if sp = .gm then gmRead s (edgeHolder cl) g cl a ew party [] true dest (nodeFlow g gi)
        else let (s, l) := padRead s x g cl work sp ew a; (s, .bytes 0 l)
      match got with
      | (s, .wait) => (s, .error none)
      | (s, .fault c e) => (s, .error (some (c, e, a)))
      | (s, .asked x k) =>
        match nodeReads g gi tile fr slot i cl work ew party sp s r with
        | (s, .ok (v, m, n)) => (s, .ok (v + x * 2 ^ (8 * j * ew), m + 2 ^ j, n + k))
        | (s, .error e) => (s, .error e)
      | (s, .bytes _ l) =>
        match nodeReads g gi tile fr slot i cl work ew party sp s r with
        | (s, .ok (v, m, n)) => (s, .ok (v + natOfBytes l * 2 ^ (8 * j * ew), m + 2 ^ j, n))
        | (s, .error e) => (s, .error e)

/-- Issue the access of one position, if its serving point lets it. The state is unchanged while it must wait. -/
def nodeAccess (s : State) (g gi tile fr slot i chain : Nat) (m : MemOp) (f : MFields) (p : NodePos) : State :=
  match grp? s g with
  | none => s
  | some x =>
    let cl := clusterOfTile x tile
    let party := chainParty g gi chain
    let sp := mvOfSpace f.spc
    let w := Ty.width f.ty
    let ew := w / 8
    let work := workName s g gi tile
    let site : Site := .ce g gi tile fr slot
    let a := p.a.toNat
    let read (ew : Nat) (es : List (Nat × Nat)) : State :=
      match nodeReads g gi tile fr slot i cl work ew party sp s es with
      | (_, .error none) => s
      | (s, .error (some (c, e, a))) => nodeFault s g gi tile fr slot i c e a false
      | (s, .ok (v, mk, n)) => issuePos s g gi tile fr slot i n (BitVec.ofNat 64 v) (BitVec.ofNat 64 mk)
    let write (ws : List (Nat × List Byte)) : State :=
      match storeKeys g cl work sp (fun s p => spoobAt s g cl p) s ws with
      | (_, .error none) => s
      | (s, .error (some (c, e, a))) => nodeFault s g gi tile fr slot i c e a true
      | (s', .ok ks) =>
        -- the chain's own store to the location, queued at another cluster, goes first (R119)
        if sp = .gm && ks.any fun p => queuedElsewhere s' cl party p.1 1 then s
        else
        let s := s'
        let (s, n) := nodeStore s cl party f (site, i) (decide (sp = .gm)) ks
        issuePos s g gi tile fr slot i n 0 0
    match m with
    | .ld => read 8 [(0, a)]
    | .ldx => read ew (gatherElems a w (64 / w) p.b)
    | .st => write [(a, bytesOf 8 p.b.toNat)]
    | .stx => write ((gatherElems a w (64 / w) p.b).map fun (j, ad) => (ad, bytesOf ew (elem p.c w j)))
    | .fence => issuePos s g gi tile fr slot i 0 0 0
    | .atom op =>
      if sp = .gm then
        match gmAtomic s (edgeHolder cl) g cl a party op f.ty (fieldOf p.b 0 w) (fieldOf p.c 0 w) (.atomic site i w) (nodeFlow g gi) with
        | (_, .wait) => s
        | (s, .fault c e) => nodeFault s g gi tile fr slot i c e a true
        | (s, .asked _ _) => issuePos s g gi tile fr slot i 1 0 0
        | (s, .bytes _ l) => issuePos s g gi tile fr slot i 0 (BitVec.ofNat 64 (natOfBytes l)) 0
      else
        let (s, l) := padAtomic s x g cl work sp a op f.ty (fieldOf p.b 0 w) (fieldOf p.c 0 w)
        issuePos s g gi tile fr slot i 0 (BitVec.ofNat 64 (natOfBytes l)) 0
    | .lde | .ldf | .stf =>
      let wr := decide (m = .stf)
      match gmFind s (edgeHolder cl) g a 8 .sync with
      | (_, .wait) => s
      | (s, .fault c e) => nodeFault s g gi tile fr slot i c e a wr
      | (s, .at_ _ none) => nodeFault s g gi tile fr slot i 9 0 a wr
      | (s, .at_ key (some (gi', tile', byte))) =>
        if queueOverlaps s cl key 8 || queuedElsewhere s cl party key 8 then s
        else
          match (if wr then syncFill s g gi' tile' byte p.b else syncRead s g gi' tile' byte (decide (m = .lde)) site i) with
          | (_, .wait) => s
          | (s, .noOwner) => nodeFault s g gi tile fr slot i 8 5 a wr
          | (s, .full) => nodeFault s g gi tile fr slot i 0x0A 0 a wr
          | (s, .value v) => issuePos s g gi tile fr slot i 0 v 0
          | (s, .parked) => issuePos s g gi tile fr slot i 1 0 0

/-- Issue positions in ascending order, as far as order and serving points allow (R124, R125, R183). -/
def nodeAdvance (g gi tile fr slot chain : Nat) (m : MemOp) (f : MFields) : Nat → State → State
  | 0, s => s
  | fuel + 1, s =>
    match graph? s g gi, ce? s g gi tile with
    | some gr, some c =>
      match nodeWait? c fr slot, c.words[slot]? with
      | some nw, some w =>
        match nw.pos.findIdx? fun p => !p.issued with
        | none => s
        | some i =>
          match nw.pos[i]? with
          | none => s
          | some p =>
            if !p.access then nodeAdvance g gi tile fr slot chain m f fuel (modPos s g gi tile fr slot i fun p => { p with issued := true })
            else
              let iter := ((frame? c fr).map (·.iter)).getD 0
              let acq := f.pol == .acq || f.pol == .acqrel
              let rel := f.pol == .rel || f.pol == .acqrel
              let owes := nw.pos.any fun q => decide (0 < q.owed)
              if p.stop.isSome || !chainReady gr tile slot iter chain w || chainAcquires gr tile fr slot chain || (acq && owes)
                  || (rel && (chainOwes gr chain || !storesPerformed s (chainParty g gi chain) f.scope)) then s
              else
                let s' := nodeAccess s g gi tile fr slot i chain m f p
                match ((ce? s' g gi tile).bind fun c => nodeWait? c fr slot).bind fun nw => nw.pos[i]? with
                | some q => if q.issued then nodeAdvance g gi tile fr slot chain m f fuel s' else s'
                | none => s'
      | _, _ => s
    | _, _ => s

/-- The token that a position sends, and its mask token (R27, R185, R188). -/
def posToken (p : NodePos) (mask : Bool) : Token :=
  heir p.src (if p.access then tok kindVAL 0 (if mask then p.mask else p.val).toNat else p.src)

/-- A firing whose positions have all performed sends its tokens in position order (R127, R146, R185). -/
def nodeSettle (s : State) (g gi tile fr slot : Nat) : State :=
  match ce? s g gi tile with
  | none => s
  | some c =>
    match nodeWait? c fr slot, c.words[slot]? with
    | some nw, some w =>
      if nw.pos.all fun p => p.issued && decide (p.owed = 0) then
        let t0 := targetOf (fieldOf w 38 10)
        let t1 := targetOf (fieldOf w 28 10)
        let data := nw.pos.map fun p => posToken p false
        let masks := nw.pos.map fun p => posToken p true
        let s := modCe s g gi tile fun c => { c with waits := c.waits.filter fun w => !decide (w.frame = fr ∧ w.slot = slot) }
        let s := if opOfWord w = 0x102 then ceDeliver (ceDeliver s g gi tile fr slot t0 none data) g gi tile fr slot t1 none masks
          else ceDeliver s g gi tile fr slot t0 t1 data
        ceSettle (ceMark s g gi tile fr slot (!nw.pos.isEmpty)) g gi tile
      else s
    | _, _ => s

/-- A firing with accesses at a slot of a graph (R38, R43, R183, R185): it takes its tokens, then issues its accesses in position order. A firing that is under way goes on. `one` bounds an
iteration to one token. -/
def nodeFire (s : State) (g gi tile fr slot : Nat) (pr : Pred) (t0 t1 : Option Target) (uses : List Opnd) (one : Bool) (go : State → State) : State :=
  match ceFiring? s g gi tile fr slot with
  | none => s
  | some (gr, c) =>
    if (nodeWait? c fr slot).isSome then go s
    else
      let usesP := uses ++ (if pr = .always then [] else [Opnd.p])
      let begin (s : State) (ps : List NodePos) : State :=
        go (modCe s g gi tile fun c => { passOn c fr slot with waits := c.waits ++ [{ frame := fr, slot := slot, pos := ps }] })
      let pos (t : Token) (access : Bool) (a b c : Word) : NodePos :=
        { src := t, access := access, a := a, b := b, c := c, issued := false, owed := 0, val := 0, mask := 0, stop := none }
      if usesP.any fun o => entryClosed gr c tile fr slot o then ceSettle (ceMark s g gi tile fr slot false) g gi tile
      else if ceLowerReady gr c tile slot || !outRoom gr c tile t0 t1 then s
      else if usesP = [] then begin s [pos (tok kindVAL 0 0) true 0 0 0]
      else
        let ents := ceEntries gr c tile fr slot usesP
        let n := if one then min 1 ((minOf? (ents.map List.length)).getD 0) else (minOf? (ents.map List.length)).getD 0
        if n = 0 then s
        else if ents.any fun l => (l.take n).any badToken then elemFreeze s g gi tile TOKEN_BAD
        else
          let at_ (i j : Nat) : Option Token := (ents[i]?).bind fun l => l[j]?
          let srcs (j : Nat) : List Token := (List.range uses.length).filterMap fun i => at_ i j
          let pAt (j : Nat) : Option Token := if pr = .always then none else at_ uses.length j
          let payload (i j : Nat) : Word := if i < uses.length then ((at_ i j).map (·.payload)).getD 0 else 0
          let res := (List.range n).map fun j => (j, position (srcs j) pr (pAt j))
          if res.any fun r => r.2 == .misaligned then elemFreeze s g gi tile TOKEN_ALIGN
          else
            let ps := res.filterMap fun (j, r) =>
              let src := ((srcs j ++ (pAt j).toList).head?).getD (tok kindVAL 0 0)
              match r with
              | .send t => some (pos (heir src t) false 0 0 0)
              | .compute => some (pos src true (payload 0 j) (payload 1 j) (payload 2 j))
              | _ => none
            let lost := (List.range n).flatMap fun j => lostAt (srcs j) pr (pAt j)
            begin (sinkAll (usesP.foldl (fun s o => consumeEntry s g gi tile fr slot o n) s) g gi tile lost) ps

/-- A memory node fires; FENCE takes one P token an iteration. -/
def fireNode (s : State) (g gi tile fr slot : Nat) (m : MemOp) (f : MFields) : State :=
  let (ua, ub, uc) := memUses m
  let uses := (if ua then [Opnd.a] else []) ++ (if ub then [Opnd.b] else []) ++ (if uc then [Opnd.c] else [])
  let chain := (((ce? s g gi tile).bind fun c => c.chain[slot]?)).getD 0
  nodeFire s g gi tile fr slot f.pr f.t0 f.t1 uses (decide (uses = [])) fun s => nodeSettle (nodeAdvance g gi tile fr slot chain m f 40 s) g gi tile fr slot

/-- A memory instruction at the site where it stands. -/
def memAt (s : State) (m : MemOp) (f : MFields) : State :=
  match s.site with
  | .block g th b slot =>
    let (ua, ub, uc) := memUses m
    blockFire s g th b slot f.pr ua ub uc (fun s => nullMem s g th b slot m f) fun k a b' c => blockMem s g th b slot m f k a b' c
  | .ce g gi tile fr slot => fireNode s g gi tile fr slot m f
  | _ => s

def execLd (f : MFields) (s : State) : Host.Outcome State Fault Refusal := .next (memAt s .ld f)
def execSt (f : MFields) (s : State) : Host.Outcome State Fault Refusal := .next (memAt s .st f)
def execLdx (f : MFields) (s : State) : Host.Outcome State Fault Refusal := .next (memAt s .ldx f)
def execStx (f : MFields) (s : State) : Host.Outcome State Fault Refusal := .next (memAt s .stx f)
def execAadd (f : MFields) (s : State) : Host.Outcome State Fault Refusal := .next (memAt s (.atom .add) f)
def execAmin (f : MFields) (s : State) : Host.Outcome State Fault Refusal := .next (memAt s (.atom .min) f)
def execAmax (f : MFields) (s : State) : Host.Outcome State Fault Refusal := .next (memAt s (.atom .max) f)
def execAand (f : MFields) (s : State) : Host.Outcome State Fault Refusal := .next (memAt s (.atom .and) f)
def execAor (f : MFields) (s : State) : Host.Outcome State Fault Refusal := .next (memAt s (.atom .or) f)
def execAxor (f : MFields) (s : State) : Host.Outcome State Fault Refusal := .next (memAt s (.atom .xor) f)
def execAxchg (f : MFields) (s : State) : Host.Outcome State Fault Refusal := .next (memAt s (.atom .xchg) f)
def execAcas (f : MFields) (s : State) : Host.Outcome State Fault Refusal := .next (memAt s (.atom .cas) f)
def execAfadd (f : MFields) (s : State) : Host.Outcome State Fault Refusal := .next (memAt s (.atom .fadd) f)
def execLde (f : MFields) (s : State) : Host.Outcome State Fault Refusal := .next (memAt s .lde f)
def execLdf (f : MFields) (s : State) : Host.Outcome State Fault Refusal := .next (memAt s .ldf f)
def execStf (f : MFields) (s : State) : Host.Outcome State Fault Refusal := .next (memAt s .stf f)
/-- Model: DEDUCED, unsafe: notes/assumptions 31. -/
def execFence (f : MFields) (s : State) : Host.Outcome State Fault Refusal := .next (memAt s .fence f)

end Sys2Proof.Machine
end

