-- ==== Sys2Proof/Machine/MemTile.lean ====
section
/-! DEFINITION. Memory tiles (R227-R235, R321-R323): address generators, compress and expand, owned ranges, sync words and their parked readers, and invoked
subgraphs. -/

namespace Sys2Proof.Machine

/-! ## Address generators (R228-R231) -/

/-- The local sinks and source of a port lane (R227): index input, data input, output. -/
def agIdxIn (lane : Nat) : Nat := 2 * lane
def agDataIn (lane : Nat) : Nat := 2 * lane + 1
def agOut (lane : Nat) : Nat := 2 * lane

/-- The party of an AG's accesses. -/
def agParty (g gi tile lane : Nat) : Nat × Nat := (g, 8192 + (gi * 2 ^ 18 + tile) * 2 + lane)

/-- Requests of one AG share a link (R394). -/
def agFlow (g gi tile lane : Nat) : Dest → Bool := fun d =>
  match d with
  | .ag g' gi' t' l' _ => decide (g' = g ∧ gi' = gi ∧ t' = tile ∧ l' = lane)
  | .store p _ => decide (p = agParty g gi tile lane)
  | _ => false

/-- The opcode of the MT's function frame, 0 without one. -/
def mtFnOp (s : State) (g gi tile : Nat) : Nat := (((mt? s g gi tile).bind (·.fn)).map fun f => fieldOf f.frame 0 10).getD 0

def agCnt (f : AgFrame) (d : Nat) : Nat :=
  match d with | 0 => f.cnt0.toNat | 1 => f.cnt1.toNat | 2 => f.cnt2.toNat | _ => f.cnt3.toNat
def agStride (f : AgFrame) (d : Nat) : Int :=
  match d with | 0 => 1 | 1 => f.stride1.toInt | 2 => f.stride2.toInt | _ => f.stride3.toInt

/-- The offset of element (i0, i1, i2, i3) in elements (R228). -/
def agOffset (f : AgFrame) (i : List Nat) : Int := (List.range 4).foldl (fun a d => a + (((i[d]?).getD 0 : Nat) : Int) * agStride f d) 0

/-- The address of an element at an offset in elements. -/
def agAddr (f : AgFrame) (k : Int) : Nat := lowNat 64 ((f.base.toNat : Int) + k * (Ty.width f.ty / 8 : Nat))

/-- Step the indices, dimension 0 fastest: the next indices, the highest dimension that wraps, and whether that was the last element. -/
def agNext (f : AgFrame) (i : List Nat) : Nat → Nat → List Nat × Option Nat × Bool
  | 0, d => (i, some (d - 1), true)
  | fuel + 1, d =>
    let v := (i[d]?).getD 0
    if v < agCnt f d then (modAt i d fun _ => v + 1, if d = 0 then none else some (d - 1), false)
    else if d = f.ndim.toNat then (modAt i d fun _ => 0, some d, true)
    else agNext f (modAt i d fun _ => 0) fuel (d + 1)

/-- A page fault stops only this AG (R231, R368). -/
def agStop (s : State) (g gi tile lane va cause : Nat) (wr : Bool) : State :=
  match grp? s g with
  | none => s
  | some x =>
    let s := modAg s g gi tile lane fun a => { a with stopped := some (va % 2 ^ 57, cause, wr, s.fresh) }
    record { s with fresh := s.fresh + 1 } (clusterOfTile x tile) 2 1 (tileInCluster tile) x.ctx (va % 2 ^ 57 + cause * 2 ^ 57)

/-- A fault of an AG's access: a page fault stops it; another raises the freeze line (R184). -/
def agFault (s : State) (g gi tile lane code cause va : Nat) (wr : Bool) : State :=
  if code = 8 then agStop s g gi tile lane va cause wr else raiseFreeze s g code cause (va % 2 ^ 64) (workName s g gi tile)

/-- The pad offset that an AG reaches: its own MT's pad for SPC up (R105). -/
def agPad (f : AgFrame) (tile a : Nat) : Nat := if f.spc = .up then tileInCluster tile * 131072 + a % 131072 else a

/-- The fault that a translation ahead of issue has met in the page of a VA. -/
def heldFault (s : State) (g gi tile lane va : Nat) : Option Nat :=
  (ag? s g gi tile lane).bind fun a => (a.held.find? fun h => decide (h.1 = va / 65536)).map (·.2)

/-- An AG translates the page of a VA ahead of issue; a fault is held (R348). -/
def agAhead (s : State) (g gi tile lane c va : Nat) : State :=
  if 2 ^ 57 ≤ va ∨ invalBlocks s c va = true ∨ (heldFault s g gi tile lane va).isSome then s
  else match translate s (agHolder g gi tile lane) c va with
    | (s, .ok _) => s
    | (s, .error e) => modAg s g gi tile lane fun a => { a with held := (va / 65536, e) :: a.held }

/-- The offset of the element n ahead of the next one of a stream with a pattern. -/
def agLater (f : AgFrame) : Nat → List Nat → Int
  | 0, i => agOffset f i
  | n + 1, i => agLater f n (agNext f i 4 0).1

/-- The translation of the element n ahead of the next one. -/
def agRefill (s : State) (g gi tile lane : Nat) (x : Group) (f : AgFrame) (k : Int) : State :=
  if f.spc ≠ .gm ∨ 2 ^ 57 ≤ f.base.toNat then s else agAhead s g gi tile lane x.ctx (agAddr f k)

/-- The place of a gm element: a BASE beyond the address space is an absent page (R303); a fault that was met ahead of issue is taken now (R348). -/
def agFind (s : State) (g gi tile lane : Nat) (f : AgFrame) (a n : Nat) (need : Need) : State × Found :=
  if f.base.toNat / 2 ^ 57 ≠ 0 then (s, .fault 8 1)
  else match (if (grp? s g).any fun x => invalBlocks s x.ctx a then none else heldFault s g gi tile lane a) with
    | some e => (modAg s g gi tile lane fun y => { y with held := y.held.filter fun h => decide (h.1 ≠ a / 65536) }, .fault 8 e)
    | none => gmFind s (agHolder g gi tile lane) g a n need

/-- A result joins the AG's queue. -/
def agPush (s : State) (g gi tile lane : Nat) (q : List (Nat × Token × Bool)) : State := modAg s g gi tile lane fun a => { a with queue := a.queue ++ q }

/-- Put a value into the token that waits for it; a CV token of MTCMPR keeps its coordinate (R232). -/
def withValue (t : Token) (v : Nat) : Token := { t with payload := t.payload ||| BitVec.ofNat 64 v }

/-- The answer of an AG's read. -/
def agAnswer (s : State) (g gi tile lane id : Nat) (l : List Byte) : State :=
  modAg s g gi tile lane fun a => { a with queue := a.queue.map fun q => if q.1 = id then (q.1, withValue q.2.1 (natOfBytes l), true) else q }

/-- An AG that has been restarted issues afresh the access that its home had refused: it walks the current table (R137, R351). -/
def agResend (s : State) (g gi tile lane : Nat) (x : Group) (a : AgState) : State :=
  match a.refused with
  | none => s
  | some (id, ptype, p) =>
    if a.stopped.isSome then s
    else
      let va := p.va.toNat
      let wr := decide (ptype = 2)
      let n := if wr then p.data.length else p.flag.toNat
      let note : Option (Site × Nat) := some (.elem g gi tile lane, 0)
      let dest : Dest := if wr then .store (agParty g gi tile lane) note else .ag g gi tile lane id
      let done (s : State) : State := modAg s g gi tile lane fun a => { a with refused := none }
      match gmFind s (agHolder g gi tile lane) g va n (if wr then .write else .read) with
      | (s, .wait) => s
      | (s, .fault c e) => agFault s g gi tile lane c e va wr
      | (s, .at_ key _) =>
        if isHost key then done (pciePush s (if wr then .write (keyed key p.data) (agParty g gi tile lane) note else .read key n dest))
        else if isPeer key then
          match sendRequest s x.ctx (peerPkg key) ptype (peerHasid key) (peerVa key) p.flag p.data dest (agFlow g gi tile lane) with
          | .gone s => done s
          | .later => s
          | .unreachable => agFault s g gi tile lane 8 6 va wr
        else if wr then modAg (wrBytes s key p.data) g gi tile lane fun a => { a with refused := none, writesOwed := a.writesOwed - 1 }
        else done (agAnswer s g gi tile lane id (viewBytes s (clusterOfTile x tile) (agParty g gi tile lane) [] key n))

/-- The AG at the site, when it can act. -/
def agAct (s : State) (go : Nat → Nat → Nat → Nat → Group → Graph → AgState → State) : State :=
  match s.site with
  | .elem g gi tile lane =>
    match grp? s g, graph? s g gi, ag? s g gi tile lane with
    | some x, some gr, some a =>
      if elemLive s g gi tile && lane < 2 && !a.ended && !savedCut x a.marks then
        (if a.refused.isSome then agResend s g gi tile lane x a else go g gi tile lane x gr a)
      else s
    | _, _, _ => s
  | _ => s

/-! ### Circuits (R388) -/

/-- The setup packet of an AG's circuit that still awaits its completion. -/
def circReq? (s : State) (g gi tile lane : Nat) : Option Req :=
  s.reqs.find? fun r => decide (r.ptype = 8) && (match r.dest with | .ag g' gi' t' l' _ => decide (g' = g ∧ gi' = gi ∧ t' = tile ∧ l' = lane) | _ => false)

/-- Whether a circuit lane group can take one more flit. -/
def circRoom (s : State) (n lg : Nat) : Bool := decide ((seqOfLink (link s n) (lg + 1)).replay.length < 256) && !hubStopped s

/-- A stream leaves its circuit. A write stream sends what it holds in a last, shorter flit, and awaits the completion; a read stream tells its home to stop. The answer is none
while a credit or room for the flit is missing. -/
def circClose (s : State) (g gi tile lane : Nat) : Option State :=
  match ag? s g gi tile lane with
  | none => some s
  | some a =>
    match a.circuit with
    | none => some s
    | some (n, lg) =>
      if (agFrameOf a.frame).wr then
        if circRoom s n lg then
          some (modAg (circFlit s n lg a.circBuf) g gi tile lane fun a => { a with circuit := none, circBuf := [], writesOwed := a.writesOwed + 1 })
        else none
      else match circReq? s g gi tile lane with
        | none => some (modAg s g gi tile lane fun a => { a with circuit := none, circBuf := [] })
        | some r =>
          (txPacket s n 0 8 { r.pkt with flag := 2, data := [] }).map fun s => modAg s g gi tile lane fun a => { a with circuit := none, circBuf := [] }

/-- Read the element at an offset: its result joins the queue, now or when the answer comes; a circuit brings the elements by itself. The answer says whether the read was issued. -/
def agRead (s : State) (g gi tile lane : Nat) (x : Group) (f : AgFrame) (k : Int) (t : Token) : State × Bool :=
  let n := Ty.width f.ty / 8
  let a := agAddr f k
  let cl := clusterOfTile x tile
  if f.spc ≠ .gm then
    let (s, l) := padRead s x g cl (workName s g gi tile) (mvOfSpace f.spc) n (agPad f tile a)
    (agPush s g gi tile lane [(0, withValue t (natOfBytes l), true)], true)
  else if n ≤ (((ag? s g gi tile lane).map (·.circBuf)).getD []).length then
    let b := ((ag? s g gi tile lane).map (·.circBuf)).getD []
    (agPush (modAg s g gi tile lane fun a => { a with circBuf := b.drop n }) g gi tile lane [(0, withValue t (natOfBytes (b.take n)), true)], true)
  else if ((ag? s g gi tile lane).bind (·.circuit)).isSome then (s, false)
  else
    match agFind s g gi tile lane f a n .read with
    | (s, .wait) => (s, false)
    | (s, .fault c e) => (agFault s g gi tile lane c e a false, false)
    | (s, .at_ key _) =>
      let id := s.fresh + 1
      let party := agParty g gi tile lane
      -- the cluster's write queue serves a queued location (R118)
      let held := heldBytes s cl party [] key n
      if queuedElsewhere s cl party key n then (s, false)
      else if (isHost key || isPeer key) && held.any (·.isSome) then
        if held.all (·.isSome) then (agPush s g gi tile lane [(0, withValue t (natOfBytes (held.map fun b => b.getD 0)), true)], true) else (s, false)
      else if isHost key then
        (agPush { pciePush s (.read key n (.ag g gi tile lane id)) with fresh := id } g gi tile lane [(id, t, false)], true)
      else if isPeer key then
        match sendRequest { s with fresh := id } x.ctx (peerPkg key) 0 (peerHasid key) (peerVa key) (BitVec.ofNat 21 n) [] (.ag g gi tile lane id) (agFlow g gi tile lane) with
        | .gone s => (agPush s g gi tile lane [(id, t, false)], true)
        | .later => (s, false)
        | .unreachable => (agFault s g gi tile lane 8 6 a false, false)
      else match eccOf s key n with
        | some true => (agFault s g gi tile lane 0x14 0 a false, false)
        | some false => (eccTouch s key n false, false)
        | none => (agPush (eccFixAt s key n) g gi tile lane [(0, withValue t (natOfBytes (viewBytes s cl party [] key n)), true)], true)

/-- Write the element at an offset. The answer says whether the write was issued. -/
def agWrite (s : State) (g gi tile lane : Nat) (x : Group) (f : AgFrame) (k : Int) (v : Nat) : State × Bool :=
  let n := Ty.width f.ty / 8
  let a := agAddr f k
  let cl := clusterOfTile x tile
  let done (s : State) (owed : Nat) : State := modAg s g gi tile lane fun a => { a with writesOwed := a.writesOwed + owed }
  if f.spc ≠ .gm then
    let (s, ks) := padWriteKeys s x g cl (workName s g gi tile) (mvOfSpace f.spc) (agPad f tile a) (bytesOf n v)
    (putBytes (eccStore s ks) ks, true)
  else
    match agFind s g gi tile lane f a n .write with
    | (s, .wait) => (s, false)
    | (s, .fault c e) => (agFault s g gi tile lane c e a true, false)
    | (s, .at_ key _) =>
      let party := agParty g gi tile lane
      let note : Option (Site × Nat) := some (.elem g gi tile lane, 0)
      if isHost key then (done (pciePush s (.write (keyed key (bytesOf n v)) party note)) 1, true)
      else if isPeer key then
        match (ag? s g gi tile lane).bind (·.circuit) with
        | some (ln, lg) =>
          let b := (((ag? s g gi tile lane).map (·.circBuf)).getD []) ++ bytesOf n v
          if !circRoom s ln lg then (s, false)
          else if b.length < 120 then (modAg s g gi tile lane fun a => { a with circBuf := b }, true)
          else (modAg (circFlit s ln lg (b.take 120)) g gi tile lane fun a => { a with circBuf := b.drop 120 }, true)
        | none =>
          if (circReq? s g gi tile lane).isSome then (s, false)
          else match sendRequest s x.ctx (peerPkg key) 2 (peerHasid key) (peerVa key) 0 (bytesOf n v) (.store party note) (agFlow g gi tile lane) with
          | .gone s => (done s 1, true)
          | .later => (s, false)
          | .unreachable => (agFault s g gi tile lane 8 6 a true, false)
      else (wrBytes s key (bytesOf n v), true)

/-- The results that an AG has ready to leave: the oldest ones that have been answered, up to a beat (R30, R229). -/
def agReady (a : AgState) : List Token := ((a.queue.takeWhile fun q => q.2.2).take 16).map fun q => q.2.1

/-- Send the results that are ready, in one beat, when there is space. Under MTCMPR the results go to that function. -/
def agSend (s : State) (g gi tile lane : Nat) (gr : Graph) (a : AgState) : State :=
  if lane = 0 && mtFnOp s g gi tile = 0x288 then s
  else
    let l := agReady a
    if l = [] || !canSend gr tile (agOut lane) then s
    else modAg (send s g gi tile (agOut lane) l) g gi tile lane fun a => { a with queue := a.queue.drop l.length, ended := l.any fun t => decide (kindOf t = 5) }

/-- An AG consumes a token of one of its inputs; the first one, and the DONE, are those that its completion tokens follow (R27). -/
def agEat (s : State) (g gi tile lane sink : Nat) (t : Token) (inherited : Bool) : State :=
  modAg (eat s g gi tile sink t inherited) g gi tile lane fun a =>
    { a with first := a.first.or (some t), closing := if kindOf t = 5 then some t else a.closing }

/-- A write stream reads its DONE: the count is due once every write has performed (R228, R231). -/
def agWriteDone (s : State) (g gi tile lane : Nat) : State := modAg s g gi tile lane fun a => { a with inDone := true, owed := some a.written }

/-- The element of a stream with a pattern as it stands in the queue: under MTCMPR a CV with coordinate i0 (R232). -/
def agItem (s : State) (g gi tile lane : Nat) (i0 : Nat) : Token :=
  if lane = 0 && mtFnOp s g gi tile = 0x288 then tok kindCV 0 (i0 * 2 ^ 32) else tok kindVAL 0 0

/-- A read stream issues its next element; stops follow the runs that it ends, and DONE the last (R228). -/
def agReadStep (s : State) (g gi tile lane : Nat) (x : Group) (f : AgFrame) (a : AgState) : State :=
  if a.inDone || a.stopped.isSome || 64 ≤ a.queue.length then s
  else
    let (s, ok) := agRead s g gi tile lane x f (agOffset f a.i) (agItem s g gi tile lane ((a.i[0]?).getD 0))
    if !ok then s
    else
      let (i, wrap, last) := agNext f a.i 4 0
      let s := match wrap with | some d => agPush s g gi tile lane [(0, tok kindSTOP d 0, true)] | none => s
      let s := if last then agPush s g gi tile lane [(0, tok kindDONE 0 0, true)] else s
      modAg s g gi tile lane fun a => { a with i := i, inDone := last }

/-- A write stream takes one token of its data input (R228). `a.run` counts the elements passed. -/
def agWriteStep (s : State) (g gi tile lane : Nat) (x : Group) (gr : Graph) (f : AgFrame) (a : AgState) (beyond : Bool)
    (advance : AgState → AgState) (k : Int) : State :=
  let sink := agDataIn lane
  if a.owed.isSome || a.stopped.isSome then s
  else if suBad gr tile [] [sink] then elemFreeze s g gi tile TOKEN_BAD
  else match suIn gr tile sink with
    | none => s
    | some t =>
      if kindOf t = 8 then elemFreeze s g gi tile TOKEN_ALIGN
      else if kindOf t = 5 then agWriteDone (agEat s g gi tile lane sink t true) g gi tile lane
      else if isStop t then agEat s g gi tile lane sink t a.first.isNone
      else if beyond then addRangeErr (agEat s g gi tile lane sink t a.first.isNone) g 1
      else if isEmpty t then
        -- a circuit carries every element in order: a stream that leaves one out goes on by packets
        if a.circuit.isSome || (circReq? s g gi tile lane).isSome then (circClose s g gi tile lane).getD s else modAg (agEat s g gi tile lane sink t a.first.isNone) g gi tile lane advance
      else
        match agWrite s g gi tile lane x f k (t.payload.toNat % 2 ^ Ty.width f.ty) with
        | (s, true) => modAg (agEat s g gi tile lane sink t a.first.isNone) g gi tile lane fun a => { advance a with written := a.written + 1 }
        | (s, false) => s

/-- AGLIN and AGND. As part n, the AG translates the element n ahead (R348). An AG that MTEXPD drives takes no data of its own. (Model: DEDUCED, unsafe: notes/assumptions 35) -/
def agPattern (f : AgFrame) (s : State) : State :=
  agAct s fun g gi tile lane x gr a =>
    if s.part ≠ 0 then agRefill s g gi tile lane x f (agLater f (min s.part 64) a.i)
    else if f.wr then
      if lane = 0 && mtFnOp s g gi tile = 0x289 then s
      else agWriteStep s g gi tile lane x gr f a a.zeroed (fun a => let (i, _, last) := agNext f a.i 4 0; { a with i := i, zeroed := last }) (agOffset f a.i)
    else
      let s := agSend s g gi tile lane gr a
      match ag? s g gi tile lane with
      | some a => if a.ended then s else agReadStep s g gi tile lane x f a
      | none => s

def execAglin (f : AgFrame) (s : State) : Host.Outcome State Fault Refusal := .next (agPattern f s)
def execAgnd (f : AgFrame) (s : State) : Host.Outcome State Fault Refusal := .next (agPattern f s)

/-- The index of an index token (R229). -/
def indexOf (t : Token) : Nat := if kindOf t = 1 then fieldOf t.payload 32 32 else fieldOf t.payload 0 32

/-- One index token of AGGATH (R229). -/
def gatherStep (s : State) (g gi tile lane : Nat) (x : Group) (gr : Graph) (f : AgFrame) (a : AgState) : State :=
  let sink := agIdxIn lane
  let wn := workName s g gi tile
  if a.inDone || a.stopped.isSome || 64 ≤ a.queue.length then s
  else if suBad gr tile [] [sink] then elemFreeze s g gi tile TOKEN_BAD
  else match suIn gr tile sink with
    | none => s
    | some t =>
      if isValue t then
        if indexOf t ≤ f.cnt0.toNat then
          match agRead s g gi tile lane x f (indexOf t) (heir t (tok kindVAL 0 0)) with
          | (s, true) => eat s g gi tile sink t true
          | (s, false) => s
        else addRangeErr (agPush (eat s g gi tile sink t true) g gi tile lane [(0, heir t (tok kindEMPTY 0 0), true)]) g 1
      else
        let s := agPush (eat s g gi tile sink t true) g gi tile lane [(0, t, true)]
        if kindOf t = 5 then modAg s g gi tile lane fun a => { a with inDone := true } else s

def execAggath (f : AgFrame) (s : State) : Host.Outcome State Fault Refusal :=
  .next (agAct s fun g gi tile lane x gr a =>
    let s := agSend s g gi tile lane gr a
    match ag? s g gi tile lane with
    | some a => if a.ended then s else gatherStep s g gi tile lane x gr f a
    | none => s)

/-- One pair of tokens of AGSCAT (R229). -/
def scatterStep (s : State) (g gi tile lane : Nat) (x : Group) (gr : Graph) (f : AgFrame) (a : AgState) : State :=
  let si := agIdxIn lane
  let sd := agDataIn lane
  if a.owed.isSome || a.stopped.isSome then s
  else if suBad gr tile [] [si, sd] then elemFreeze s g gi tile TOKEN_BAD
  else match suIn gr tile si, suIn gr tile sd with
    | some t, some d =>
      let take (s : State) : State := eat (agEat s g gi tile lane si t (a.first.isNone || kindOf t = 5)) g gi tile sd d false
      if isControl t || isControl d then
        if sameControl t d then (if kindOf t = 5 then agWriteDone (take s) g gi tile lane else take s)
        else elemFreeze s g gi tile TOKEN_ALIGN
      else if isEmpty t then take s
      else if f.cnt0.toNat < indexOf t then addRangeErr (take s) g 1
      else if isEmpty d then take s
      else
        match agWrite s g gi tile lane x f (indexOf t) (d.payload.toNat % 2 ^ Ty.width f.ty) with
        | (s, true) => modAg (take s) g gi tile lane fun a => { a with written := a.written + 1 }
        | (s, false) => s
    | _, _ => s

def execAgscat (f : AgFrame) (s : State) : Host.Outcome State Fault Refusal :=
  .next (agAct s fun g gi tile lane x gr a => scatterStep s g gi tile lane x gr f a)

/-- A range token: its range is the next one; a count of 0 streams nothing. -/
def rangeTake (s : State) (g gi tile lane : Nat) (t : Token) : State :=
  let n := fieldOf t.payload 32 32
  let s := agEat s g gi tile lane (agIdxIn lane) t (n ≠ 0)
  if n = 0 then addRangeErr s g 1 else modAg s g gi tile lane fun a => { a with range := a.range ++ [(fieldOf t.payload 0 32, n, t)] }

/-- While at most 64 addresses of its current range are left, AGRANGE reads the next range token ahead (R230). -/
def rangeAhead (s : State) (g gi tile lane : Nat) (gr : Graph) (a : AgState) : State :=
  match a.range with
  | [(_, n, _)] =>
    match suIn gr tile (agIdxIn lane) with
    | some t => if n ≤ 64 && kindOf t = 0 then rangeTake s g gi tile lane t else s
    | none => s
  | _ => s

/-- AGRANGE takes a range token, or the DONE of its index input (R230). EMPTY and stops, for which R230 has no action, are consumed. (Model: DEDUCED, unsafe: notes/assumptions 140) -/
def rangeToken (s : State) (g gi tile lane : Nat) (gr : Graph) (f : AgFrame) (a : AgState) : State :=
  let sink := agIdxIn lane
  if a.inDone then s
  else if suBad gr tile [] [sink] then elemFreeze s g gi tile TOKEN_BAD
  else match suIn gr tile sink with
    | none => s
    | some t =>
      if kindOf t = 0 then rangeTake s g gi tile lane t
      else if isEmpty t || isStop t then agEat s g gi tile lane sink t false
      else if kindOf t = 5 then
        let s := agEat s g gi tile lane sink t true
        if f.wr then agWriteDone s g gi tile lane
        else modAg (agPush s g gi tile lane [(0, t, true)]) g gi tile lane fun a => { a with inDone := true }
      else elemFreeze s g gi tile TOKEN_ALIGN

/-- The range after one element. -/
def rangeNext (a : AgState) : AgState :=
  { a with range := match a.range with | [] => [] | (i, n, t) :: r => if n ≤ 1 then r else (i + 1, n - 1, t) :: r }

/-- One element of AGRANGE's current range (R230). (Model: DEDUCED, unsafe: notes/assumptions 36) -/
def rangeStep (s : State) (g gi tile lane : Nat) (x : Group) (gr : Graph) (f : AgFrame) (a : AgState) : State :=
  match a.range with
  | [] => rangeToken s g gi tile lane gr f a
  | (i, n, src) :: _ =>
    let s := rangeAhead s g gi tile lane gr a
    let from_ (t : Token) : Token := heir src t
    let ok := decide (i ≤ f.cnt0.toNat)
    if f.wr then
      if ok then agWriteStep s g gi tile lane x gr f a false rangeNext i
      else match suIn gr tile (agDataIn lane) with
        | none => s
        | some t =>
          if isValue t && !badToken t then addRangeErr (modAg (eat s g gi tile (agDataIn lane) t false) g gi tile lane rangeNext) g 1
          else agWriteStep s g gi tile lane x gr f a false rangeNext i
    else if a.stopped.isSome || 64 ≤ a.queue.length then s
    else
      let close (s : State) : State :=
        let s := modAg s g gi tile lane rangeNext
        if n ≤ 1 then agPush s g gi tile lane [(0, from_ (tok kindSTOP 0 0), true)] else s
      if ok then
        match agRead s g gi tile lane x f i (from_ (tok kindVAL 0 0)) with
        | (s, true) => close s
        | (s, false) => s
      else close (addRangeErr (agPush s g gi tile lane [(0, from_ (tok kindEMPTY 0 0), true)]) g 1)

def execAgrange (f : AgFrame) (s : State) : Host.Outcome State Fault Refusal :=
  .next (agAct s fun g gi tile lane x gr a =>
    let s := if f.wr then s else agSend s g gi tile lane gr a
    match ag? s g gi tile lane with
    | some a => if a.ended || a.owed.isSome then s else rangeStep s g gi tile lane x gr f a
    | none => s)

/-- A write stream sends its count and DONE once every write has performed (R228, R231). -/
def execCompletionToken (g gi tile lane : Nat) (s : State) : Host.Outcome State Fault Refusal :=
  .next (match grp? s g, graph? s g gi, ag? s g gi tile lane with
    | some x, some gr, some a =>
      match a.owed with
      | none => s
      | some n =>
        if !elemLive s g gi tile || savedCut x a.marks || a.ended || a.stopped.isSome || !canSend gr tile (agOut lane) then s
        else if a.circuit.isSome then (circClose s g gi tile lane).getD s
        else if a.writesOwed ≠ 0 then s
        else
          let like (src : Option Token) (t : Token) : Token := heir (src.getD t) t
          modAg (send s g gi tile (agOut lane) [like a.first (tok kindVAL 0 n), like a.closing (tok kindDONE 0 0)]) g gi tile lane fun a => { a with owed := none, ended := true }
    | _, _, _ => s)

/-- A peer refuses an access of an AG: the AG stops there, and issues it again once its page is fixed (R137, R346, R350). -/
def agRefused (s : State) (g gi tile lane id ptype : Nat) (p : Packet) : State :=
  modAg (agStop s g gi tile lane p.va.toNat 6 (decide (ptype = 2))) g gi tile lane fun a => { a with refused := some (id, ptype, p) }

/-- The indices before an element's (R228). -/
def agPrev (f : AgFrame) : Nat → Nat → List Nat → List Nat
  | 0, _, i => i
  | fuel + 1, d, i => if (i[d]?).getD 0 = 0 then agPrev f fuel (d + 1) (modAt i d fun _ => agCnt f d) else modAt i d (· - 1)

/-- The offsets of the u elements before an element, the first first. -/
def lastOffsets (f : AgFrame) : Nat → List Nat → List Int
  | 0, _ => []
  | u + 1, i => let j := agPrev f 4 0 i; lastOffsets f u j ++ [agOffset f j]

/-- A circuit lane group is free. -/
def circFree (s : State) (n lg : Nat) : State :=
  modLink s n fun l => { l with holders := Tab.erase l.holders lg, circuits := l.circuits &&& ~~~(1#6 <<< lg) }

/-- A circuit is gone, by loss of its lanes or by its home's refusal: the stream goes on with packets. Of a write stream, the bytes `lost` that the home has not written are written afresh. -/
def circDrop (s : State) (n lg : Nat) (lost : State → Nat → Nat → Nat → Nat → AgState → List Byte) : State :=
  match Tab.get? (link s n).holders lg with
  | none => circFree s n lg
  | some (g, gi, tile, lane) =>
    let s := circFree s n lg
    match ag? s g gi tile lane, circReq? s g gi tile lane, grp? s g with
    | some a, some r, some x =>
      let f := agFrameOf a.frame
      let w := Ty.width f.ty / 8
      let s := { s with reqs := s.reqs.filter fun q => decide (q.tag ≠ r.tag) }
      if f.wr then
        let bytes := lost s g gi tile lane a
        let u := bytes.length / w
        let es := (lastOffsets f u a.i).zipIdx.map fun (k, i) =>
          ({ bytes := keyed (peerKey r.home r.pkt.hasid.toNat (agAddr f k)) ((bytes.drop (w * i)).take w), party := agParty g gi tile lane, rel := false, acq := false, pad := false, sent := false, scope := .domain
             note := some (.elem g gi tile lane, 0) } : WqEntry)
        let s := modCluster s (clusterOfTile x tile) fun c => { c with writeq := c.writeq ++ es }
        modAg s g gi tile lane fun a => { a with circuit := none, circBuf := [], writesOwed := a.writesOwed - (if a.circuit.isNone then 1 else 0) + u }
      else modAg s g gi tile lane fun a => { a with circuit := none, circBuf := a.circBuf.take (a.circBuf.length / w * w) }
    | _, _, _ => s

/-- The bytes that the last k flits of a circuit carry. -/
def circBytes (s : State) (n lg k : Nat) : List Byte :=
  let sent := s.outbox.filter fun p => decide (p.1 = n ∧ p.2.1 = 16 + lg)
  (sent.drop (sent.length - k)).flatMap fun p => p.2.2.data

/-- The lanes of a circuit are lost (R388): its stream goes on from the first element whose flit was not acknowledged. -/
def circLost (s : State) (n lg : Nat) : State :=
  circDrop s n lg fun s _ _ _ _ a => circBytes s n lg (seqOfLink (link s n) (lg + 1)).replay.length ++ a.circBuf

/-! ## Functions (R232-R235) -/

/-- The MT function at the site, when it can act. -/
def mtAct (s : State) (go : Nat → Nat → Nat → Group → Graph → MtState → State) : State :=
  match s.site with
  | .elem g gi tile _ =>
    match grp? s g, graph? s g gi, (mt? s g gi tile).bind (·.fn) with
    | some x, some gr, some m => if elemLive s g gi tile && !savedCut x m.marks then go g gi tile x gr m else s
    | _, _, _ => s
  | _ => s

/-- MTCMPR (R232): AG0's elements with a non-zero bit pattern leave as CV tokens, its stops and DONE as they are. -/
def execMtcmpr (_f : MtFrame) (s : State) : Host.Outcome State Fault Refusal :=
  .next (mtAct s fun g gi tile _ gr _ =>
    match (ag? s g gi tile 0).map (·.queue) with
    | some ((_, t, true) :: r) =>
      if !canSend gr tile 0 then s
      else
        let s := modAg s g gi tile 0 fun a => { a with queue := r, ended := kindOf t = 5 }
        if kindOf t = 1 && fieldOf t.payload 0 32 = 0 then wake s g else send s g gi tile 0 [t]
    | _ => s)

/-- Indices of dimensions 1 to 3 of a run (R232). -/
def runIndex (f : AgFrame) (r i0 : Nat) : List Nat :=
  [i0, r % (agCnt f 1 + 1), r / (agCnt f 1 + 1) % (agCnt f 2 + 1), r / (agCnt f 1 + 1) / (agCnt f 2 + 1) % (agCnt f 3 + 1)]

/-- Dimension-0 runs of a pattern. -/
def runCount (f : AgFrame) : Nat := (agCnt f 1 + 1) * (agCnt f 2 + 1) * (agCnt f 3 + 1)

/-- MTEXPD zeroes one element of its current run. -/
def expandZero (s : State) (g gi tile : Nat) (x : Group) (f : AgFrame) (a : AgState) : State :=
  let i0 := (a.i[0]?).getD 0
  match agWrite s g gi tile 0 x f (agOffset f (runIndex f a.run i0)) 0 with
  | (s, true) => modAg s g gi tile 0 fun a =>
      if i0 < agCnt f 0 then { a with i := modAt a.i 0 fun v => v + 1 } else { a with i := [0, 0, 0, 0], zeroed := true }
  | (s, false) => s

/-- MTEXPD (R232). -/
def expandStep (s : State) (g gi tile : Nat) (x : Group) (gr : Graph) (a : AgState) : State :=
  let f := agFrameOf a.frame
  let nextRun (a : AgState) : AgState := { a with run := a.run + 1, zeroed := false, i := [0, 0, 0, 0] }
  if a.owed.isSome || a.ended || a.stopped.isSome then s
  else if !a.zeroed && a.run < runCount f then expandZero s g gi tile x f a
  else if suBad gr tile [] [1] then elemFreeze s g gi tile TOKEN_BAD
  else match suIn gr tile 1 with
    | none => s
    | some t =>
      if kindOf t = 5 then
        if a.run + 1 < runCount f then modAg s g gi tile 0 nextRun
        else agWriteDone (agEat s g gi tile 0 1 t true) g gi tile 0
      else if isStop t then modAg (agEat s g gi tile 0 1 t a.first.isNone) g gi tile 0 nextRun
      else if isEmpty t then agEat s g gi tile 0 1 t a.first.isNone
      else if kindOf t = 1 then
        let c := coordOf t
        if runCount f ≤ a.run || agCnt f 0 < c then addRangeErr (agEat s g gi tile 0 1 t a.first.isNone) g 1
        else match agWrite s g gi tile 0 x f (agOffset f (runIndex f a.run c)) (fieldOf t.payload 0 (Ty.width f.ty)) with
          | (s, true) => modAg (agEat s g gi tile 0 1 t a.first.isNone) g gi tile 0 fun a => { a with written := a.written + 1 }
          | (s, false) => s
      else elemFreeze s g gi tile TOKEN_ALIGN

def execMtexpd (_f : MtFrame) (s : State) : Host.Outcome State Fault Refusal :=
  .next (mtAct s fun g gi tile x gr _ =>
    match ag? s g gi tile 0 with
    | some a => if savedCut x a.marks then s else expandStep s g gi tile x gr a
    | none => s)

/-- The update of an owned word (R233). -/
def ownUpdate (uop old v : Nat) : Nat := if uop = 8 then v else redopFn uop 32 old v

/-- One update token of an MTOWN (R233). Like every atomic at an owner it may write later in the cycle than it reads (R130). -/
def ownStep (f : MtFrame) (s : State) (g gi tile : Nat) (x : Group) (gr : Graph) (m : MtState) : State :=
  let uop := fieldOf f.param 0 4
  let ret := f.param.getLsbD 4
  let reply (s : State) (src t : Token) : State := if ret then put s g gi tile [2] src t else s
  let key (a : Nat) : Nat := upKey (clusterOfTile x tile) (tileInCluster tile * 131072 + a)
  if !canSend gr tile 2 then s
  else if suBad gr tile (if m.inDone then [2] else []) [2] then elemFreeze s g gi tile TOKEN_BAD
  else match suIn gr tile 2 with
    | none => s
    | some t =>
      if hasCoord t then
        let (i, v) := if kindOf t = 1 then (fieldOf t.payload 32 32, fieldOf t.payload 0 32) else (fieldOf t.payload 0 32, fieldOf t.payload 32 32)
        let a := f.base.toNat + (if uop = 9 then i / 8 else 4 * i)
        let s := eat s g gi tile 2 t ret
        if f.limit.toNat ≤ a then reply (addRangeErr s g 1) t (tok kindEMPTY 0 0)
        else if uop = 9 then
          let (s, b) := atomAt (eccTouch (ownerSettle s) (key a) 1 false) true (key a) 1 fun b => b ||| 2 ^ (i % 8)
          reply s t (tok kindCV 0 (i * 2 ^ 32 + b / 2 ^ (i % 8) % 2))
        else
          let (s, old) := atomAt (eccTouch (ownerSettle s) (key a) 4 false) true (key a) 4 fun old => ownUpdate uop old v
          reply s t (tok kindCV 0 (i * 2 ^ 32 + old))
      else if isEmpty t then reply (eat s g gi tile 2 t ret) t (tok kindEMPTY 0 0)
      else if kindOf t = 5 then
        modMtFn (put (eat s g gi tile 2 t true) g gi tile [2] t (tok kindDONE 0 0)) g gi tile fun m => { m with inDone := true }
      else if isControl t then reply (eat s g gi tile 2 t ret) t t
      else elemFreeze s g gi tile TOKEN_ALIGN

def execMtown (f : MtFrame) (s : State) : Host.Outcome State Fault Refusal :=
  .next (mtAct s fun g gi tile x gr m => ownStep f s g gi tile x gr m)

/-! ## Parked readers (R192, R193, R234) -/

/-- A site receives the word that it waited for at an owner. -/
def answerReader (s : State) (site : Site) (pos : Nat) (v : Word) : State :=
  match site with
  | .block g th b slot =>
    let s := modBlock (dropWait s g th b slot) g th b fun k => { k with perf := true }
    deliverLoad s g th b slot (splat v) 0
  | .ce g gi tile fr slot =>
    nodeSettle (modPos s g gi tile fr slot pos fun p => { p with val := v, owed := p.owed - 1 }) g gi tile fr slot
  | _ => s

/-- The owner serves the oldest reader of the lowest word that an STF has filled (R192). -/
def serveReader (s : State) (g gi tile : Nat) : State :=
  match mtSync? s g gi tile, grp? s g with
  | some m, some x =>
    match m.sync.find? fun p => p.2.serving with
    | none => s
    | some (byte, w) =>
      let s := ownerSettle s
      let v := rdWord s (keyOfPlace x (.sync gi tile byte))
      let s := eccTouch s (keyOfPlace x (.sync gi tile byte)) 8 false
      let (r, w) : Option Reader × SyncWord := match w.readers, w.overflow with
        | r :: rest, _ => (some r, { w with readers := rest })
        | [], r :: rest => (some r, { w with overflow := rest })
        | [], [] => (none, w)
      match r with
      | none => setSync s g gi tile byte { w with serving := false }
      | some r =>
        let w := if r.take then { w with full := false, serving := false }
          else { w with serving := !(w.readers.isEmpty && w.overflow.isEmpty) }
        answerReader (wake (setSync s g gi tile byte w) g) r.site r.seq v
  | _, _ => s

/-- MTSYNC (R234): it serves the sync words of its range; what it does by itself is to serve their readers. -/
def execMtsync (_f : MtFrame) (s : State) : Host.Outcome State Fault Refusal :=
  .next (mtAct s fun g gi tile _ _ _ => serveReader s g gi tile)

def execParkedReaderServed (g gi tile : Nat) (s : State) : Host.Outcome State Fault Refusal :=
  .next (if elemLive s g gi tile then serveReader s g gi tile else s)

/-! ## Invoked subgraphs (R235, R321-R323) -/

/-- MAXOUT. -/
def maxOut (m : MtState) : Nat := fieldOf m.frame 32 6 + 1

/-- The lowest free tag of an MTINV (R322). -/
def freeTag (m : MtState) : Option Nat := (List.range (maxOut m)).find? fun t => !(m.invs.any fun v => decide (v.tag = t))

/-- An engine instruction receives bytes at a flat key. -/
def engAnswer (s : State) (g th : Nat) (q : Qu) (key : Nat) (l : List Byte) : State :=
  let f (e : EngEntry) : EngEntry := if e.issued && !e.done && has e.asked key then { e with buf := e.buf ++ keyed key l } else e
  modThread s g th fun t =>
    match q with
    | .ct => { t with ctq := t.ctq.map f } | .tm => { t with tmq := t.tmq.map f }
    | .mx => { t with mxq := t.mxq.map f } | .cl => { t with clq := t.clq.map f }

/-- The answers of an RMST's members and of an RINV stand in the instruction's buffer at these keys. -/
def memberKey (m : Nat) : Nat := 2 ^ 100 + m
def rinvKey : Nat := 2 ^ 101

/-- A SPAWN's block or node position, or an RINV, receives its result; `none` is EMPTY (R321). -/
def answerSpawn (s : State) (site : Site) (pos : Nat) (v : Option Word) : State :=
  match site with
  | .block g th b slot =>
    match block? s g th b with
    | none => s
    | some k => let (t0, t1) := slotTargets k slot; deliver (dropWait s g th b slot) g th b slot t0 t1 (.val (lane0 (v.getD 0)))
  | .ce g gi tile fr slot =>
    nodeSettle (modPos s g gi tile fr slot pos fun p =>
      match v with
      | some w => { p with val := w, owed := p.owed - 1 }
      | none => { p with access := false, src := heir p.src (tok kindEMPTY 0 0), owed := p.owed - 1 }) g gi tile fr slot
  | .engine g th q => engAnswer s g th q rinvKey (match v with | some w => bytesOf 8 w.toNat ++ bytesOf 8 1 | none => List.replicate 16 0)
  | _ => s

/-- The answers of a multicast's packet j reach the instruction: whether each member has failed (R395). -/
def membersAnswer (s : State) (g th j n : Nat) (failed : Nat → Bool) : State :=
  (List.range n).foldl (fun s m => engAnswer s g th .cl (memberKey (m + 128 * j)) [if failed m then 1 else 0]) s

/-- The credits that an invocation held are granted again (R397). -/
def grantInvocation (s : State) (n : Nat) (p : Packet) : State :=
  sendCredit (modLink s n fun l => { l with rgranted := modAt l.rgranted 2 (· + BitVec.ofNat 32 (flitsOf p (sealedPkt s 6 p))) }) n

/-- Answer a packet's invocation along its reverse route (R397): an invocation result, EMPTY flagged. The credit that the invocation held is granted again. -/
def answerInvocation (s : State) (n : Nat) (p : Packet) (v : Option Word) : State :=
  let r : Packet := { p with src := s.pkgid, dst := p.src, flag := if v.isNone then 1 else 0, data := match v with | some w => bytesOf 8 w.toNat | none => [] }
  if hubStopped s || !linkCounts (link s n) then s else leave (grantInvocation s n p) n 1 7 r

/-- The MTINV takes the oldest waiting invocation: it takes the lowest free tag and its argument leaves on O2 (R235, R322). -/
def invSend (s : State) (g gi tile : Nat) (gr : Graph) (m : MtState) : State :=
  match m.waiting, freeTag m with
  | (v, arg) :: r, some t =>
    if !canSend gr tile 2 then s
    else
      let s := modMtFn s g gi tile fun m => { m with waiting := r, invs := m.invs ++ [{ v with tag := t }] }
      let s := match v.site with
        | .block g' th b slot => modBlock s g' th b fun k =>
            { k with waits := k.waits.map fun w => if w.1 = slot then (slot, .spawn gi tile t) else w }
        | _ => s
      send s g gi tile 2 (if v.spawned then [tok kindREF 0 t, tok kindVAL 0 arg.toNat] else [tok kindVAL 0 arg.toNat])
  | _, _ => s

/-- A result reaches the MTINV (R322): its tag is freed, and it goes to its invoker. -/
def invReturn (s : State) (g gi tile : Nat) (v : Invoc) (t : Token) : State :=
  let s := modMtFn s g gi tile fun m => { m with invs := m.invs.filter fun w => decide (w.tag ≠ v.tag) }
  let r := if isEmpty t then none else some t.payload
  match v.packet with
  | some (n, p) => answerInvocation s n p r
  | none => answerSpawn s v.site v.pos r

/-- One token, or one REF with its result, from the subgraph. -/
def invStep (s : State) (g gi tile : Nat) (gr : Graph) (m : MtState) : State :=
  if suBad gr tile [] [2] then elemFreeze s g gi tile TOKEN_BAD
  else match suIn gr tile 2 with
    | none => invSend s g gi tile gr m
    | some t =>
      if kindOf t = 3 then
        match m.invs.find? fun v => v.spawned && decide (v.tag = t.payload.toNat), (portTokens gr tile 2)[1]? with
        | none, _ => elemFreeze s g gi tile TOKEN_ALIGN
        | some _, none => invSend s g gi tile gr m
        | some v, some r =>
          if badToken r then elemFreeze s g gi tile TOKEN_BAD
          else if isControl r then elemFreeze s g gi tile TOKEN_ALIGN
          else invReturn (eat (eat s g gi tile 2 t false) g gi tile 2 r false) g gi tile v r
      else if isData t then
        match m.invs.find? fun v => !v.spawned with
        | none => elemFreeze s g gi tile TOKEN_ALIGN
        | some v => invReturn (eat s g gi tile 2 t false) g gi tile v t
      else elemFreeze s g gi tile TOKEN_ALIGN

def execMtinv (_f : MtFrame) (s : State) : Host.Outcome State Fault Refusal :=
  .next (mtAct s fun g gi tile _ gr m => invStep s g gi tile gr m)

end Sys2Proof.Machine
end

