-- ==== Sys2Proof/Machine/Elements.lean ====
section
/-! DEFINITION. Element events of a resident graph: beats (R29-R33), frames (R35-R39), join units (R40-R42), MARKs (R208, R226, R256, R317) and stalls (R237). -/

namespace Sys2Proof.Machine

/-! ## Beats (R29-R33) -/

/-- Results that a CE has staged for want of space leave as its channels get room (R31, R146). -/
def ceFlush (s : State) (g gi tile : Nat) : State := if (ce? s g gi tile).any fun c => !c.stage.isEmpty then ceSettle s g gi tile else s

/-- A beat crosses a hop of a channel of a placed group's graph; the CE that drives the channel then sends what it has staged. -/
def execBeat (g gi ch node : Nat) (s : State) : Host.Outcome State Fault Refusal :=
  .next (match graph? s g gi with
    | none => s
    | some gr =>
      match gr.chans[ch]? with
      | none => s
      | some c =>
        if !elemLive s g gi c.tile then s
        else match moveBeat s.dtime c node with
          | none => s
          | some c' =>
            let s := modGraph (wake s g) g gi fun gr => { gr with chans := modAt gr.chans ch fun _ => c', lastMove := s.cycle }
            ceFlush (lateTokens (meetBreaks s g gi ch c) g gi ch c) g gi c.tile)

/-! ## Frames (R36, R39) -/

/-- The counters that the CE uses. -/
def usedCounters (c : Ce) : List Counter := c.counters.takeWhile fun k => decide (k.count ≠ 0)

/-- The value of a counter at an index (R39). -/
def counterValue (k : Counter) (i : Nat) : BitVec 32 := k.start + (k.step.signExtend 32) * BitVec.ofNat 32 i

/-- Step the indices after an iteration: the next indices and the levels that wrap (R39). -/
def stepCounters : List Counter → List Nat → Nat → List Nat × List Nat
  | [], i, _ => (i, [])
  | k :: r, i, j =>
    match i with
    | [] => ([], [])
    | v :: rest =>
      if v + 1 < k.count.toNat then ((v + 1) :: rest, [])
      else let (rest', w) := stepCounters r rest (j + 1); (0 :: rest', j :: w)

/-- Whether an iteration is due: the counters run, or a token, its DONE among them, has arrived for an iteration that no live frame awaits, or the one iteration of a CE with
neither has not begun (R39). (Model: DEDUCED, unsafe: notes/assumptions 128) -/
def iterationDue (gr : Graph) (c : Ce) (tile : Nat) : Bool :=
  let bound := (List.range 4).filter fun p => ((c.ports[p]?).map (·.bound)).getD false
  if !(usedCounters c).isEmpty then !c.noMore
  else if bound = [] then decide (c.nextIter = 0)
  else bound.any fun p =>
    !(portReady gr c tile p).isEmpty
      && (match c.ports[p]? with | some b => c.frames.all fun f => !f.live || has f.fired b.slot | none => false)

/-- The next free frame in ring order from the frame after the last one assigned; none when all eight are live (R36). -/
def nextFrame? (c : Ce) : Option Nat :=
  ((List.range 8).map fun i => (c.lastFrame + 1 + i) % 8).find? fun n => ((c.frames[n]?).map fun f => !f.live).getD false

/-- The frame allocator assigns that frame to the next iteration (R36). -/
def execFrameAssign (g gi tile : Nat) (s : State) : Host.Outcome State Fault Refusal :=
  .next (match grp? s g, graph? s g gi, ce? s g gi tile with
    | some x, some gr, some c =>
      match nextFrame? c with
      | none => s
      | some n =>
      if !elemLive s g gi tile || savedCut x c.marks || !iterationDue gr c tile then s
      else
        let used := usedCounters c
        let ks := (used.zip c.idx).map fun (k, i) => counterValue k i
        let (idx, wraps) := stepCounters used c.idx 0
        let last := !used.isEmpty && decide (wraps.length = used.length)
        ceSettle (modCe s g gi tile fun c =>
          { c with frames := modAt c.frames n fun _ =>
                     { live := true, iter := c.nextIter, ks := ks ++ List.replicate (4 - ks.length) 0, wraps := wraps, entries := c.carry, closed := [], fired := [] }
                   nextIter := c.nextIter + 1, lastFrame := n, noMore := last, idx := idx, carry := [] }) g gi tile
    | _, _, _ => s)

/-! ## Join units (R40-R42) -/

/-- The action codes of an outcome, 0 for A < B, 1 for A = B, 2 for A > B: those of sides A and B (R40, R85). -/
def joinActs (jact : BitVec 12) (o : Nat) : Nat × Nat := (fieldOf jact (4 * o) 2, fieldOf jact (4 * o + 2) 2)

/-- Whether one of a side's actions is Reset (R41). -/
def sideResets (jact : BitVec 12) (side : Nat) : Bool := (List.range 3).any fun o => fieldOf jact (4 * o + 2 * side) 2 = 3

/-- The tokens of a side still to be compared: the rest of the fibre that it re-reads, then its channel's. -/
def sideTokens (gr : Graph) (c : Ce) (tile p : Nat) : List Token :=
  (((c.fib[p]?).getD []).drop ((c.rd[p]?).getD 0)) ++ portTokens gr tile p

/-- The head of a side; a MARK is held. -/
def sideHead (gr : Graph) (c : Ce) (tile p : Nat) : Option Token :=
  match (sideTokens gr c tile p).head? with
  | some t => if kindOf t = 7 && !badToken t then none else some t
  | none => none

/-- The kept fibre of a side fills beats of its port's buffer, of which one stays free for what comes (R41). (Model: DESIGN CHOICE, safe: notes/assumptions 141) -/
def keepFibre (s : State) (g gi tile p : Nat) : State :=
  match (graph? s g gi).bind fun gr => sinkNode? gr tile p, ce? s g gi tile with
  | some (i, j), some c =>
    let n := min 15 ((((c.fib[p]?).getD []).length + 15) / 16)
    modGraph s g gi fun gr => { gr with chans := modAt gr.chans i fun h => { h with nodes := modAt h.nodes j fun nd => { nd with kept := n } } }
  | _, _ => s

/-- A side consumes its head. A side that can be reset keeps the fibre until its closing token (R41). -/
def sideTake (s : State) (g gi tile p : Nat) (keep : Bool) (t : Token) : State :=
  match ce? s g gi tile with
  | none => s
  | some c =>
    let fib := (c.fib[p]?).getD []
    let rd := (c.rd[p]?).getD 0
    let s := if rd < fib.length then s else consume s g gi tile p 1
    let closes := isControl t && kindOf t ≠ 8
    let s := modCe s g gi tile fun c =>
      { c with fib := modAt c.fib p fun l => if closes || !keep then [] else if rd < l.length then l else l ++ [t]
               rd := modAt c.rd p fun n => if closes || !keep then 0 else n + 1
               last := modAt c.last p fun l => if closes then none else if isValue t then some (coordOf t) else l
               doneIn := if kindOf t = 5 then (4 + p) :: c.doneIn else c.doneIn }
    if keep || !fib.isEmpty then keepFibre s g gi tile p else s

/-- Return a side to the first token of its fibre. -/
def sideReset (s : State) (g gi tile p : Nat) : State :=
  modCe s g gi tile fun c => { c with rd := modAt c.rd p fun _ => 0, last := modAt c.last p fun _ => none }

/-- Pass one token to each port's binding. -/
def passPair (s : State) (g gi tile p : Nat) (a b : Token) : State :=
  modCe (wake s g) g gi tile fun c => { c with dlv := modAt (modAt c.dlv p fun l => l ++ [a]) (p + 1) fun l => l ++ [b] }

/-- One side's action on its head. A sampled token that it drops, and will not read again, has its sink here (R441). (Model: DESIGN CHOICE, unsafe: notes/assumptions 156) -/
def sideAct (s : State) (g gi tile p : Nat) (keep : Bool) (act : Nat) (t : Token) : State :=
  match act with
  | 0 => sideTake s g gi tile p keep t
  | 1 => sideTake (if keep then s else sinkAll s g gi tile [t]) g gi tile p keep t
  | 3 => sideReset s g gi tile p
  | _ => s

/-- Apply the actions of an outcome to two heads that are compared. (Model: DEDUCED, unsafe: notes/assumptions 37) -/
def joinOutcome (s : State) (g gi tile p : Nat) (jact : BitVec 12) (o : Nat) (a b : Token) : State :=
  let (aa, ab) := joinActs jact o
  let s := sideAct s g gi tile p (sideResets jact 0) aa a
  let s := sideAct s g gi tile (p + 1) (sideResets jact 1) ab b
  if aa = 0 || ab = 0 then passPair s g gi tile p (if aa = 0 then a else tok kindEMPTY 0 0) (if ab = 0 then b else tok kindEMPTY 0 0) else s

/-- One side's value meets the other side's closing token, which is kept: the side acts as it does on the smaller coordinate (R42). -/
def joinAlone (s : State) (g gi tile p : Nat) (jact : BitVec 12) (side : Nat) (t : Token) : State :=
  let (aa, ab) := joinActs jact (if side = 0 then 0 else 2)
  let act := if side = 0 then aa else ab
  let s := sideAct s g gi tile (p + side) (sideResets jact side) act t
  if act = 0 then passPair s g gi tile p (if side = 0 then t else tok kindEMPTY 0 0) (if side = 0 then tok kindEMPTY 0 0 else t) else s

/-- One compare of a paired join unit (R40-R42). A control token that is passed alone goes to both ports' bindings. (Model: DEDUCED, unsafe: notes/assumptions 142) -/
def joinUnit (s : State) (g gi tile p : Nat) (gr : Graph) (c : Ce) (jact : BitVec 12) : State :=
  let room := decide (((c.dlv[p]?).getD []).length < 16) && decide (((c.dlv[p + 1]?).getD []).length < 16)
  let ha := sideHead gr c tile p
  let hb := sideHead gr c tile (p + 1)
  let bad (i : Nat) (h : Option Token) : Bool := h.any fun t => badToken t || has c.doneIn (4 + i)
  let wrong (h : Option Token) : Bool := h.any fun t => decide (kindOf t = 0 ∨ kindOf t = 3) || isEmpty t
  let late (i : Nat) (h : Option Token) : Bool := h.any fun t => hasCoord t && ((c.last[i]?).bind id).any fun l => decide (coordOf t ≤ l)
  let both (s : State) (a b : Token) : State := sideTake (sideTake s g gi tile p false a) g gi tile (p + 1) false b
  if !room then s
  else if bad p ha || bad (p + 1) hb then elemFreeze s g gi tile TOKEN_BAD
  else if wrong ha || wrong hb then elemFreeze s g gi tile TOKEN_ALIGN
  else if late p ha || late (p + 1) hb then elemFreeze s g gi tile STREAM_ORDER
  else if (sideResets jact 0 && 256 < ((c.fib[p]?).getD []).length) || (sideResets jact 1 && 256 < ((c.fib[p + 1]?).getD []).length) then
    elemFreeze s g gi tile FIBRE_SPAN
  else
    let scale (i : Nat) (t : Token) : State := passPair (sideTake s g gi tile (p + i) (sideResets jact i) t) g gi tile p t t
    match ha, hb with
    | some a, some b =>
      if kindOf a = 8 then scale 0 a
      else if kindOf b = 8 then scale 1 b
      else if hasCoord a && hasCoord b then
        joinOutcome s g gi tile p jact (if coordOf a < coordOf b then 0 else if coordOf b < coordOf a then 2 else 1) a b
      else if hasCoord a then joinAlone s g gi tile p jact 0 a
      else if hasCoord b then joinAlone s g gi tile p jact 1 b
      else if isStop a && isStop b then
        if levelOf a ≠ levelOf b then elemFreeze s g gi tile TOKEN_ALIGN
        else
          let t := heir a (stopTok (match errOf a with | some e => some e | none => errOf b) (levelOf a))
          passPair (both (sinkAll s g gi tile [b]) a b) g gi tile p t t
      else if kindOf a = 5 && kindOf b = 5 then passPair (both s a b) g gi tile p a b
      else if kindOf a = 5 then passPair (sideTake s g gi tile (p + 1) false b) g gi tile p b b
      else passPair (sideTake s g gi tile p false a) g gi tile p a a
    | some a, none => if kindOf a = 8 then scale 0 a else s
    | none, some b => if kindOf b = 8 then scale 1 b else s
    | none, none => s

/-- A paired join unit compares its two heads: that of I0 and I1, or, `upper`, that of I2 and I3. -/
def execJoinCompare (g gi tile : Nat) (upper : Bool) (s : State) : Host.Outcome State Fault Refusal :=
  .next (match grp? s g, graph? s g gi, ce? s g gi tile with
    | some x, some gr, some c =>
      let p := if upper then 2 else 0
      match c.ports[p]? with
      | some b => if !elemLive s g gi tile || savedCut x c.marks || !b.join then s else joinUnit s g gi tile p gr c b.jact
      | none => s
    | _, _, _ => s)

/-! ## MARKs (R208, R226, R256, R317) -/

/-- The MARK of a cut. -/
def markTok (c : Nat) : Token := tok kindMARK (c % 8) c

/-- Whether MARK c waits at every one of some inputs, or DONE, which is the last token of its channel; an element without routed inputs has it from the device. (Model: DEDUCED, unsafe: notes/assumptions 132) -/
def marksThere (gr : Graph) (tile c : Nat) (ins : List Nat) : Bool :=
  ins.all fun i => markAt gr tile i c || (portTokens gr tile i).any fun t => decide (kindOf t = 5)

/-- Take the MARKs, and send one on every routed output that has not sent DONE (R26, R208). -/
def passMarks (s : State) (g gi tile c : Nat) (ins outs : List Nat) : State :=
  let s := ins.foldl (fun s i => dropMark s g gi tile i c) s
  outs.foldl (fun s o => if ((graph? s g gi).map fun gr => sentDone gr tile o).getD true then s else send s g gi tile o [markTok c]) s

/-- Routed inputs of a list that have not given DONE. -/
def openIns (gr : Graph) (tile : Nat) (ins done : List Nat) : List Nat := ins.filter fun i => routedIn gr tile i && !has done i

/-- The opcode of a slot of a CE. -/
def slotOp (c : Ce) (slot : Nat) : Nat := opOfWord ((c.words[slot]?).getD 0)

/-- Whether a firing that is under way must end before its CE saves: its accesses perform first; a parked reader or an invocation does not hold the cut (R317, R323). -/
def ceBusy (c : Ce) : Bool := c.waits.any fun w => !has [0x10D, 0x10E, 0x18B] (slotOp c w.slot) && w.pos.any fun p => decide (0 < p.owed)

/-- The parked readers of a CE, and its SPAWNs that wait for a tag, are withdrawn: each issues afresh on resume (R193, R317). -/
def withdrawCe (s : State) (g gi tile : Nat) : State :=
  let mine (v : Site) : Bool := match v with | .ce g' gi' t' _ _ => decide (g' = g ∧ gi' = gi ∧ t' = tile) | _ => false
  let spawns : List (Site × Nat) := match grp? s g with
    | none => []
    | some x => x.image.graphs.flatMap fun (_, gr) => gr.tiles.flatMap fun (_, t) =>
        match t.mt.bind (·.fn) with
        | some m => (m.waiting.filter fun p => mine p.1.site).map fun p => (p.1.site, p.1.pos)
        | none => []
  let keep (w : SyncWord) : SyncWord :=
    let a := w.readers.filter (fun r => !mine r.site)
    let b := w.overflow.filter (fun r => !mine r.site)
    { w with readers := a, overflow := b, serving := w.serving && !(a.isEmpty && b.isEmpty) }
  let mtf (m : MtState) : MtState := { m with sync := Tab.mapVals m.sync fun _ w => keep w, waiting := m.waiting.filter fun p => !mine p.1.site }
  let s := modImage s g fun i => { i with graphs := Tab.mapVals i.graphs fun _ gr =>
    { gr with tiles := Tab.mapVals gr.tiles fun _ t => { t with mt := t.mt.map fun m => { m with fn := m.fn.map mtf } } } }
  let back (p : NodePos) : NodePos := { p with issued := false, owed := 0 }
  modCe s g gi tile fun c =>
    { c with waits := c.waits.map fun w =>
        { w with pos := w.pos.zipIdx.map fun (p, i) =>
            if has [0x10D, 0x10E] (slotOp c w.slot) then (if 0 < p.owed then back p else p)
            else if spawns.any fun q => decide (q = (.ce g gi tile w.frame w.slot, i)) then back p else p } }

/-- A CE saves its state (R208): the tokens ahead of a port's MARK that its slots have not used are its frames'. -/
def markCe (s : State) (g gi tile n : Nat) (gr : Graph) (c : Ce) : State :=
  let ins := (openIns gr tile [0, 1, 2, 3] []).filter fun p => !has c.doneIn p && !has c.doneIn (4 + p)
  let outs := (List.range 8).filter fun o => !has c.doneOut o
  -- results that may leave do so first (R146)
  if has c.marks n || ceBusy c || (c.stage.any fun o => !stageBlocked c o) || !marksThere gr tile n ins || !roomOn gr tile outs then s
  else modCe (passMarks (withdrawCe s g gi tile) g gi tile n ins outs) g gi tile fun c => { c with marks := n :: c.marks }

/-- Whether MARK stands at the head of some input, so that the tokens ahead of it have been taken. -/
def markHead (gr : Graph) (tile : Nat) (ins : List Nat) : Bool := ins.isEmpty || ins.any fun i => ((portHead gr tile i).map fun t => decide (kindOf t = 7)).getD false

/-- An SU saves its state: MARK c has reached one input and waits at every other (R208). -/
def markSu (s : State) (g gi tile n : Nat) (gr : Graph) (u : SuState) : State :=
  let ins := openIns gr tile [0, 1, 2] u.inDone
  let outs := if u.ended then [] else [0, 1, 2, 3]
  if has u.marks n || !markHead gr tile ins || !marksThere gr tile n ins || !roomOn gr tile outs then s
  else modSu (passMarks (dropMark s g gi tile 3 n) g gi tile n ins outs) g gi tile fun u => { u with marks := n :: u.marks }

/-- The gate (R226): MARK c leaves towards O0, and on O1, when it reaches I0, or at once when I0 has given DONE. Until it returns on I1 the gate takes in every token that arrives there;
then its part is complete. In DRAIN the loop has had its DONE, and O1 alone takes MARK c. -/
def markGate (s : State) (g gi tile n : Nat) (x : Group) (gr : Graph) (f : SuFrame) (u : SuState) : State :=
  if has u.marks n then s
  else if u.gateMark = some n then
    let came := (portTokens gr tile 1).takeWhile fun t => decide (kindOf t ≠ 7)
    if came.any badToken then elemFreeze s g gi tile TOKEN_BAD
    else if came ≠ [] then modSu (consume s g gi tile 1 came.length) g gi tile fun u => { u with recorded := u.recorded ++ came }
    else if markAt gr tile 1 n then modSu (dropMark s g gi tile 1 n) g gi tile fun u => { u with gateMark := none, marks := n :: u.marks }
    else s
  else if u.ended then modSu s g gi tile fun u => { u with marks := n :: u.marks }
  else if u.gate = .drain then
    if roomOn gr tile [1, 2, 3] then modSu (passMarks s g gi tile n [] [1, 2, 3]) g gi tile fun u => { u with marks := n :: u.marks } else s
  else
    let seeded := has u.inDone 0
    let reached := seeded || ((portHead gr tile 0).map fun t => decide (kindOf t = 7)).getD false && markAt gr tile 0 n
    if !reached || !gateRoom f gr tile u || !roomOn gr tile [1, 2, 3] then s
    else
      let s := if seeded then s else dropMark s g gi tile 0 n
      let s := gateSend s g gi tile x f gr u (markTok n) (markTok n)
      modSu (passMarks s g gi tile n [] [1, 2, 3]) g gi tile fun u => { u with gateMark := some n }

/-- An AG saves its state (R208, R231): the reads that it has issued deliver first, and its writes perform. -/
def markAg (s : State) (g gi tile lane n : Nat) (gr : Graph) (a : AgState) : State :=
  let ins := if a.ended || a.inDone then [] else openIns gr tile [agIdxIn lane, agDataIn lane] []
  let outs := if a.ended then [] else [agOut lane]
  let own := lane = 0 && has [0x288, 0x289] (mtFnOp s g gi tile)
  if has a.marks n || own || (!a.queue.isEmpty && a.stopped.isNone) || !(markHead gr tile ins || a.stopped.isSome) || !marksThere gr tile n ins || !roomOn gr tile outs then s
  else if a.circuit.isSome then (circClose s g gi tile lane).getD s
  else if a.writesOwed ≠ 0 then s
  else modAg (passMarks s g gi tile n ins outs) g gi tile lane fun a => { a with marks := n :: a.marks }

/-- An MT's function saves its state; MTCMPR and MTEXPD save with the AG that they use. -/
def markFn (s : State) (g gi tile n : Nat) (gr : Graph) (m : MtState) : State :=
  let op := fieldOf m.frame 0 10
  let paired := op = 0x288 || op = 0x289
  let a := ag? s g gi tile 0
  let ins := if op = 0x288 then [] else if op = 0x289 then (if ((a.map (·.inDone)).getD true) then [] else openIns gr tile [1] [])
    else openIns gr tile [2] (if m.inDone then [2] else [])
  let outs := if paired then (if ((a.map (·.ended)).getD true) then [] else [0]) else if op = 0x28B || m.inDone then [] else [2]
  let settled := !paired || (a.map fun a => (a.queue.isEmpty || a.stopped.isSome) && decide (a.writesOwed = 0)).getD true
  if has m.marks n || !settled || !(markHead gr tile ins || (paired && a.any fun a => a.stopped.isSome)) || !marksThere gr tile n ins || !roomOn gr tile outs then s
  else if paired && (a.any fun a => a.circuit.isSome) then (circClose s g gi tile 0).getD s
  else
    let s := modMtFn (passMarks s g gi tile n ins outs) g gi tile fun m =>
      -- parked readers are withdrawn, and issue afresh on resume (R193, R317)
      { m with marks := n :: m.marks, sync := Tab.mapVals m.sync fun _ w => { w with readers := [], overflow := [], serving := false } }
    if paired then modAg s g gi tile 0 fun a => { a with marks := n :: a.marks } else s

/-- A cell saves its state (R256): K-blocks that are all there are accumulated, and drained rows that are due have left. -/
def markMc (s : State) (g gi tile n : Nat) (gr : Graph) (m : Mc) : State :=
  let ins := (if m.aDone then [] else openIns gr tile [0] []) ++ (if m.ended then [] else openIns gr tile [1] [])
  let op := ((m.pass.bind fun p => mcConfig m p.1).map mcOp).getD 0
  let y := ((cellPos m.frames).map fun p => p.2.2.1).getD 0
  let headMark (i : Nat) : Bool := !has ins i || ((portHead gr tile i).map fun t => decide (kindOf t = 7)).getD true
  let busy := (has [0x240, 0x241, 0x244] op && (decide (32 ≤ m.row) || !headMark 0))
    || (op = 0x242 && (decide (32 * y ≤ m.north) || !headMark 1)) || op = 0x243
  let outs := [0, 1]
  if has m.marks n || busy || !marksThere gr tile n ins || !roomOn gr tile outs then s
  else modMc (passMarks s g gi tile n ins (if m.ended then [0] else outs)) g gi tile fun m => { m with marks := n :: m.marks }

/-- MARK c finds the group quiescent (R368): no token can move, and an element saves its state where it stands. Accesses that have been answered are saved with the AG that waits for room. -/
def markStanding (s : State) (g gi tile port n : Nat) (t : Tile) : State :=
  let held (a : AgState) : Bool := has a.marks n || decide (a.writesOwed ≠ 0) || (a.stopped.isNone && a.queue.any fun q => !q.2.2)
  match t.ce, t.su, t.mc, t.mt with
  | some c, _, _, _ => if has c.marks n || ceBusy c then s else modCe (withdrawCe s g gi tile) g gi tile fun c => { c with marks := n :: c.marks }
  | _, some u, _, _ => if has u.st.marks n then s else modSu s g gi tile fun u => { u with marks := n :: u.marks }
  | _, _, some m, _ => if has m.marks n then s else modMc s g gi tile fun m => { m with marks := n :: m.marks }
  | _, _, _, some _ =>
    let paired := has [0x288, 0x289] (mtFnOp s g gi tile)
    if port = 2 then
      match (mt? s g gi tile).bind (·.fn) with
      | none => s
      | some m =>
        let a := ag? s g gi tile 0
        if has m.marks n || (paired && a.any held) then s
        else if paired && (a.any fun a => a.circuit.isSome) then (circClose s g gi tile 0).getD s
        else
          let s := modMtFn s g gi tile fun m => { m with marks := n :: m.marks, sync := Tab.mapVals m.sync fun _ w => { w with readers := [], overflow := [], serving := false } }
          if paired then modAg s g gi tile 0 fun a => { a with marks := n :: a.marks } else s
    else match ag? s g gi tile port with
      | none => s
      | some a =>
        if held a || (paired && decide (port = 0)) then s
        else if a.circuit.isSome then (circClose s g gi tile port).getD s
        else modAg s g gi tile port fun a => { a with marks := n :: a.marks }
  | _, _, _, _ => s

/-- An element whose inputs have all received the MARK of the running cut forwards it and saves its state. `port` names the lane of an MT: 0 and 1 its address
generators, 2 its function. -/
def execMark (g gi tile port : Nat) (s : State) : Host.Outcome State Fault Refusal :=
  .next (match grp? s g, graph? s g gi, tile? s g gi tile with
    | some x, some gr, some t =>
      if !elemLive s g gi tile || x.state != .cutting || !x.marksGo then s
      else
        let n := x.cutNo
        if x.markStill then markStanding s g gi tile port n t
        else match t.ce, t.su, t.mc, t.mt with
        | some c, _, _, _ => markCe s g gi tile n gr c
        | _, some u, _, _ =>
          if fieldOf u.frame 0 10 = 0x20A && u.frame.getLsbD 160 then markGate s g gi tile n x gr (suFrameOf u.frame) u.st else markSu s g gi tile n gr u.st
        | _, _, some m, _ => markMc s g gi tile n gr m
        | _, _, _, some _ =>
          if port = 2 then (match (mt? s g gi tile).bind (·.fn) with | some m => markFn s g gi tile n gr m | none => s)
          else (match ag? s g gi tile port with | some a => markAg s g gi tile port n gr a | none => s)
        | _, _, _, _ => s
    | _, _, _ => s)

/-- Whether every element of a tile has saved its state for cut n. -/
def tileSaved (t : Tile) (n : Nat) : Bool :=
  (t.ce.all fun c => has c.marks n) && (t.su.all fun u => has u.st.marks n) && (t.mc.all fun m => has m.marks n)
    && (t.mt.all fun m => (m.fn.all fun f => has f.marks n) && (m.ag0.all fun a => has a.marks n) && (m.ag1.all fun a => has a.marks n))

/-! ## Stalls (R237) -/

/-- Whether a graph's elements or channels hold a token. -/
def holdsTokens (gr : Graph) : Bool :=
  (gr.chans.any fun c => c.nodes.any fun n => !n.beats.isEmpty)
    || gr.tiles.any fun (_, t) =>
      (t.ce.any fun c => !c.stage.isEmpty || c.dlv.any (fun l => !l.isEmpty) || !c.carry.isEmpty || c.frames.any fun f => f.live && f.entries.any fun e => !e.2.isEmpty)
        || (t.su.any fun u => u.st.pending.isSome || u.st.fold.isSome || decide (u.st.spill ≠ 0) || u.st.dupB.isSome || !u.st.recorded.isEmpty || (u.st.dupA.isSome && has [0x208, 0x209, 0x20A] (fieldOf u.frame 0 10)))
        || (t.mt.any fun m => (m.ag0.any fun a => !a.queue.isEmpty) || (m.ag1.any fun a => !a.queue.isEmpty))
        || (t.mc.any fun m => !m.arows.isEmpty)

/-- Whether an access of a graph is outstanding: node accesses, parked readers, AG reads and writes, AGs stopped by a page fault, pending invocations. -/
def accessOut (s : State) (g gi : Nat) (gr : Graph) : Bool :=
  (gr.tiles.any fun (_, t) =>
    (t.ce.any fun c => !c.waits.isEmpty)
      || (t.mt.any fun m =>
          ([m.ag0, m.ag1].filterMap id).any (fun a => decide (a.writesOwed ≠ 0) || a.stopped.isSome || a.queue.any fun q => !q.2.2)
            || (m.fn.any fun f => !f.invs.isEmpty || !f.waiting.isEmpty || f.sync.any fun w => !w.2.readers.isEmpty || !w.2.overflow.isEmpty)))
    || (s.reqs.any fun r => match r.dest with | .load (.ce g' gi' _ _ _) _ _ _ | .ag g' gi' _ _ _ => decide (g' = g ∧ gi' = gi) | _ => false)

/-- Whether a graph is stalled: no token has moved for STALLCYC cycles, no access is outstanding, and it holds a token. -/
def graphStalled (s : State) (g gi : Nat) (x : Group) (gr : Graph) : Bool :=
  !gr.stalled && placed x && x.stallcyc ≠ 0 && decide (gr.lastMove + x.stallcyc ≤ s.cycle) && !accessOut s g gi gr && holdsTokens gr

/-- The work name of the lowest element of a graph (R358). -/
def lowestWork (s : State) (g gi : Nat) (gr : Graph) : Nat := (minOf? (gr.tiles.map fun p => workName s g gi p.1)).getD 0

end Sys2Proof.Machine
end

