-- ==== Sys2Proof/Machine/Serve.lean ====
section
/-! DEFINITION. Serving points and answers (R117-R121, R127, R130, R134, R135, R346): stores that leave a cluster's write queue and perform, the PCIe link's order, and
what an answer or a refusal does at the place that waits for it. -/

namespace Sys2Proof.Machine

/-! ## Performing -/

/-- A node's position or an AG learns that one of its writes has performed. -/
def notePerformed (s : State) (note : Option (Site × Nat)) : State :=
  match note with
  | some (.ce g gi tile fr slot, i) => nodeSettle (modPos s g gi tile fr slot i fun p => { p with owed := p.owed - 1 }) g gi tile fr slot
  | some (.elem g gi tile lane, _) => modAg s g gi tile lane fun a => { a with writesOwed := a.writesOwed - 1 }
  | _ => s

/-- The parties of engine queues are numbered from here. -/
def engBase : Nat := 2 ^ 30
/-- The party of an engine queue's accesses. -/
def engParty (g th : Nat) (q : Qu) : Nat × Nat := (g, engBase + 4 * th + Qu.code q)

/-- A gang member takes GANG_ABORT where another group takes an engine fault (R398); the freeze line carries it to FREEZE_LINE. (Model: DEDUCED, unsafe: notes/assumptions 29, 113) -/
def engineFault (s : State) (g addr : Nat) : State := raiseFreeze s g 0x25 0 addr 0

/-- A store is refused at its home after it has left (R346): the edge AG of a node stops and its access issues again; an engine raises ENGINE_FAULT; a store of a
committed block raises its page fault on the freeze line. (Model: UNVERIFIED, unsafe: notes/assumptions 27) -/
def storeRefused (s : State) (party : Nat × Nat) (note : Option (Site × Nat)) (va : Nat) : State :=
  match note with
  | some (.ce g gi tile fr slot, i) =>
    stopPos (modPos s g gi tile fr slot i fun p => { p with issued := false, owed := 0 }) g gi tile fr slot i va 6 true
  | _ => if engBase ≤ party.2 then engineFault s party.1 va else raiseFreeze s party.1 8 6 va 0

/-- Requests of one party share a link (R394). -/
def partyFlow (party : Nat × Nat) : Dest → Bool := fun d =>
  (match d with | .store p _ => decide (p = party) | _ => false)
    || (if party.2 < 4096 then threadFlow party.1 party.2 d else if party.2 < 8192 then nodeFlow party.1 ((party.2 - 4096) / 16) d else false)

/-- Bytes at keys cut into runs of consecutive keys, at most as long as a job packet takes (R413). -/
def runsOf : List (Nat × Byte) → List (List (Nat × Byte))
  | [] => []
  | (k, b) :: r =>
    match runsOf r with
    | ((k', b') :: t) :: rest =>
      if k' = k + 1 && t.length < jobBytes - 1 then ((k, b) :: (k', b') :: t) :: rest else [(k, b)] :: ((k', b') :: t) :: rest
    | l => [(k, b)] :: l

/-- The pieces of a store: what lies in the module, then runs at the host, then runs at peers. -/
def piecesOf (l : List (Nat × Byte)) : List (List (Nat × Byte)) :=
  let here := l.filter fun p => !isHost p.1 && !isPeer p.1
  (if here = [] then [] else [here]) ++ runsOf (l.filter fun p => isHost p.1) ++ runsOf (l.filter fun p => isPeer p.1)

/-- One piece of a store goes to its serving point: it performs there, joins the PCIe link's order, or leaves for its home; none when no credit is there. -/
def servePiece (s : State) (c : Nat) (party : Nat × Nat) (note : Option (Site × Nat)) (p : List (Nat × Byte)) : Option State :=
  match p with
  | [] => some s
  | (k, _) :: _ =>
    if isHost k then some (pciePush s (.write p party note))
    else if isPeer k then
      match sendRequest s c (peerPkg k) 2 (peerHasid k) (peerVa k) 0 (p.map (·.2)) (.store party note) (partyFlow party) with
      | .gone s => some s
      | .later => none
      | .unreachable => some (storeRefused s party note (peerVa k))
    else some (notePerformed (putBytes (eccStore s p) p) note)

def servePieces (c : Nat) (party : Nat × Nat) (note : Option (Site × Nat)) : State → List (List (Nat × Byte)) → Option State
  | s, [] => some s
  | s, p :: r => (servePiece s c party note p).bind fun s => servePieces c party note s r

/-- A position is owed one performing for each piece of its store. -/
def oweMore (s : State) (note : Option (Site × Nat)) (n : Nat) : State :=
  match note with
  | some (.ce g gi tile fr slot, i) => modPos s g gi tile fr slot i fun p => { p with owed := p.owed + n }
  | _ => s

/-- Whether an earlier entry of a queue holds an entry back: it touches one of its locations (R117, R119), or it is a release FENCE of the same party. -/
def heldBehind (d e : WqEntry) : Bool :=
  (d.bytes.any fun p => e.bytes.any fun r => decide (p.1 / 8 = r.1 / 8)) || (d.bytes.isEmpty && decide (d.party = e.party))

/-- Entry k of a cluster's write queue reaches its serving point (R119, R120, R125): no earlier entry touches its locations, and a release's party has no earlier store that
has still to perform at its scope. What goes to a peer stays in the queue, which serves it to the cluster, until its home has acknowledged it (R118, R120); an acquire store on its way to the host carries the note of no site. -/
def drainEntry (s : State) (cl k : Nat) : Option State :=
  let q := (cluster s cl).writeq
  match q[k]? with
  | none => none
  | some e =>
    let earlier := q.take k
    if e.sent || earlier.any (heldBehind · e) || !entryVisible s servedParty earlier e then none
    else
      let c := ((grp? s e.party.1).map (·.ctx)).getD 0
      let ps := piecesOf e.bytes
      let away := e.bytes.filter fun p => isPeer p.1
      let note := if e.acq then e.note.or (some (.none, 0)) else e.note
      let s := modCluster s cl fun k' =>
        { k' with writeq := if away = [] then eraseAt k'.writeq k else modAt k'.writeq k fun e => { e with bytes := away, rel := false, sent := true } }
      servePieces c e.party note (oweMore s e.note (ps.length - 1)) ps

/-- A store to a peer has been answered: its bytes leave the queue that still holds them. -/
def unqueue (s : State) (r : Req) : State :=
  match r.dest with
  | .store party _ =>
    let lo := peerKey r.home r.pkt.hasid.toNat r.pkt.va.toNat
    let gone (e : WqEntry) : WqEntry :=
      if e.sent && decide (e.party = party) then { e with bytes := e.bytes.filter fun p => decide (p.1 < lo) || decide (lo + r.pkt.data.length ≤ p.1) } else e
    { s with clusters := Tab.mapVals s.clusters fun _ c => { c with writeq := (c.writeq.map gone).filter fun e => !(e.sent && e.bytes.isEmpty) } }
  | _ => s

/-! ## Answers -/

/-- The data of an access reach the place that waits for them. -/
def answer (s : State) (d : Dest) (l : List Byte) : State :=
  match d with
  | .load (.block g th b slot) _ at_ _ => answerBlock s g th b slot at_ (.ok l)
  | .load (.ce g gi tile fr slot) i at_ _ =>
    nodeSettle (modPos s g gi tile fr slot i fun p => { p with val := p.val ||| BitVec.ofNat 64 (natOfBytes l * 2 ^ (8 * at_)), owed := p.owed - 1 }) g gi tile fr slot
  | .atomic (.block g th b slot) _ w => deliverLoad (dropWait s g th b slot) g th b slot (splat (splatLane w (natOfBytes l))) 0
  | .atomic (.ce g gi tile fr slot) i _ =>
    nodeSettle (modPos s g gi tile fr slot i fun p => { p with val := BitVec.ofNat 64 (natOfBytes l), owed := p.owed - 1 }) g gi tile fr slot
  | .store _ note => notePerformed s note
  | .engine g th q key => engAnswer s g th q key l
  | .multicast g th m => engAnswer s g th .cl (memberKey m) [0]
  | .rinv g th => engAnswer s g th .cl rinvKey (if l = [] then List.replicate 16 0 else l ++ bytesOf 8 1)
  | .ag g gi tile lane id => agAnswer s g gi tile lane id l
  | _ => s

/-- An access fails with a cause of R350 (R346, R398, R403). -/
def refuse (s : State) (d : Dest) (ptype : Nat) (p : Packet) (cause : Nat) : State :=
  let va := p.va.toNat
  match d with
  | .load (.block g th b slot) _ at_ _ => answerBlock s g th b slot at_ (.error cause)
  | .load (.ce g gi tile fr slot) i _ _ =>
    stopPos (modPos s g gi tile fr slot i fun q => { q with issued := false, owed := 0 }) g gi tile fr slot i va cause false
  | .atomic (.block g th b slot) _ _ => memFault (dropWait s g th b slot) g th b slot 8 cause true va
  | .atomic (.ce g gi tile fr slot) i _ =>
    stopPos (modPos s g gi tile fr slot i fun q => { q with issued := false, owed := 0 }) g gi tile fr slot i va cause true
  | .store party (some (.elem g gi tile lane, _)) => if engBase ≤ party.2 then s else agRefused s g gi tile lane 0 ptype p
  | .store party note => storeRefused s party note va
  | .engine g _ _ _ => engineFault s g va
  | .multicast g th m => engAnswer s g th .cl (memberKey m) [1]
  | .rinv g _ => engineFault s g va
  | .ag g gi tile lane id => agRefused s g gi tile lane id ptype p
  | _ => s

/-! ## The PCIe link (R120, R134, R135) -/

/-- A packet that stands for a request at the host, for the fields that a refusal shows. -/
def hostPacket : Packet := { src := 0, dst := 0, hasid := 0, tag := 0, va := 0, jobid := 0, flag := 0, data := [] }

/-- The oldest request of the PCIe link completes: a posted write has performed at system scope, a read or an AtomicOp returns. `ok` is false for a completion that
reports an error; with the link down nothing is reached (R403). -/
def pcieHead (s : State) (ok : Bool) : State :=
  match s.pcie with
  | [] => s
  | r :: rest =>
    let s := { s with pcie := rest }
    match r with
    | .write l _ note => notePerformed (if hostUp s then putBytes s l else s) note
    | .read key n dest => if ok && hostUp s then answer s dest (rdBytes s key n) else refuse s dest 0 hostPacket 2
    | .atomic key n op b c dest =>
      if ok && hostUp s then
        let old := rdNum s key n
        answer (wrNum s key n (atomNew op (if n = 4 then .n32 else .n64) old b.toNat c.toNat)) dest (bytesOf n old)
      else refuse s dest 4 hostPacket 2

/-- Requests of the PCIe link complete in order until none of some groups' posted writes is left among them (R120, R132). -/
def flushHost (gs : List Nat) : Nat → State → State
  | 0, s => s
  | fuel + 1, s =>
    if s.pcie.any fun r => match r with | .write _ p _ => has gs p.1 | _ => false then flushHost gs fuel (pcieHead s true) else s

/-- Whether a store of some groups to host memory has still to perform at system scope. -/
def hostStoresOut (s : State) (gs : List Nat) : Bool :=
  (s.clusters.any fun c => c.2.writeq.any fun e => has gs e.party.1 && e.bytes.any fun p => isHost p.1)
    || s.pcie.any fun r => match r with | .write _ p _ => has gs p.1 | _ => false

/-- Entries of a cluster's write queue that can reach their serving points do, oldest first. -/
def drainQueue : Nat → State → Nat → Nat → State
  | 0, s, _, _ => s
  | fuel + 1, s, cl, k =>
    if (cluster s cl).writeq.length ≤ k then s
    else match drainEntry s cl k with
      | some s => drainQueue fuel s cl k
      | none => drainQueue fuel s cl (k + 1)

/-- Stores of some groups to host memory perform at system scope as far as they can (R132): their write queues drain, and the PCIe link completes what they have posted; a release among them may then follow. -/
def flushGroups (gs : List Nat) : Nat → State → State
  | 0, s => s
  | fuel + 1, s =>
    if !hostStoresOut s gs then s
    else
      let cls := gs.flatMap fun g => ((grp? s g).map clustersOf).getD []
      let s := cls.foldl (fun s cl => drainQueue (cluster s cl).writeq.length s cl 0) s
      flushGroups gs fuel (flushHost gs s.pcie.length s)

end Sys2Proof.Machine
end

