-- ==== Sys2Proof/Machine/Life.lean ====
section
/-! DEFINITION. What ends and what goes on: completion records and queue resets (R286, R291, R295), the end of groups (R310, R311), kernels that leave (R304), contexts that
settle (R273), barriers' phases, waits and arrivals (R331-R337), and what wakes a SAVED group (R320, R353). -/

namespace Sys2Proof.Machine

/-! ## Queues -/

def queueCtx (x : Queue) : Nat := fieldOf x.cfg 0 12
def queueClass (x : Queue) : Nat := fieldOf x.cfg 12 2
def queueFed (x : Queue) : Bool := x.cfg.getLsbD 14
def queueSize (x : Queue) : Nat := 2 ^ fieldOf x.cfg 15 5
/-- Whether a queue belongs to a context: it is not FREE and names it. -/
def queueOf (x : Queue) (c : Nat) : Bool := x.st != .free && decide (queueCtx x = c)
/-- Whether a queue takes doorbells and puts (R283, R293). -/
def queueOpen (x : Queue) : Bool := x.st == .idle || x.st == .active || x.st == .stalled
def queueFull (x : Queue) : Bool := decide ((x.pidx - x.cidx).toNat = queueSize x)

/-- Where the records of a queue go: its context, its completion ring and the ring's slots. -/
def queueRing (x : Queue) : Nat × Nat × Nat := (queueCtx x, x.cqbase.toNat, queueSize x)

/-- The completion record of a command (R286), on a ring: the record performs at system scope. A write that fails drops it and gives event 6 (R291). -/
def recordOn (s : State) (ring : Nat × Nat × Nat) (q seq typ status detail : Nat) : State :=
  let (c, base, slots) := ring
  let w := seq % 2 ^ 32 + typ % 256 * 2 ^ 32 + status % 256 * 2 ^ 40 + detail % 2 ^ 16 * 2 ^ 48 + s.dtime % 2 ^ 64 * 2 ^ 64
  match ownWrite s c (base + 16 * (seq % slots)) (bytesOf 16 w) with
  | .ok s => s
  | .error cause => event s (ownerOf s c) 6 c q cause (seq % 2 ^ 24)

def putRecord (s : State) (q seq typ status detail : Nat) : State := recordOn s (queueRing (queue s q)) q seq typ status detail

/-- KLOAD and KEVICT run to their end in a reset (R295). -/
def outlivesReset (k : Cmd) : Bool := decide (k.typ = 4 ∨ k.typ = 5)

/-- A reset whose steps are done (R295): the context's trace session is cut short, its event is written, and the queue is IDLE, or FREE for a DESTROY. -/
def queueSettle (s : State) (q : Nat) : State :=
  let x := queue s q
  if x.st != .resetting || x.cmds.any (fun k => !outlivesReset k) then s
  else
    let c := queueCtx x
    let s := traceClose s c true
    let s := setQueue s q { x with st := if x.destroying then .free else .idle, err := 0, head := none, polls := none, destroying := false, resetCode := 0 }
    if x.resetCode = 0 then s else event s (ownerOf s c) x.resetCode c q 0 (x.cidx.toNat % 2 ^ 24)

/-- A started command completes: one record, and it is no longer outstanding. -/
def complete (s : State) (q seq typ status detail : Nat) : State :=
  match (queue s q).cmds.find? fun k => decide (k.seq = seq ∧ k.typ = typ) with
  | some k =>
    let s := recordOn s k.ring q seq typ status detail
    queueSettle (modQueue s q fun x => { x with cmds := x.cmds.filter fun k => !decide (k.seq = seq ∧ k.typ = typ) }) q
  | none => s

/-! ## Kernels (R304) -/

def kernel? (s : State) (c kid : Nat) : Option Kernel := s.kernels.find? fun k => decide (k.ctx = c ∧ k.kid = kid)
def modKernel (s : State) (c kid : Nat) (f : Kernel → Kernel) : State :=
  { s with kernels := s.kernels.map fun k => if k.ctx = c ∧ k.kid = kid then f k else k }

/-- Units of the configuration cache in use. -/
def ccUsed (s : State) : Nat := (s.kernels.map (·.units)).foldl (· + ·) 0

/-- The key of a kernel's copy. -/
def copyKey (s : State) (k : Kernel) : Nat := hbmKey (fieldOf s.ccbase 16 36 * 65536) + k.base * 65536

/-- The parts of a kernel's copy that a reader of its header, its directory and its table reads, as offset and length. -/
def copyHead (s : State) (k : Kernel) : List (Nat × Nat) :=
  let key := copyKey s k
  let d := imgDir s key 0
  [(0, 128), (imgDirOff s key, 8 * imgDirCount s key)] ++ if hasTable s key then [(dirOff d, dirLen d)] else []

/-- The parts that the load of the graph at a directory index reads besides. -/
def copyGraph (s : State) (k : Kernel) (i : Nat) : List (Nat × Nat) :=
  let key := copyKey s k
  (imgDir s key i :: graphFrames s key i).map fun d => (dirOff d, if dirIsFrame d then dirLen d else 32)

/-- A read of parts of a kernel's copy: correctable errors are corrected, and an uncorrectable one is fatal (R110, R297). The answer says whether it was. -/
def readCopy (s : State) (k : Kernel) (parts : List (Nat × Nat)) : State × Bool :=
  let key := copyKey s k
  let s := parts.foldl (fun s p => eccFixAt s (key + p.1) p.2) s
  if parts.any fun p => poisoned s (key + p.1) p.2 then (raiseFatal s 0x40 none 0, true) else (s, false)

/-- A kernel's units are freed and its copy is gone; the copies behind it move down, so that copies stand packed in the cache. Only the device reaches them (R297). -/
def dropKernel (s : State) (c kid : Nat) : State :=
  match kernel? s c kid with
  | none => s
  | some k =>
    let lo := copyKey s k
    let n := k.units * 65536
    let hi := hbmKey (fieldOf s.ccbase 16 36 * 65536) + ccUsed s * 65536
    let move (j : Nat) : Nat := if lo + n ≤ j ∧ j < hi then j - n else j
    { s with
      kernels := (s.kernels.filter fun j => !decide (j.ctx = c ∧ j.kid = kid)).map fun j => if k.base < j.base then { j with base := j.base - k.units } else j
      mem := (s.mem.filter fun p => !(decide (lo ≤ p.1) && decide (p.1 < lo + n))).map fun p => (move p.1, p.2)
      poison := (s.poison.filter fun w => !(decide (lo ≤ 8 * w) && decide (8 * w < lo + n))).map fun w => move (8 * w) / 8
      soft := (s.soft.filter fun w => !(decide (lo ≤ 8 * w) && decide (8 * w < lo + n))).map fun w => move (8 * w) / 8 }

/-- An EVICTING kernel of which nothing remains leaves, and its KEVICT completes OK. -/
def kevictSettle (s : State) (c kid : Nat) : State :=
  match kernel? s c kid with
  | none => s
  | some k =>
    if k.st == .evicting && !(s.groups.any fun (_, x) => decide (x.ctx = c ∧ x.kid = kid)) then
      let s := dropKernel s c kid
      match k.cmd with
      | some (q, seq) => complete s q seq 5 0 0
      | none => s
    else s

/-! ## Groups -/

/-- Whether a store of a group has still to perform at system scope. -/
def storesOut (s : State) (g : Nat) : Bool :=
  (s.clusters.any fun c => c.2.writeq.any fun e => decide (e.party.1 = g))
    || (s.pcie.any fun r => match r with | .write _ p _ => decide (p.1 = g) | _ => false)
    || (s.reqs.any fun r => match r.dest with | .store p _ => decide (p.1 = g) | .multicast g' _ _ => decide (g' = g) | _ => false)

/-- The clusters of a group as a mask. -/
def clusterMask (l : List Nat) : BitVec 288 := l.foldl (fun m c => m ||| (1#288 <<< c)) 0

/-- Clusters free (R315): those for which the most urgent launch holds what frees take them. -/
def holdFreed (s : State) (l : List Nat) : State :=
  { s with groups := Tab.mapVals s.groups fun _ x => { x with held := x.held.map fun m => m ||| clusterMask l } }

/-- The cells of HBM in an area, by place. -/
def areaNow (s : State) (pa n : Nat) : List (Nat × Byte) :=
  (s.mem.filter fun p => decide (hbmKey pa ≤ p.1) && decide (p.1 < hbmKey pa + n)).map fun p => (p.1 - hbmKey pa, p.2)

/-- Bytes in the device's own format are written: each save has its own. -/
def freeBytes (s : State) (k n : Nat) : State := wrBytes { s with fresh := s.fresh + 1 } k ((List.range n).map (Config.saveByte s.fresh))

/-- The save area of a context: its address and size in bytes (R270). -/
def csaBase (x : Context) : Nat := fieldOf x.csabase 16 36 * 65536
def csaBytes (x : Context) : Nat := x.csasize.toNat * 65536

/-- Units of 64 KiB that a saved group takes (R275). -/
def areaUnits (x : Group) : Nat := 784 * x.ncl + x.dpsize * x.place.length

/-- Bytes of a saved cluster: up, cp, bs, then the element state in the device's own format. -/
def clusterArea : Nat := 49 * 2 ^ 20

/-- The parts of a context's save area besides its header, as address and length: for each group in the order saved, each of its clusters, then its dp allocation. -/
def areaParts (s : State) (c : Nat) : List (Nat × Nat) :=
  ((ctx s c).suspended.foldl (fun (a : Nat × List (Nat × Nat)) g =>
    match grp? s g with
    | none => a
    | some x =>
      let dp := a.1 + x.ncl * clusterArea
      (a.1 + areaUnits x * 65536, a.2 ++ (List.range x.ncl).map (fun i => (a.1 + i * clusterArea, clusterArea)) ++ [(dp, x.dpsize * 65536 * x.place.length)]))
    (csaBase (ctx s c) + 65536, [])).2

/-- The words that begin a save area's header (R275): the magic number, CTXID, the number of groups and each one's clusters, 4 bytes each; then a tag of 16 bytes for each
part. (Model: DESIGN CHOICE, unsafe: notes/assumptions 104) -/
def areaHeader (s : State) (c : Nat) : List Byte :=
  let x := ctx s c
  let key := Config.saveKey c x.creates
  [0x41534358, c, x.suspended.length].flatMap (bytesOf 4) ++ (x.suspended.flatMap fun g => bytesOf 4 (((grp? s g).map (·.ncl)).getD 0))
    ++ (areaParts s c).zipIdx.flatMap fun (p, i) => bytesOf 16 (Config.areaTag key i (areaNow s p.1 p.2)).toNat

/-- A save area is whole: its header is written, and its tags cover it as it stands (R275, R276). (Model: DEDUCED, safe: notes/assumptions 107) -/
def sealArea (s : State) (c : Nat) : State :=
  let base := hbmKey (csaBase (ctx s c))
  let s := wrBytes (freeBytes s base 65536) base ((areaHeader s c).take 65536)
  modCtx s c fun x => { x with saveCells := some (areaNow s (csaBase x) (csaBytes x)) }

/-- A context whose groups are all saved is SUSPENDED, and its SUSPEND ends; one destroyed during the switch is CLOSING, and the SUSPEND ends there; `ended` says that a group has ended, and an ACTIVE
context without a placed group is then OPEN (R273, R274). (Model: DESIGN CHOICE, unsafe: notes/assumptions 103) -/
def ctxSettle (s : State) (c : Nat) (ended : Bool) : State :=
  let x := ctx s c
  let live := s.groups.any fun (_, y) => decide (y.ctx = c) && placed y
  if live then s
  else match x.st with
    | .active => if ended then setCtx s c { x with st := .opened } else s
    | .switching =>
      if x.destroyDuringSwitch then event (setCtx s c { x with st := .closing }) x.owner.toNat 1 c 0 0 0
      else event (modCtx (sealArea s c) c fun x => { x with st := .suspended, busy := false, err := 0 }) x.owner.toNat 1 c 0 0 0
    | _ => s

/-- A debug unit is disarmed and FREE (R445). -/
def freeUnit (s : State) (u : Nat) : State :=
  setDbg s u { dbg s u with st := .free, wpcfg := [], wpaddr := [], brken := 0, tbcfg := [], tbcnt := [] }

/-- Time that has passed while a group did not run counts against no stall. -/
def freshTimes (cycle : Nat) (i : Image) : Image :=
  { i with threads := Tab.mapVals i.threads fun _ t => { t with lastProgress := cycle }
           graphs := Tab.mapVals i.graphs fun _ gr => { gr with lastMove := cycle } }

/-- STALLCYC as it counts: 0 is read as 1 (R279). -/
def stallcycOf (v : BitVec 32) : Nat := if v = 0 then 1 else v.toNat

/-- STALLCYC and SAMPRATE of the group's context take effect at its placements and resumes (R279). -/
def latched (s : State) (x : Group) : Group :=
  { x with stallcyc := stallcycOf (ctx s x.ctx).stallcyc, samprate := (ctx s x.ctx).samprate.toNat }

/-- A debug unit lets its group go (R445): a STOPPED group runs, and a stop that has begun stops nothing. -/
def letGo (s : State) (g : Nat) : State :=
  modGrp s g fun x =>
    if x.state == .stopped then { latched s x with state := .running, cutWhy := none, idleSince := s.cycle, image := freshTimes s.cycle x.image }
    else { x with stopHeld := false, cutWhy := if x.cutWhy == some .debug then (if x.state == .cutting then some .check else none) else x.cutWhy }

/-- A circuit lane group that a graph's stream held is free (R388). -/
def dropCircuits (s : State) (mine : Nat × Nat × Nat × Nat → Bool) : State :=
  { s with links := Tab.mapVals s.links fun _ l =>
      let gone := (l.holders.filter fun p => mine p.2).map (·.1)
      { l with holders := l.holders.filter (fun p => !mine p.2)
               circuits := gone.foldl (fun m n => m &&& ~~~(1#6 <<< n)) l.circuits } }

/-- A group is gone: its completion record, then its clusters (R310). -/
def removeGroup (s : State) (g : Nat) (x : Group) (status detail : Nat) : State :=
  let s := complete s x.queue x.seq 1 status detail
  let cls := if placed x then clustersOf x else []
  let s := { s with groups := Tab.erase s.groups g }
  let s := { s with
    reqs := s.reqs.filter fun r => decide (destGroup r.dest ≠ some g)
    pcie := s.pcie.filter fun r => match r with | .read _ _ d | .atomic _ _ _ _ _ d => decide (destGroup d ≠ some g) | _ => true
    meetings := s.meetings.filter fun m => !(m.own.any fun o => decide (o.1 = g))
    barriers := Tab.mapVals s.barriers fun _ b => { b with parties := b.parties.filter (· ≠ g) }
    queues := Tab.mapVals s.queues fun _ q => { q with waiters := q.waiters.filter fun w => decide (w.1 ≠ g) } }
  let s := dropCircuits s fun h => decide (h.1 = g)
  let s := s.dbgs.foldl (fun s (u, d) => if d.st != .free && decide (fieldOf d.grp 0 16 = g) then freeUnit s u else s) s
  ctxSettle (kevictSettle (holdFreed s cls) x.ctx x.kid) x.ctx true

/-- A group that is ending goes once every store of it has performed at system scope, and none goes after a fatal fault (R286, R373). (Model: DEDUCED, unsafe: notes/assumptions 101, 134) -/
def finish (s : State) (g : Nat) : State :=
  match grp? s g with
  | none => s
  | some x =>
    match x.ending with
    | none => s
    | some (status, detail) => if storesOut s g || s.wave.isSome then s else removeGroup s g x status detail

/-- A group's end begins: what it has not committed and what its queues hold is discarded (R311); the first end is the one reported. -/
def endGroup (s : State) (g status detail : Nat) : State :=
  match grp? s g with
  | none => s
  | some x =>
    if x.ending.isSome then s
    else
      let s := x.image.threads.foldl (fun s (th, _) => discardBlocks s g th) s
      let s := modGrp s g fun x =>
        { x with ending := some (status, detail)
                 image := { x.image with threads := Tab.mapVals x.image.threads fun _ t => { t with ctq := [], tmq := [], mxq := [], clq := [], arrivals := [], barWait := [] } } }
      finish s g

/-- A group ends with FAULT: DETAIL holds code and cause (R357). -/
def faultGroup (s : State) (g code cause : Nat) : State := endGroup s g 4 (code % 256 * 256 + cause % 256)

/-- Groups whose stores have now performed are finished. -/
def finishAll (s : State) : State := s.groups.foldl (fun s (g, x) => if x.ending.isSome then finish s g else s) s

/-! ## What wakes a SAVED group (R320) -/

/-- A slot of a queue frees. -/
def wakeQueue (s : State) (q : Nat) : State := wakeOn s fun _ _ w => match w with | .queue q' => decide (q' = q) | _ => false
/-- A barrier's phase changes. -/
def wakeBarrier (s : State) (b : Nat) : State := wakeOn s fun _ _ w => match w with | .barrier b' => decide (b' = b) | _ => false

/-! ## Barriers (R328-R337) -/

def barCtx (x : Barrier) : Nat := fieldOf x.cfg 0 12
def barScope (x : Barrier) : Nat := fieldOf x.cfg 12 3
def barExt (x : Barrier) : Bool := x.cfg.getLsbD 15
def barExpect (x : Barrier) : Nat := fieldOf x.cfg 32 32

def scopeCode' : Nat → Scope
  | 0 => .tile | 1 => .cluster | 2 => .die | 3 => .package | 4 => .domain | _ => .system

/-- Whether a phase is satisfied (R332). -/
def satisfied (x : Barrier) (p : Nat) : Bool :=
  let d := (x.phase - BitVec.ofNat 32 p).toNat
  decide (1 ≤ d) && decide (d < 2 ^ 31)

/-- The result of a barrier instruction: PHASE and ST (R334). -/
def barResult (x : Barrier) (st : Nat) : Value := lane0 (BitVec.ofNat 64 (x.phase.toNat + st * 2 ^ 32))

/-- A BARW's result (R335). -/
def barwDone (s : State) (g th b slot : Nat) (v : Value) : State :=
  match block? s g th b with
  | none => s
  | some k => let (t0, t1) := slotTargets k slot; deliver (wake (dropWait s g th b slot) g) g th b slot t0 t1 (.val v)

/-- Release the waits on a barrier: those whose phase is satisfied, and with `fail` every other one with ST 2, or REJECT 11 for a BARWT (R331, R340). -/
def releaseWaits (s : State) (b : Nat) (fail : Bool) : State :=
  let x := barrier s b
  let inGroups := s.groups.foldl (fun s (g, y) =>
    y.image.threads.foldl (fun s (th, t) =>
      let over_ (w : Nat × Nat × Nat) : Bool := decide (w.1 = b) && (satisfied x w.2.2 || fail)
      let s := if t.barWait.any over_ then modThread (wake s g) g th fun t => { t with barWait := t.barWait.filter fun w => !over_ w } else s
      t.blocks.zipIdx.foldl (fun s (k, i) =>
        k.waits.foldl (fun s (slot, w) =>
          match w with
          | .barw b' p =>
            if b' ≠ b then s
            else if satisfied x p then barwDone s g th i slot (barResult x 0)
            else if fail then barwDone s g th i slot (barResult x 2)
            else s
          | _ => s) s) s) s) s
  inGroups.queues.foldl (fun s (q, y) =>
    y.cmds.foldl (fun s k =>
      if k.typ = 3 ∧ fieldOf ((k.words[1]?).getD 0) 0 12 = b then
        if satisfied x (fieldOf ((k.words[2]?).getD 0) 0 32) then complete s q k.seq 3 0 0
        else if fail then complete s q k.seq 3 2 11
        else s
      else s) s) inGroups

/-- The waits of BARAWs that a group's image holds, as the barriers now stand (R335, R337): those for a satisfied phase end, and those at a barrier that is BROKEN or gone. -/
def barWaitSettle (s : State) (g : Nat) : State :=
  let live (w : Nat × Nat × Nat) : Bool :=
    let x := barrier s w.1
    x.st == .opened && decide (x.gen = w.2.1) && !satisfied x w.2.2
  modGrp s g fun x => { x with image := { x.image with threads := Tab.mapVals x.image.threads fun _ t => { t with barWait := t.barWait.filter live } } }

/-- The new phase of a barrier shows (R332, steps 2 to 4): PHASE advances, the waits are released, SAVED groups wake. -/
def showPhase (s : State) (b : Nat) : State :=
  let x := barrier s b
  let s := setBarrier s b { x with phase := x.phase + 1, arrived := 0, timer := none, parties := [], due := false }
  wakeBarrier (releaseWaits s b false) b

/-- Queue entries and posted writes that may hold stores to the host. -/
def storesHeld (s : State) : Nat := s.clusters.foldl (fun n c => n + c.2.writeq.length) s.pcie.length

/-- A phase that is complete waits until every earlier store of its participants to host memory has performed at system scope (R132, R332, step 1), and then shows. -/
def settlePhase (s : State) (b : Nat) : State :=
  if !(barrier s b).due then s
  else
    let gs := (barrier s b).parties
    let s := flushGroups gs (storesHeld s + 1) s
    if hostStoresOut s gs then s else showPhase s b

/-- A phase completes (R332): the barrier takes no further event until its new phase shows. -/
def phaseComplete (s : State) (b : Nat) : State :=
  settlePhase (setBarrier s b { barrier s b with due := true, timer := none }) b

/-- An arrival is taken (R331), at a barrier that completes no phase: it completes the phase, or is counted and starts the timer; at a BROKEN barrier it is not counted. -/
def arriveAt (s : State) (b : Nat) (by_ : Option Nat) : State :=
  let x := barrier s b
  if x.st != .opened then s
  else
    let x := { x with parties := match by_ with | some g => if has x.parties g then x.parties else g :: x.parties | none => x.parties }
    if barExpect x ≤ x.arrived + 1 then phaseComplete (setBarrier s b x) b
    else
      let x := if x.arrived = 0 then { x with timer := some s.dtime, armedTmo := x.tmo.toNat } else x
      setBarrier s b { x with arrived := x.arrived + 1 }

/-- BARI takes effect (R331, R335), at a barrier that completes no phase. -/
def bariAt (s : State) (b n : Nat) : State :=
  let x := barrier s b
  let x := { x with cfg := setField x.cfg 32 32 n }
  match x.st with
  | .broken => wakeBarrier (setBarrier s b { x with st := .opened, arrived := 0, phase := x.phase + 1, timer := none, parties := [] }) b
  | _ => if n ≤ x.arrived && decide (0 < x.arrived) then phaseComplete (setBarrier s b x) b else setBarrier s b x

/-- Whether a barrier serves a context. -/
def barFor (s : State) (b c : Nat) : Bool := decide (b < 4096) && (barrier s b).st != .free && decide (barCtx (barrier s b) = c)

/-- An arrival that a commit has made counts once the party's earlier stores have performed at the barrier's scope (R131); a BARAW's thread then waits for that phase. An arrival at a
barrier that is gone is dropped with a record (R336). -/
def landOne (s : State) (g th : Nat) (b gen : Nat) (wait : Bool) : State :=
  match grp? s g with
  | none => s
  | some x =>
    let s := modThread s g th fun t => { t with arrivals := t.arrivals.drop 1 }
    if !barFor s b x.ctx || decide ((barrier s b).gen ≠ gen) then schRecord s g 0x0D (g % 2 ^ 16 + b % 4096 * 2 ^ 16)
    else
      let y := barrier s b
      let s := if wait && y.st == .opened then modThread (wake s g) g th fun t => { t with barWait := t.barWait ++ [(b, gen, y.phase.toNat)] } else s
      arriveAt s b (some g)

/-- The pending arrivals of a thread, in commit order. At a barrier of domain scope a gang member waits for ALLGO (R325); a barrier that completes a phase takes no arrival until the new phase shows (R332). -/
def landArrivals : Nat → State → Nat → Nat → State
  | 0, s, _, _ => s
  | fuel + 1, s, g, th =>
    match (thread? s g th).map (·.arrivals) with
    | some ((b, gen, wait) :: _) =>
      if !(barrier s b).due && storesPerformed s (g, th) (scopeCode' (barScope (barrier s b))) && !(gangHeld s g && decide (barScope (barrier s b) = 4)) then
        landArrivals fuel (landOne s g th b gen wait) g th
      else s
    | _ => s

/-! ## Barrier commands (R329-R331) -/

/-- A barrier command ends with event 7, for the function that owned the barrier when it ended, or for a DESTROY before it. -/
def barCmdEnd (s : State) (b f err : Nat) : State :=
  event (setBarrier s b { barrier s b with err := BitVec.ofNat 8 err, cmd := none }) f 7 (barCtx (barrier s b)) b err 0

/-- A barrier is gone: its waits end with failure. -/
def freeBarrier (s : State) (b : Nat) : State :=
  let s := releaseWaits s b true
  setBarrier s b { barrier s b with st := .free, cmd := none, due := false, arrived := 0, timer := none, parties := [] }

def barCreate (s : State) (fn b : Nat) : State :=
  let x := barrier s b
  if !ctxLive (ctx s (barCtx x)) then barCmdEnd s b fn 3
  else if barScope x < 1 ∨ 5 < barScope x ∨ barExpect x = 0 ∨ (barExt x ∧ barScope x ≠ 5) then barCmdEnd s b fn 4
  else barCmdEnd (setBarrier s b { x with st := .opened, gen := x.gen + 1, phase := 0, arrived := 0, timer := none, parties := [] }) b (ownerOf s (barCtx x)) 0

def barReset (s : State) (b : Nat) : State :=
  let s := releaseWaits s b true
  let x := barrier s b
  barCmdEnd (wakeBarrier (setBarrier s b { x with st := .opened, arrived := 0, phase := x.phase + 1, timer := none, parties := [] }) b) b (ownerOf s (barCtx x)) 0

def barDestroy (s : State) (b : Nat) : State :=
  barCmdEnd (freeBarrier s b) b (ownerOf s (barCtx (barrier s b))) 0

/-- The command that a barrier holds takes effect, once no phase is completing (R332: one event after another). -/
def barCmdRun (s : State) (b : Nat) : State :=
  match (barrier s b).cmd with
  | none => s
  | some (fn, code, v) =>
    let st := (barrier s b).st
    if (barrier s b).due then s
    else if decide (v.extractLsb' 4 60 ≠ 0) then barCmdEnd s b fn 1
    else if (code = 1 ∧ st ≠ .free) ∨ (code ≠ 1 ∧ st = .free) then barCmdEnd s b fn 2
    else if code = 1 then barCreate s fn b
    else if code = 2 then barReset s b
    else barDestroy s b

/-- What follows when stores have performed: phases that waited for them show, arrivals that waited for them count, commands and groups that waited end. -/
def afterStores (s : State) : State :=
  let s := s.barriers.foldl (fun s (b, _) => settlePhase s b) s
  let s := s.groups.foldl (fun s (g, x) => x.image.threads.foldl (fun s (th, t) => if t.arrivals = [] then s else landArrivals t.arrivals.length s g th) s) s
  finishAll (s.barriers.foldl (fun s (b, _) => barCmdRun s b) s)

/-! ## Serving points -/

/-- The k-th store of a cluster's write queue reaches its serving point (R119); what waits for stores that have performed follows. (Model: DESIGN CHOICE, unsafe: notes/assumptions 119) -/
def execServingPointArrival (cl k : Nat) (s : State) : Host.Outcome State Fault Refusal :=
  .next (if !coreUp s || stoppedCl s cl then s
    else afterStores ((drainEntry s cl k).getD s))

/-- The oldest request of the PCIe link completes (R120, R134, R135). -/
def execPcieCompletion (ok : Bool) (s : State) : Host.Outcome State Fault Refusal :=
  .next (if devReady s then afterStores (pcieHead s ok) else s)

end Sys2Proof.Machine
end

