-- ==== Sys2Proof/Machine/Engine.lean ====
section
/-! DEFINITION. Engine instructions (R195-R203, R247, R253-R255, R396-R398): their capture in a block, and what the tile-move, matrix and link engines do when
they stand at the head of their queue. -/

namespace Sys2Proof.Machine

/-! ## Capture (R195) -/

/-- The resident graph of a group that carries an MC at a tile. -/
def mcGraph (x : Group) (tile : Nat) : Option (Nat × Graph × Mc) :=
  x.image.graphs.findSome? fun (gi, gr) => ((Tab.get? gr.tiles tile).bind (·.mc)).map fun m => (gi, gr, m)

/-- An engine instruction as it is captured: with the enables of its block (R57), and with the graph that holds the MC it names, if it names one (R247). -/
def captured (x : Group) (k : Block) (w : Word) (slot : Nat) (a b c : Value) : EngEntry :=
  { word := w, slot := slot, a := a, b := b, c := c, enables := k.enables, inst := ((mcGraph x (lane a 0).toNat).map fun p => p.2.1.inst).getD 0
    blockAddr := k.addr, issued := false, done := false, popped := false, mark := 0, buf := [], asked := [], parts := [] }

/-- An E-format instruction of a block captures its operands; its check names a code and FLTADDR of a precise fault. Nulled, it does nothing. -/
def fireEngine (s : State) (f : EFields) (ua ub uc : Bool) (check : State → Nat → Value → Value → Value → Option (Nat × Nat)) : State :=
  match s.site with
  | .block g th b slot =>
    blockFire s g th b slot f.pr ua ub uc id fun k a b' c =>
      let s := markFired s g th b slot
      match check s g a b' c, grp? s g with
      | some (code, addr), _ => blockFault s g th b (some slot) code 0 false addr
      | none, some x => modBlock s g th b fun k' => { k' with engines := k'.engines ++ [captured x k ((k.words[slot]?).getD 0) slot a b' c] }
      | none, none => s
  | _ => s

/-! ## The engines -/

def setQu (t : Thread) (q : Qu) (l : List EngEntry) : Thread :=
  match q with
  | .ct => { t with ctq := l } | .tm => { t with tmq := l } | .mx => { t with mxq := l } | .cl => { t with clq := l }

/-- Change the first entry that has not done its work. -/
def modFirst (f : EngEntry → EngEntry) : List EngEntry → List EngEntry
  | [] => []
  | e :: r => if e.done then e :: modFirst f r else f e :: r

def modEng (s : State) (g th : Nat) (q : Qu) (f : EngEntry → EngEntry) : State :=
  modThread s g th fun t => setQu t q (modFirst f (engQueue t q))

/-- The instruction that an engine works on. -/
def engNow (s : State) (g th : Nat) (q : Qu) : Option EngEntry := (thread? s g th).bind fun t => engCurrent t q

def engDone (s : State) (g th : Nat) (q : Qu) : State := modEng s g th q fun e => { e with done := true, buf := [], asked := [], parts := [] }

/-- Whether the engines of a thread can act: an issued instruction runs on while a cut runs (R317). -/
def engLive (s : State) (g th : Nat) : Bool :=
  match grp? s g with
  | some x => (x.state == .running || x.state == .parked || x.state == .cutting) && !x.saving && x.freeze.isNone && x.ending.isNone && coreUp s
      && !stoppedCl s (clusterOfThread x th)
  | none => false

/-- The engine at the site, with its issued instruction; a queue that a page fault has stopped waits (R202). -/
def engAct (s : State) (go : Nat → Nat → Qu → Group → EngEntry → State) : State :=
  match s.site with
  | .engine g th q =>
    match grp? s g, thread? s g th with
    | some x, some t =>
      match engCurrent t q with
      | some e => if engLive s g th && e.issued && (Tab.get? t.stops (Qu.code q)).isNone then go g th q x e else s
      | none => s
    | _, _ => s
  | _ => s

/-- Why a move stops: it must wait, a page is absent, or another fault ends it. -/
inductive MvStop where
  | wait
  | page (va : Nat) (wr : Bool)
  | fault (code va : Nat)
  deriving DecidableEq, Repr

/-- An engine's fault at a gm address: an absent page stops the queue, anything else is a page that forbids the access (R202, R350). -/
def mvFault (code cause va : Nat) (wr : Bool) : MvStop := if code = 8 && cause = 1 then .page va wr else .fault 0x25 (va % 2 ^ 64)

/-- The bytes that have been answered at n keys. -/
def bufBytes (e : EngEntry) (k n : Nat) : Option (List Byte) :=
  let l := (List.range n).filterMap fun i => lastByte e.buf (k + i)
  if l.length = n then some l else none

/-- An engine reads n bytes at an address of a space; what its cluster's write queue holds for every party is read there (R118). What a peer holds is asked for, and read when it has come. (Model: DEDUCED, safe: notes/assumptions 25) -/
def engRead (s : State) (g th : Nat) (q : Qu) (sp : MvSpace) (a n : Nat) : State × Except MvStop (List Byte) :=
  match grp? s g, engNow s g th q with
  | some x, some e =>
    let cl := clusterOfThread x th
    if sp ≠ .gm then let (s, l) := padRead s x g cl noWork sp n a; (s, .ok l)
    else match gmFind s (moveHolder cl (th % 4)) g a n .read with
      | (s, .wait) => (s, .error .wait)
      | (s, .fault c k) => (s, .error (mvFault c k a false))
      | (s, .at_ key _) =>
        let held := heldBytes s cl (engParty g th q) [] key n
        if (isHost key || isPeer key) && held.any (·.isSome) then
          if held.all (·.isSome) then (s, .ok (held.map fun b => b.getD 0)) else (s, .error .wait)
        else if isHost key then
          if s.pcie.any fun r => match r with | .write _ _ _ => true | _ => false then (s, .error .wait)
          else if hostUp s then (s, .ok (rdBytes s key n)) else (s, .error (.fault 0x25 a))
        else if isPeer key then
          match bufBytes e key n with
          | some l => (s, .ok l)
          | none =>
            if has e.asked key then (s, .error .wait)
            else match sendRequest s x.ctx (peerPkg key) 0 (peerHasid key) (peerVa key) (BitVec.ofNat 21 n) [] (.engine g th q key) (partyFlow (engParty g th q)) with
              | .gone s => (modEng s g th q fun e => { e with asked := key :: e.asked }, .error .wait)
              | .later => (s, .error .wait)
              | .unreachable => (s, .error (.fault 0x25 a))
        else match eccOf s key n with
          | some true => (s, .error (.fault 0x14 a))
          | some false => (eccTouch s key n false, .error .wait)
          | none => (eccFixAt s key n, .ok (viewBytes s cl (engParty g th q) [] key n))
  | _, _ => (s, .error .wait)

/-- An engine writes bytes at an address of a space. -/
def engWrite (s : State) (g th : Nat) (q : Qu) (sp : MvSpace) (a : Nat) (l : List Byte) : State × Except MvStop Unit :=
  match grp? s g with
  | some x =>
    let cl := clusterOfThread x th
    let party := engParty g th q
    if sp ≠ .gm then let (s, ks) := padWriteKeys s x g cl noWork sp a l; (putBytes (eccStore s ks) ks, .ok ())
    else match gmFind s (moveHolder cl (th % 4)) g a l.length .write with
      | (s, .wait) => (s, .error .wait)
      | (s, .fault c k) => (s, .error (mvFault c k a true))
      | (s, .at_ key _) =>
        if isHost key then (pciePush s (.write (keyed key l) party none), .ok ())
        else if isPeer key then
          match sendRequest s x.ctx (peerPkg key) 2 (peerHasid key) (peerVa key) 0 l (.store party none) (partyFlow party) with
          | .gone s => (s, .ok ())
          | .later => (s, .error .wait)
          | .unreachable => (s, .error (.fault 0x25 a))
        else (wrBytes (eccStore s (keyed key l)) key l, .ok ())
  | none => (s, .error .wait)

/-- Answers that have been used are dropped. -/
def engClear (s : State) (g th : Nat) (q : Qu) : State := modEng s g th q fun e => { e with buf := [], asked := [] }

/-- Copy n bytes. -/
def engCopy (s : State) (g th : Nat) (q : Qu) (ssp dsp : MvSpace) (src dst n : Nat) : State × Except MvStop Unit :=
  match engRead s g th q ssp src n with
  | (s, .error e) => (s, .error e)
  | (s, .ok l) =>
    match engWrite s g th q dsp dst l with
    | (s, .ok ()) => (engClear s g th q, .ok ())
    | (s, .error e) => (s, .error e)

/-- Run the steps of a move from a position, until it is done or stops. -/
def mvLoop (done : Nat → Bool) (step : State → Nat → State × Except MvStop Nat) : Nat → State → Nat → State × Nat × Option MvStop
  | 0, s, m => (s, m, none)
  | fuel + 1, s, m =>
    if done m then (s, m, none)
    else match step s m with
      | (s, .ok m') => mvLoop done step fuel s m'
      | (s, .error e) => (s, m, some e)

/-- A queue stops at a page (R202, R368): one MEM PGSTOP record. -/
def engStop (s : State) (g th : Nat) (q : Qu) (x : Group) (va : Nat) (wr : Bool) : State :=
  let s := modThread s g th fun t => { t with stops := Tab.set t.stops (Qu.code q) (va % 2 ^ 57, 1, wr, s.fresh) }
  record { s with fresh := s.fresh + 1 } (clusterOfThread x th) 2 1 0 x.ctx (va % 2 ^ 57 + 1 * 2 ^ 57)

/-- How many elements an entry of the agenda takes. -/
def partOf (s : State) (fuel : Nat) : Nat := if s.part = 0 then fuel else min s.part fuel

/-- Run a move, or a part of it (R201, R246): its position is kept, so that it goes on, or restarts, in place (R202, R317). -/
def mvRun (s : State) (g th : Nat) (q : Qu) (x : Group) (e : EngEntry) (fuel : Nat) (done : Nat → Bool) (step : State → Nat → State × Except MvStop Nat) : State :=
  match mvLoop done step (partOf s fuel) s e.mark with
  | (s, m, none) => if done m then engDone s g th q else modEng s g th q fun e => { e with mark := m }
  | (s, m, some .wait) => modEng s g th q fun e => { e with mark := m }
  | (s, m, some (.page va wr)) => engStop (modEng s g th q fun e => { e with mark := m }) g th q x va wr
  | (s, _, some (.fault code va)) => raiseFreeze s g code 0 va 0

/-! ## Tile moves (R199-R203) -/

/-- A descriptor (R200). -/
structure MvDesc where
  cols : Nat
  rows : Nat
  sstr : Int
  dstr : Int
  deriving DecidableEq, Repr

def mvDesc (c : Value) : MvDesc :=
  { cols := (lane c 0).toNat, rows := (lane c 1).toNat, sstr := (lane c 2).toInt, dstr := (lane c 3).toInt }

/-- Which of the four moves. -/
inductive MvKind where
  | plain | transpose | compress | expand
  deriving DecidableEq, Repr

/-- TMOV_DESC (R202). (Model: DEDUCED, unsafe: notes/assumptions 149) -/
def mvCheck (k : MvKind) (e : MvEng) (a b c : Value) : Option (Nat × Nat) :=
  let d := mvDesc c
  let n : Nat := 2 ^ e.esz.toNat
  let src := (lane a 0).toNat
  let dst := (lane b 0).toNat
  let rec8 := k == .compress || k == .expand
  let bad := !(decide (1 ≤ d.cols) && decide (d.cols ≤ 65536) && decide (1 ≤ d.rows) && decide (d.rows ≤ 65536))
    || decide (d.sstr % n ≠ 0) || (k != .compress && decide (d.dstr % n ≠ 0)) || (rec8 && decide (e.esz = 3))
    || (e.ssp == .gm && decide (src % n ≠ 0)) || (e.dsp == .gm && decide (dst % n ≠ 0))
    || (k == .compress && e.dsp == .gm && decide (dst % 8 ≠ 0)) || (k == .expand && e.ssp == .gm && decide (src % 8 ≠ 0))
  if bad then some (0x0B, src) else none

/-- An address at a signed distance from another. -/
def mvAddr (base : Nat) (d : Int) : Nat := lowNat 64 ((base : Int) + d)

/-- The steps of a move from its two addresses and its descriptor (R201). Positions of TMOVC and TMOVE also hold the count of records, above bit 40. -/
def mvStep (k : MvKind) (e : MvEng) (g th : Nat) (q : Qu) (src dst : Nat) (d : MvDesc) (s : State) (m : Nat) : State × Except MvStop Nat :=
  let n : Nat := 2 ^ e.esz.toNat
  let p := m % 2 ^ 40
  let cnt := m / 2 ^ 40
  let total := d.rows * d.cols
  let r := p / d.cols
  let c := p % d.cols
  let from_ := mvAddr src ((r : Int) * d.sstr + (c : Int) * n)
  let next (s : State) (m : Nat) (x : Except MvStop Unit) : State × Except MvStop Nat :=
    match x with
    | .ok () => (s, .ok m)
    | .error e => (s, .error e)
  match k with
  | .plain => let (s, x) := engCopy s g th q e.ssp e.dsp from_ (mvAddr dst ((r : Int) * d.dstr + (c : Int) * n)) n; next s (m + 1) x
  | .transpose => let (s, x) := engCopy s g th q e.ssp e.dsp from_ (mvAddr dst ((c : Int) * d.dstr + (r : Int) * n)) n; next s (m + 1) x
  | .compress =>
    if p < total then
      match engRead s g th q e.ssp from_ n with
      | (s, .error e) => (s, .error e)
      | (s, .ok l) =>
        let v := natOfBytes l
        if v = 0 then (engClear s g th q, .ok (m + 1))
        else
          let (s, x) := engWrite s g th q e.dsp (mvAddr dst (8 + 8 * (cnt : Int))) (bytesOf 8 (v % 2 ^ 32 + p % 2 ^ 32 * 2 ^ 32))
          next (match x with | .ok () => engClear s g th q | _ => s) (m + 1 + 2 ^ 40) x
    else let (s, x) := engWrite s g th q e.dsp dst (bytesOf 8 cnt); next s (m + 1) x
  | .expand =>
    if p < total then let (s, x) := engWrite s g th q e.dsp (mvAddr dst ((r : Int) * d.dstr + (c : Int) * n)) (List.replicate n 0); next s (m + 1) x
    else if p = total then
      match engRead s g th q e.ssp src 8 with
      | (s, .error e) => (s, .error e)
      | (s, .ok l) => (engClear s g th q, .ok (p + 1 + min (natOfBytes l) total * 2 ^ 40))
    else
      match engRead s g th q e.ssp (mvAddr src (8 + 8 * ((p - total - 1 : Nat) : Int))) 8 with
      | (s, .error e) => (s, .error e)
      | (s, .ok l) =>
        let at_ := natOfBytes l / 2 ^ 32
        if at_ < total then
          let (s, x) := engWrite s g th q e.dsp (mvAddr dst ((at_ / d.cols : Nat) * d.dstr + ((at_ % d.cols : Nat) : Int) * n)) (bytesOf n (natOfBytes l % 2 ^ 32))
          next (match x with | .ok () => engClear s g th q | _ => s) (m + 1) x
        else (engClear s g th q, .ok (m + 1))

/-- Whether a move has taken every step. -/
def mvDone (k : MvKind) (d : MvDesc) (m : Nat) : Bool :=
  let p := m % 2 ^ 40
  let total := d.rows * d.cols
  match k with
  | .plain | .transpose => decide (total ≤ p)
  | .compress => decide (total < p)
  | .expand => decide (total < p) && decide (total + 1 + m / 2 ^ 40 ≤ p)

/-- A tile move in a block or in the tile-move engine. -/
def tileMove (k : MvKind) (f : EFields) (e : MvEng) (s : State) : State :=
  match s.site with
  | .block _ _ _ _ => fireEngine s f true true true fun _ _ a b c => mvCheck k e a b c
  | _ => engAct s fun g th q x en =>
    let d := mvDesc en.c
    mvRun s g th q x en (2 * (d.rows * d.cols) + 4) (mvDone k d) (mvStep k e g th q (lane en.a 0).toNat (lane en.b 0).toNat d)

def execTmov (f : EFields) (e : MvEng) (s : State) : Host.Outcome State Fault Refusal := .next (tileMove .plain f e s)
def execTmovt (f : EFields) (e : MvEng) (s : State) : Host.Outcome State Fault Refusal := .next (tileMove .transpose f e s)
def execTmovc (f : EFields) (e : MvEng) (s : State) : Host.Outcome State Fault Refusal := .next (tileMove .compress f e s)
def execTmove (f : EFields) (e : MvEng) (s : State) : Host.Outcome State Fault Refusal := .next (tileMove .expand f e s)

/-! ## The matrix engine (R247, R253-R255) -/

/-- The MC that an instruction named when it fired, while its graph is resident (R247). -/
def mcNamed (x : Group) (e : EngEntry) : Option (Nat × Graph × Mc) := (mcGraph x (lane e.a 0).toNat).filter fun p => decide (p.2.1.inst = e.inst)

/-- The region that has a tile as cell (0, 0). -/
def regionAt (x : Group) (tile : Nat) : Option (Nat × Graph × Mc) :=
  match mcGraph x tile with
  | some (gi, gr, m) => if regionOrigin gr m = some tile then some (gi, gr, m) else none
  | none => none

/-- The region whose cell (0, 0) an MGO named when it fired, while its graph is resident. -/
def regionOf (x : Group) (e : EngEntry) : Option (Nat × Graph × Mc) := (mcNamed x e).filter fun p => decide (regionOrigin p.2.1 p.2.2 = some (lane e.a 0).toNat)

/-- MATRIX_DESC of MGO (R247). -/
def mgoCheck (cfg : Nat) (s : State) (g : Nat) (a : Value) : Option (Nat × Nat) :=
  let v := (lane a 0).toNat
  let bad := decide (2 ^ 18 ≤ v) || (match (grp? s g).bind fun x => regionAt x v with
    | some (_, gr, m) => (mcConfig m cfg).isNone || (regionState gr v).lastQueued
    | none => true)
  if bad then some (0x0E, v) else none

/-- The cells of the region of cell (0, 0). -/
def regionMcs (gr : Graph) (m : Mc) : List Mc :=
  match cellPos m.frames with
  | some (w, h, _, _) => (cellsOf gr w h).filterMap fun c => (Tab.get? gr.tiles c.1).bind (·.mc)
  | none => []

/-- The sweeps that some cell has not yet switched to (R249). -/
def sweepsAhead (gr : Graph) (m : Mc) (origin : Nat) : Nat :=
  (regionState gr origin).injected.length - ((minOf? ((regionMcs gr m).map switched)).getD 0)

/-- MGO: the engine injects a sweep at cell (0, 0), while fewer than four are ahead (R248, R249). -/
def execMgo (f : EFields) (cfg : BitVec 2) (last : Bool) (s : State) : Host.Outcome State Fault Refusal :=
  .next (match s.site with
    | .block _ _ _ _ => fireEngine s f true false false fun s g a _ _ => mgoCheck cfg.toNat s g a
    | _ => engAct s fun g th q x e =>
      let o := (lane e.a 0).toNat
      match regionOf x e with
      | none => raiseFreeze s g 0x25 0 0 0
      | some (gi, gr, m) =>
        let r := regionState gr o
        if r.injected.any (·.2) then raiseFreeze s g 0x25 0 0 0
        else if 4 ≤ sweepsAhead gr m o then s
        else
          let s := modGraph s g gi fun gr => { gr with regions := Tab.set gr.regions o { r with injected := r.injected ++ [(cfg.toNat, last)] }, lastMove := s.cycle }
          modEng s g th q fun e => { e with done := true, mark := r.injected.length })

/-- The bytes of an element of ETY in memory (R253). -/
def etyBytes (t : Ty) : Nat := Ty.width t / 8

def afmtTy (f : AFmt) : Ty := match f with | .a36 => .a36 | .f32 => .f32 | .f64 => .f64

/-- MATRIX_DESC of ACCRD, ACCWR and ACCCLR (R253). -/
def accCheck (gm : Bool) (t : Ty) (s : State) (g : Nat) (a b c : Value) : Option (Nat × Nat) :=
  let v := (lane a 0).toNat
  let bad := decide (2 ^ 18 ≤ v) || ((grp? s g).bind fun x => mcGraph x v).isNone
    || (gm && (decide ((lane b 0).toNat % etyBytes t ≠ 0) || decide ((lane c 0).toNat % etyBytes t ≠ 0)))
  if bad then some (0x0E, v) else none

/-- Flags of an engine (R57, R253): one that was enabled when the block mapped is ARITH on the freeze line of the group, the others are set. -/
def engFlags (s : State) (g tile : Nat) (enables : BitVec 5) (fl : FlagSet) : State :=
  let s := setFlags s g (fl &&& ~~~enables)
  match arithCause enables fl, grp? s g with
  | some i, some x => raiseFreeze s g 0x0D i (workOfTile s x tile) (workOfTile s x tile)
  | _, _ => s

/-- The address of entry p = 32 i + j (R253). -/
def accAddr (e : EngEntry) (t : Ty) (p : Nat) : Nat :=
  mvAddr (lane e.b 0).toNat (((p / 32 : Nat) : Int) * (lane e.c 0).toInt + ((p % 32 * etyBytes t : Nat) : Int))

/-- Entries of an accumulator, one after another, or one of them ahead of its turn (R255): a part k + 1 of the instruction takes entry k alone, and what it finds is kept. -/
def accRun (s : State) (g th : Nat) (q : Qu) (x : Group) (e : EngEntry) (n : Nat) (ahead : State → Nat → State × Except MvStop Nat) (step : State → Nat → State × Except MvStop Nat) : State :=
  if s.part = 0 then mvRun s g th q x e (n + 1) (fun m => decide (n ≤ m)) step
  else
    let k := s.part - 1
    if n ≤ k || k < e.mark || (Tab.get? e.parts k).isSome then s
    else match ahead s k with
      | (s, .ok v) => modEng s g th q fun e => { e with parts := Tab.set e.parts k v }
      | (s, .error .wait) => s
      | (s, .error (.page va wr)) => engStop s g th q x va wr
      | (s, .error (.fault code va)) => raiseFreeze s g code 0 va 0

/-- ACCRD: accumulator entries go to memory, converted; entries may be read in any order. (Model: DEDUCED, unsafe: notes/assumptions 131) -/
def execAccrd (f : EFields) (e : AccEng) (s : State) : Host.Outcome State Fault Refusal :=
  .next (match s.site with
    | .block _ _ _ _ => fireEngine s f true true true fun s g a b c => accCheck (e.spc == .gm) e.ety s g a b c
    | _ => engAct s fun g th q x en =>
      let tile := (lane en.a 0).toNat
      let entry (s : State) (m : Nat) : Nat := ((grp? s g).map fun x => accBits x tile (afmtTy e.afmt) e.acc.toNat (m / 32) (m % 32)).getD 0
      accRun s g th q x en 1024 (fun s m => (s, .ok (entry s m))) fun s m =>
        let (v, fl) := convert (afmtTy e.afmt) e.ety .rne false 0 ((Tab.get? en.parts m).getD (entry s m))
        match engWrite s g th q e.spc (accAddr en e.ety m) (bytesOf (etyBytes e.ety) v) with
        | (s, .ok ()) => (engFlags (watchAcc s g tile e.acc.toNat false fun i j => decide (i = m / 32 ∧ j = m % 32)) g tile en.enables fl, .ok (m + 1))
        | (s, .error e) => (s, .error e))

/-- One entry of an accumulator takes its bits. -/
def setAccEntry (s : State) (g tile : Nat) (fmt : Ty) (acc n v : Nat) : State :=
  let put (s : State) (acc v : Nat) : State :=
    modImage s g fun i =>
      let t := Tab.get i.accs tile []
      { i with accs := Tab.set i.accs tile (if v = 0 then Tab.erase t (1024 * acc + n) else Tab.set t (1024 * acc + n) (BitVec.ofNat 36 v)) }
  match fmt with
  | .f64 => put (put s acc (v % 2 ^ 32)) (acc + 1) (v / 2 ^ 32 % 2 ^ 32)
  | .f32 => put s acc (v % 2 ^ 32)
  | _ => put s acc v

/-- ACCWR: memory elements go to the accumulator, converted; entries may be written in any order. -/
def execAccwr (f : EFields) (e : AccEng) (s : State) : Host.Outcome State Fault Refusal :=
  .next (match s.site with
    | .block _ _ _ _ => fireEngine s f true true true fun s g a b c => accCheck (e.spc == .gm) e.ety s g a b c
    | _ => engAct s fun g th q x en =>
      let tile := (lane en.a 0).toNat
      let put (s : State) (m : Nat) : State × Except MvStop Nat :=
        match engRead s g th q e.spc (accAddr en e.ety m) (etyBytes e.ety) with
        | (s, .error e) => (s, .error e)
        | (s, .ok l) =>
          let (v, fl) := convert e.ety (afmtTy e.afmt) .rne false 0 (natOfBytes l)
          let s := engClear (setAccEntry s g tile (afmtTy e.afmt) e.acc.toNat m v) g th q
          (engFlags (watchAcc s g tile e.acc.toNat true fun i j => decide (i = m / 32 ∧ j = m % 32)) g tile en.enables fl, .ok (m + 1))
      accRun s g th q x en 1024 put fun s m => if (Tab.get? en.parts m).isSome then (s, .ok (m + 1)) else put s m)

/-- ACCCLR: +0 in the named cell, or in every cell of its region, which is gone once its graph has been unloaded; entries may be cleared in any order. -/
def execAccclr (f : EFields) (region : Bool) (acc : BitVec 3) (afmt : AFmt) (s : State) : Host.Outcome State Fault Refusal :=
  .next (match s.site with
    | .block _ _ _ _ => fireEngine s f true false false fun s g a b c => accCheck false .i8 s g a b c
    | _ => engAct s fun g th q x en =>
      let tile := (lane en.a 0).toNat
      match mcNamed x en, region with
      | none, true => raiseFreeze s g 0x25 0 0 0
      | y, _ =>
        let tiles : List Nat := match y, region with
          | some (_, gr, m), true => (match cellPos m.frames with | some (w, h, _, _) => (cellsOf gr w h).map Prod.fst | none => [tile])
          | _, _ => [tile]
        let clear (s : State) (m : Nat) : State :=
          let t := (tiles[m / 1024]?).getD tile
          watchAcc (setAccEntry s g t (afmtTy afmt) acc.toNat (m % 1024) 0) g t acc.toNat true fun i j => decide (i = m % 1024 / 32 ∧ j = m % 32)
        if s.part ≠ 0 then accRun s g th q x en (1024 * tiles.length) (fun s m => (clear s m, .ok 0)) fun s m => (s, .ok m)
        else if en.parts = [] then engDone (tiles.foldl (fun s t => watchAcc (setAccBits s g t (afmtTy afmt) acc.toNat []) g t acc.toNat true fun _ _ => true) s) g th q
        else engDone (((List.range (1024 * tiles.length)).filter fun m => (Tab.get? en.parts m).isNone).foldl clear s) g th q)

/-! ## ENOP (R197) -/

/-- ENOP does nothing in its queue. In CT with a pop it fires only when its block is the oldest and the FIFO holds a token (R129, R196); nulled, it pops nothing and waits for neither (R173). -/
def execEnop (f : EFields) (q : Qu) (s : State) : Host.Outcome State Fault Refusal :=
  .next (match s.site with
    | .block g th b _ =>
      match q, f.pop with
      | .ct, some p =>
        let n := ((thread? s g th).map fun t => Tab.get t.fifos (4 * Qu.code p) 0).getD 0
        let s' := fireEngine s f false false false fun _ _ _ _ _ => none
        match block? s g th b, block? s' g th b with
          | some k, some k' =>
            if k'.engines.length = k.engines.length then s'
            else if b ≠ 0 || n = 0 then s
            else modBlock (modThread s' g th fun t => { t with fifos := Tab.set t.fifos (4 * Qu.code p) (n - 1) }) g th b fun k => { k with ctPopped := p :: k.ctPopped }
          | _, _ => s'
      | _, _ => fireEngine s f false false false fun _ _ _ _ _ => none
    | _ => engAct s fun g th q _ _ => engDone s g th q)

/-! ## Remote instructions (R396-R398) -/

/-- TMOV_DESC of a remote instruction: the remote address to a multiple of ra, a gm local address to 8, LEN, and what else the row asks. -/
def remoteCheck (lsp : MvSpace) (ra : Nat) (a b : Value) (bad : Bool) (src : Nat) : Option (Nat × Nat) :=
  if decide ((lane a 0).toNat % ra ≠ 0) || (lsp == .gm && decide ((lane b 0).toNat % 8 ≠ 0)) || bad then some (0x0B, src) else none

/-- LEN: a multiple of 8 from 8 to a limit. -/
def badLen (c : Value) (limit : Nat) : Bool :=
  let n := (lane c 0).toNat
  decide (n % 8 ≠ 0) || decide (n < 8) || decide (limit < n)

def next8 (s : State) (m : Nat) (x : Except MvStop Unit) : State × Except MvStop Nat :=
  match x with
  | .ok () => (s, .ok (m + 1))
  | .error e => (s, .error e)

/-- RLD: words of the remote address go to the local one. -/
def execRld (f : EFields) (lsp : MvSpace) (s : State) : Host.Outcome State Fault Refusal :=
  .next (match s.site with
    | .block _ _ _ _ => fireEngine s f true true true fun _ _ a b c => remoteCheck lsp 8 a b (badLen c (2 ^ 24)) (lane a 0).toNat
    | _ => engAct s fun g th q x e =>
      let n := (lane e.c 0).toNat / 8
      mvRun s g th q x e (n + 1) (fun m => decide (n ≤ m)) fun s m =>
        let (s, r) := engCopy s g th q .gm lsp ((lane e.a 0).toNat + 8 * m) (mvAddr (lane e.b 0).toNat (8 * m)) 8
        next8 s m r)

/-- RST: local words go to the remote address. -/
def execRst (f : EFields) (lsp : MvSpace) (s : State) : Host.Outcome State Fault Refusal :=
  .next (match s.site with
    | .block _ _ _ _ => fireEngine s f true true true fun _ _ a b c => remoteCheck lsp 8 a b (badLen c (2 ^ 24)) (lane b 0).toNat
    | _ => engAct s fun g th q x e =>
      let n := (lane e.c 0).toNat / 8
      mvRun s g th q x e (n + 1) (fun m => decide (n ≤ m)) fun s m =>
        let (s, r) := engCopy s g th q lsp .gm (mvAddr (lane e.b 0).toNat (8 * m)) ((lane e.a 0).toNat + 8 * m) 8
        next8 s m r)

/-- The old value of an engine's atomic stands in its buffer under the location's key once it has performed. -/
def engAtomic (s : State) (g th : Nat) (q : Qu) (x : Group) (op : AtomOp) (t : Ty) (a b c : Nat) : State × Except MvStop Nat :=
  let n := Ty.width t / 8
  let cl := clusterOfThread x th
  match gmFind s (moveHolder cl (th % 4)) g a n .atomic, engNow s g th q with
  | (s, .wait), _ => (s, .error .wait)
  | (s, .fault c k), _ => (s, .error (mvFault c k a true))
  | (s, .at_ _ _), none => (s, .error .wait)
  | (s, .at_ key sync), some e =>
    match bufBytes e key n with
    | some l => (s, .ok (natOfBytes l))
    | none =>
      if has e.asked key || queueOverlaps s cl key n then (s, .error .wait)
      else
        let ask (s : State) : State := modEng s g th q fun e => { e with asked := key :: e.asked }
        if isHost key then
          if hostAtomOk s op t then (ask (pciePush s (.atomic key n op (BitVec.ofNat 64 b) (BitVec.ofNat 64 c) (.engine g th q key))), .error .wait)
          else (s, .error (.fault 0x25 a))
        else if isPeer key then
          match sendRequest s x.ctx (peerPkg key) 4 (peerHasid key) (peerVa key) (BitVec.ofNat 21 (AtomOp.code op * 16 + Ty.code t))
              (bytesOf 8 b ++ bytesOf 8 c) (.engine g th q key) (partyFlow (engParty g th q)) with
          | .gone s => (ask s, .error .wait)
          | .later => (s, .error .wait)
          | .unreachable => (s, .error (.fault 0x25 a))
        else match eccOf s key n with
          | some true => (s, .error (.fault 0x14 a))
          | some false => (eccTouch s key n false, .error .wait)
          | none =>
            let (s, old) := atomAt (eccFixAt s key n) sync.isSome key n fun old => atomNew op t old b c
            let s := ask s
            (modEng s g th q fun e => { e with buf := e.buf ++ keyed key (bytesOf n old) }, .ok old)

/-- RATOM: an atomic at the remote address; the old value goes to the local one. -/
def execRatom (f : EFields) (op : AtomOp) (lsp : MvSpace) (s : State) : Host.Outcome State Fault Refusal :=
  .next (match s.site with
    | .block _ _ _ _ => fireEngine s f true true true fun _ _ a b _ => remoteCheck lsp (Ty.width f.ty / 8) a b false (lane a 0).toNat
    | _ => engAct s fun g th q x e =>
      mvRun s g th q x e 2 (fun m => decide (1 ≤ m)) fun s m =>
        match engAtomic s g th q x op f.ty (lane e.a 0).toNat (lane e.c 0).toNat (lane e.c 1).toNat with
        | (s, .error e) => (s, .error e)
        | (s, .ok old) =>
          let (s, r) := engWrite s g th q lsp (lane e.b 0).toNat (bytesOf 8 old)
          next8 s m r)

/-- Read n words one after another. -/
def engWords (g th : Nat) (q : Qu) (sp : MvSpace) (a : Nat) : Nat → State → State × Except MvStop (List Word)
  | 0, s => (s, .ok [])
  | n + 1, s =>
    match engWords g th q sp a n s with
    | (s, .error e) => (s, .error e)
    | (s, .ok l) =>
      match engRead s g th q sp (mvAddr a (8 * n)) 8 with
      | (s, .error e) => (s, .error e)
      | (s, .ok b) => (s, .ok (l ++ [BitVec.ofNat 64 (natOfBytes b)]))

/-- Whether a link is TRUSTED for the job of a context (R411, R413). -/
def linkTrustedFor (s : State) (n c : Nat) : Bool :=
  let l := link s n
  l.st == .trusted && (ctx s c).ctxjob.getLsbD 32 && (job s l.jobSlot).st == .opened && decide ((job s l.jobSlot).jobid = jobOf s c)

/-- Write bytes at this package as the home of an access (R346). -/
def homeWrite (s : State) (hasid jobid va : Nat) (l : List Byte) : State × Bool :=
  match homePlace s hasid jobid va .write with
  | (s, some (.store k)) => (wrBytes (eccStore s (keyed k l)) k l, true)
  | (s, _) => (s, false)

/-- The bytes of data in a packet of an RMST to n members: with their list, as much as a job packet holds. A split RMST sends each member the same packets (R413). (Model: DESIGN CHOICE, safe: notes/assumptions 154) -/
def rmstChunk (n : Nat) : Nat := jobBytes - 8 * n

/-- How many packets an RMST of `len` bytes to n members sends each of them. -/
def rmstPackets (n len : Nat) : Nat := (len + rmstChunk n - 1) / rmstChunk n

/-- Send packet j of the data of an RMST to member m, or record its failure (R395). -/
def rmstOne (s : State) (g th : Nat) (x : Group) (a m j : Nat) (w : Word) (data : List Byte) : State × Except MvStop Unit :=
  let pkg := fieldOf w 0 12
  let hasid := fieldOf w 16 16
  let key := memberKey (m + 128 * j)
  let mark (s : State) (r : Byte) : State := modEng s g th .cl fun e => { e with asked := key :: e.asked, buf := e.buf ++ [(key, r)] }
  if decide (w.toNat / 2 ^ 32 ≠ 0) || decide (fieldOf w 12 4 ≠ 0) then (mark s 1, .ok ())
  else if pkg = s.pkgid.toNat then
    let (s, ok) := homeWrite s hasid (jobOf s x.ctx).toNat a data
    (mark s (if ok then 0 else 1), .ok ())
  else
    match sendRequest s x.ctx pkg 2 hasid a 0 data (.multicast g th (m + 128 * j)) (partyFlow (engParty g th .cl)) with
    | .gone s => (modEng s g th .cl fun e => { e with asked := key :: e.asked }, .ok ())
    | .later => (s, .error .wait)
    | .unreachable => (mark s 1, .ok ())

/-- The link on which one multicast packet reaches every member through a switch, if there is one (R395, R413). -/
def multicastLink (s : State) (c : Nat) (ms : List Word) : Option Nat :=
  let ls := ms.map fun w => (linksFor s (fieldOf w 0 12)).head?
  match ls with
  | some n :: _ =>
    if ls.all (· == some n) && (link s n).peersw && (!(ctx s c).ctxjob.getLsbD 32 || linkTrustedFor s n c) && !ms.any (fun w => decide (fieldOf w 0 12 = s.pkgid.toNat)) then some n
    else none
  | _ => none

/-- Packet j of a multicast leaves on a link, with the list of its members (R393, R395). -/
def rmstMany (s : State) (g th : Nat) (x : Group) (ln a j : Nat) (ms : List Word) (data : List Byte) : Option State :=
  let p : Packet := { src := s.pkgid, dst := 0xFFF, hasid := 0, tag := nextTag s, va := BitVec.ofNat 57 a, jobid := jobOf s x.ctx,
                      flag := BitVec.ofNat 21 ms.length, data := ms.flatMap (fun w => bytesOf 8 w.toNat) ++ data }
  (txPacket s ln 0 2 p).map fun s =>
    let r : Req := { tag := p.tag.toNat, ptype := 2, home := 0xFFF, pkt := p, sent := s.dtime, link := ln, dest := .multicast g th (64 + 128 * j) }
    modEng { s with reqs := s.reqs ++ [r], fresh := s.fresh + 1 } g th .cl fun e => { e with asked := (List.range ms.length).map (fun m => memberKey (m + 128 * j)) ++ e.asked }

/-- RMST: the local bytes go to each member, a packet after the other; then the failure bitmap is written, in which a member's bit is set when any of its packets failed. -/
def execRmst (f : EFields) (lsp : MvSpace) (s : State) : Host.Outcome State Fault Refusal :=
  .next (match s.site with
    | .block _ _ _ _ => fireEngine s f true true true fun _ _ a b c =>
        let n := (lane c 2).toNat
        remoteCheck lsp 8 a b (badLen c 1024 || decide (n < 1) || decide (64 < n) || decide ((lane c 1).toNat % 8 ≠ 0)
          || (lsp == .gm && decide ((lane c 3).toNat % 8 ≠ 0))) (lane b 0).toNat
    | _ => engAct s fun g th q x e =>
      let n := (lane e.c 2).toNat
      let len := (lane e.c 0).toNat
      let k := rmstPackets n len
      mvRun s g th q x e (n * k + 2) (fun m => decide (n * k < m)) fun s m =>
        if m < n * k then
          match engWords g th q .gm (lane e.c 1).toNat n s with
          | (s, .error e) => (s, .error e)
          | (s, .ok ms) =>
            match engWords g th q lsp (lane e.b 0).toNat (len / 8) s with
            | (s, .error e) => (s, .error e)
            | (s, .ok ws) =>
              let data := ws.flatMap fun w => bytesOf 8 w.toNat
              let part (j : Nat) : List Byte := (data.drop (rmstChunk n * j)).take (rmstChunk n)
              let a (j : Nat) : Nat := (lane e.a 0).toNat + rmstChunk n * j
              if gangHeld s g && ms.any (fun w => decide (fieldOf w 0 12 ≠ s.pkgid.toNat)) then (s, .error .wait)
              else match (if m = 0 then multicastLink s x.ctx ms else none) with
              | some ln =>
                match (List.range k).foldl (fun (o : Option State) j => o.bind fun s => rmstMany s g th x ln (a j) j ms (part j)) (some s) with
                | none => (s, .error .wait)
                | some s => (s, .ok (n * k))
              | none =>
                let (s, r) := rmstOne s g th x (a (m % k)) (m / k) (m % k) ((ms[m / k]?).getD 0) (part (m % k))
                next8 s m r
        else
          match (engNow s g th q).map fun e => (List.range n).map fun i => (List.range k).map fun j => lastByte e.buf (memberKey (i + 128 * j)) with
          | some bits =>
            if bits.any (fun l => l.any (·.isNone)) then (s, .error .wait)
            else
              let v := (bits.zipIdx.map fun (l, i) => if l.all (fun b => decide ((b.getD 0) = 0)) then 0 else 2 ^ i).foldl (· + ·) 0
              let (s, r) := engWrite s g th q lsp (lane e.c 3).toNat (bytesOf 8 v)
              next8 s m r
          | none => (s, .error .wait))

/-- The MTINV that serves a sync page of a context at this package (R345, R397): the one of the lowest GRPID. -/
def invTarget (s : State) (c tile : Nat) : Option (Nat × Nat) :=
  s.groups.findSome? fun (g, x) =>
    if x.ctx ≠ c ∨ !placed x then none
    else (x.image.graphs.find? fun (_, gr) =>
      (((Tab.get? gr.tiles tile).bind (·.mt)).bind (·.fn)).any fun f => decide (fieldOf f.frame 0 10 = 0x28C)).map fun p => (g, p.1)

/-- An argument waits at an MTINV (R235, R322). -/
def invoke (s : State) (g gi tile : Nat) (site : Site) (pos : Nat) (packet : Option (Nat × Packet)) (spawned : Bool) (arg : Word) : State :=
  modMtFn s g gi tile fun m => { m with waiting := m.waiting ++ [({ tag := 0, site := site, pos := pos, packet := packet, spawned := spawned }, arg)] }

/-- RINV: the argument goes to the MTINV that serves A at its package; its result is written when it returns. -/
def execRinv (f : EFields) (lsp : MvSpace) (s : State) : Host.Outcome State Fault Refusal :=
  .next (match s.site with
    | .block _ _ _ _ => fireEngine s f true true true fun _ _ a b _ => remoteCheck lsp 8 a b false (lane a 0).toNat
    | _ => engAct s fun g th q x e =>
      let a := (lane e.a 0).toNat
      mvRun s g th q x e 3 (fun m => decide (2 ≤ m)) fun s m =>
        if m = 0 then
          if invalBlocks s x.ctx a then (s, .error .wait)
          else match translate s (moveHolder (clusterOfThread x th) (th % 4)) x.ctx a with
            | (s, .error k) => (s, .error (mvFault 8 k a true))
            | (s, .ok (leaf, _)) =>
              let ask (s : State) : State := modEng s g th q fun e => { e with asked := rinvKey :: e.asked }
              match entryKind leaf with
              | 2 =>
                match invTarget s x.ctx (fieldOf leaf 16 18) with
                | some (g', gi) => (invoke (ask s) g' gi (fieldOf leaf 16 18) (.engine g th q) 0 none false (lane e.c 0), .ok 1)
                | none => (s, .error (.fault 0x25 a))
              | 4 =>
                let pkg := fieldOf leaf 32 12
                if !(ctx s x.ctx).ctxjob.getLsbD 32 then (s, .error (.fault 0x25 a))
                else match sendRequest s x.ctx pkg 6 (fieldOf leaf 16 16) a 0 (bytesOf 8 (lane e.c 0).toNat) (.rinv g th) (partyFlow (engParty g th q)) with
                  | .gone s => (ask s, .ok 1)
                  | .later => (s, .error .wait)
                  | .unreachable => (s, .error (.fault 0x25 a))
              | _ => (s, .error (.fault 0x25 a))
        else
          match (engNow s g th q).bind fun e => bufBytes e rinvKey 16 with
          | none => (s, .error .wait)
          | some l =>
            match engWrite s g th q lsp (lane e.b 0).toNat (l.take 8) with
            | (s, .error e) => (s, .error e)
            | (s, .ok ()) =>
              let (s, r) := engWrite s g th q lsp (mvAddr (lane e.b 0).toNat 8) (l.drop 8)
              next8 s m r)

/-- RFENCE: earlier remote instructions of the queue have performed when it issues; then the flag is written. (Model: DEDUCED, safe: notes/assumptions 115) -/
def execRfence (f : EFields) (s : State) : Host.Outcome State Fault Refusal :=
  .next (match s.site with
    | .block _ _ _ _ => fireEngine s f true false true fun _ _ a b _ => remoteCheck .up 8 a b false (lane a 0).toNat
    | _ => engAct s fun g th q x e =>
      mvRun s g th q x e 2 (fun m => decide (1 ≤ m)) fun s m =>
        let (s, r) := engWrite s g th q .gm (lane e.a 0).toNat (bytesOf 8 (lane e.c 0).toNat)
        next8 s m r)

end Sys2Proof.Machine
end

