-- ==== Sys2Proof/Machine/System.lean ====
section
/-! DEFINITION. Synchronisation and system instructions: barriers (R334-R336), puts (R292-R294), SPAWN (R321-R323), system registers (R279, R280), TRAP, TRET, BRK and MCUT
(R363-R367), EVT (R439), PGINV and PGPROBE (R356). -/

namespace Sys2Proof.Machine

/-- A thread whose BARAW waits, or whose BARAW's arrival has yet to count (R335): the thread waits, so nothing that issues only in its oldest block issues. (Model: DEDUCED, unsafe: notes/assumptions 133) -/
def awaitsBarrier (s : State) (g th : Nat) : Bool :=
  match thread? s g th with
  | some t => !t.barWait.isEmpty || t.arrivals.any (·.2.2)
  | none => false

/-- An instruction of a block that issues only in the thread's oldest uncommitted block, and not while the thread waits at a BARAW (R335). Nulled, it sends voids and does nothing
else. -/
def fireOldest (s : State) (f : GFields) (ua ub : Bool) (go : Nat → Nat → Nat → Group → Block → Value → Value → State) : State :=
  match s.site with
  | .block g th b slot =>
    blockFire s g th b slot f.pr ua (ub && !f.i) false (fun s => deliver s g th b slot f.t0 f.t1 .void) fun k a b' _ =>
      match grp? s g with
      | some x => if b = 0 ∧ awaitsBarrier s g th = false then go g th slot x k a b' else s
      | none => s
  | _ => s

/-- The number that an instruction takes from IMM20[11:0] or from B lane 0. -/
def objNumber (f : GFields) (b : Value) : Nat := if f.i then fieldOf f.imm 0 12 else (lane b 0).toNat

/-- A result of a block's instruction goes to its targets. -/
def result (s : State) (g th slot : Nat) (f : GFields) (v : Value) : State := deliver s g th 0 slot f.t0 f.t1 (.val v)

def addAction (s : State) (g th b slot : Nat) (a : CommitAct) : State := modBlock s g th b fun k => { k with actions := k.actions ++ [(slot, a)] }

/-! ## Barriers (R334-R336) -/

/-- BARV, BARAW and BARI fire in any block; BARRIER_DESC is precise. -/
def fireBarrier (s : State) (f : GFields) (ua : Bool) (bad : Value → Bool) (act : Nat → Nat → Value → CommitAct) : State :=
  match s.site with
  | .block g th b slot =>
    blockFire s g th b slot f.pr ua (!f.i) false id fun _ a b' _ =>
      match grp? s g with
      | none => s
      | some x =>
        let n := objNumber f b'
        let s := markFired s g th b slot
        if !barFor s n x.ctx || bad a then blockFault s g th b (some slot) 0x0F 0 false n
        else addAction s g th b slot (act n (barrier s n).gen a)
  | _ => s

def execBarv (f : GFields) (s : State) : Host.Outcome State Fault Refusal := .next (fireBarrier s f false (fun _ => false) fun n gen _ => .barv n gen)
def execBaraw (f : GFields) (s : State) : Host.Outcome State Fault Refusal := .next (fireBarrier s f false (fun _ => false) fun n gen _ => .baraw n gen)
def execBari (f : GFields) (s : State) : Host.Outcome State Fault Refusal :=
  .next (fireBarrier s f true (fun a => decide (fieldOf (lane a 0) 0 32 = 0)) fun n gen a => .bari n gen (fieldOf (lane a 0) 0 32))

/-- BARW waits until its phase is satisfied, or the barrier is BROKEN or fails (R335). -/
def execBarw (f : GFields) (s : State) : Host.Outcome State Fault Refusal :=
  .next (fireOldest s f true true fun g th slot x _ a b =>
    let n := objNumber f b
    if gangHeld s g && barFor s n x.ctx && decide (barScope (barrier s n) = 4) then s else
    let s := markFired s g th 0 slot
    if !barFor s n x.ctx then blockFault s g th 0 (some slot) 0x0F 0 false n
    else
      let y := barrier s n
      let p := fieldOf (lane a 0) 0 32
      if satisfied y p then result s g th slot f (barResult y 0)
      else if y.st == .broken then result s g th slot f (barResult y 2)
      else modBlock (wake s g) g th 0 fun k => { k with waits := k.waits ++ [(slot, .barw n p)] })

/-- BART never waits (R335). -/
def execBart (f : GFields) (s : State) : Host.Outcome State Fault Refusal :=
  .next (fireOldest s f true true fun g th slot x _ a b =>
    let n := objNumber f b
    if gangHeld s g && barFor s n x.ctx && decide (barScope (barrier s n) = 4) then s else
    let s := markFired s g th 0 slot
    if !barFor s n x.ctx then blockFault s g th 0 (some slot) 0x0F 0 false n
    else
      let y := barrier s n
      result s g th slot f (barResult y (if satisfied y (fieldOf (lane a 0) 0 32) then 0 else if y.st == .broken then 2 else 1)))

/-! ## Puts (R292-R294) -/

def packetType (w : Word) : Nat := fieldOf w 32 8

/-- A non-zero reserved field of R284 or R285 in a LAUNCH packet. -/
def launchReserved (l : List Word) : Bool :=
  let w (i : Nat) : Word := (l[i]?).getD 0
  decide (fieldOf (w 0) 41 7 ≠ 0) || decide (fieldOf (w 1) 41 23 ≠ 0) || decide (fieldOf (w 4) 28 36 ≠ 0) || decide (fieldOf (w 5) 56 8 ≠ 0)

/-- Which put. -/
inductive PutKind where
  | qput | qputw | launch
  deriving DecidableEq, Repr

/-- The scope of a group (R128). -/
def groupScope (x : Group) : Scope :=
  if x.gang.isSome then .domain
  else if x.ncl = 1 then .cluster
  else if (x.place.map fun p => p.2.1).eraseDups.length = 1 then .die
  else .package

/-- The free slots of a queue. -/
def freeSlots (y : Queue) : Nat := queueSize y - (y.pidx - y.cidx).toNat

/-- Whether a put finds the queue full: QPUTWs that wait are served first, in the order of their arrival. -/
def putFull (y : Queue) (me : Nat × Nat) (k : PutKind) : Bool :=
  let ahead := match k with
    | .qputw => (y.waiters.takeWhile fun w => decide (w ≠ me)).length
    | _ => y.waiters.length
  decide (freeSlots y ≤ ahead)

/-- The packet as the device writes it. -/
def putPacket (k : PutKind) (g : Nat) (x : Group) (y : Queue) (a : Value) : List Word :=
  let l := (List.range 16).map (lane a)
  let w0 : Word := setField ((l[0]?).getD 0) 0 32 y.pidx.toNat
  match k with
  | .launch =>
    let w0 := setField w0 48 16 g
    modAt (modAt l 0 fun _ => w0) 2 fun w => if w = 0 then BitVec.ofNat 64 x.dl else w
  | _ => modAt l 0 fun _ => w0

/-- One put at the queue (R293): its status is given at once, or it waits. -/
def doPut (s : State) (k : PutKind) (f : GFields) (g th slot : Nat) (x : Group) (a b : Value) : State :=
  let q := if f.i then fieldOf f.imm 0 12 else (lane b 0).toNat
  let y := queue s q
  let l := (List.range 16).map (lane a)
  let leave (s : State) : State := setQueue s q { queue s q with waiters := (queue s q).waiters.filter fun w => decide (w ≠ (g, th)) }
  let done (s : State) (st n : Nat) : State := result (markFired s g th 0 slot) g th slot f (lane0 (BitVec.ofNat 64 (st + n * 2 ^ 32)))
  if decide (4096 ≤ q) || !queueOf y x.ctx || !queueFed y || y.st == .resetting then done (leave s) 2 0
  else if k == .launch && (decide (packetType ((l[0]?).getD 0) ≠ 1) || launchReserved l) then done s 3 0
  else if putFull y (g, th) k then
    if k == .qputw && decide (x.queue ≠ q) && (decide (x.dl = 0) || decide (s.dtime ≤ x.dl)) then
      if y.waiters.any fun w => decide (w = (g, th)) then s else setQueue (wake s g) q { y with waiters := y.waiters ++ [(g, th)] }
    else done (leave s) 1 0
  else
    let va := y.qbase.toNat + 128 * (y.pidx.toNat % queueSize y)
    match resolveOwn s x.ctx va .write with
    | .error cause => memFault (leave s) g th 0 slot 8 cause true va
    | .ok p =>
      match placeKey p with
      | none => memFault (leave s) g th 0 slot 8 5 true va
      | some key =>
        let scope : Scope := if isHost key then .system else .package
        if !storesPerformed s (g, th) scope || ((block? s g th 0).map loadsOut).getD false then s
        else
          let s := wrBytes s key ((putPacket k g x y a).flatMap fun w => bytesOf 8 w.toNat)
          let s := leave s
          let y := queue s q
          let s := setQueue s q { y with pidx := y.pidx + 1, st := if y.st == .idle then .active else y.st }
          done (modBlock s g th 0 fun k => { k with perf := true }) 0 y.pidx.toNat

def execQput (f : GFields) (s : State) : Host.Outcome State Fault Refusal := .next (fireOldest s f true true fun g th slot x _ a b => doPut s .qput f g th slot x a b)
/-- Model: DEDUCED, safe: notes/assumptions 26. -/
def execQputw (f : GFields) (s : State) : Host.Outcome State Fault Refusal := .next (fireOldest s f true true fun g th slot x _ a b => doPut s .qputw f g th slot x a b)
def execLaunch (f : GFields) (s : State) : Host.Outcome State Fault Refusal := .next (fireOldest s f true true fun g th slot x _ a b => doPut s .launch f g th slot x a b)

/-! ## SPAWN (R321-R323) -/

/-- The resident graph whose MTINV a logical tile runs. -/
def spawnTarget (x : Group) (tile : Nat) : Option Nat :=
  (x.image.graphs.find? fun (_, gr) =>
    (((Tab.get? gr.tiles tile).bind (·.mt)).bind (·.fn)).any fun f => decide (fieldOf f.frame 0 10 = 0x28C)).map (·.1)

/-- The positions of a SPAWN of a graph issue in order. -/
def spawnAdvance (g gi tile fr slot target : Nat) : Nat → State → State
  | 0, s => s
  | fuel + 1, s =>
    match grp? s g, (ce? s g gi tile).bind fun c => nodeWait? c fr slot with
    | some x, some nw =>
      match nw.pos.findIdx? fun p => !p.issued with
      | none => s
      | some i =>
        match nw.pos[i]? with
        | none => s
        | some p =>
          if !p.access then spawnAdvance g gi tile fr slot target fuel (modPos s g gi tile fr slot i fun p => { p with issued := true })
          else match spawnTarget x target with
            | none => raiseFreeze s g 0x10 0 target (workName s g gi tile)
            | some gj =>
              spawnAdvance g gi tile fr slot target fuel
                (invoke (issuePos s g gi tile fr slot i 1 0 0) g gj target (.ce g gi tile fr slot) i none true p.a)
    | _, _ => s

/-- SPAWN: an invocation of an MTINV of the group; its result goes to the targets when it returns. It is a release at the group's scope. -/
def execSpawn (f : GFields) (s : State) : Host.Outcome State Fault Refusal :=
  let target := fieldOf f.imm 0 18
  .next (match s.site with
    | .ce g gi tile fr slot =>
      nodeFire s g gi tile fr slot f.pr f.t0 f.t1 [Opnd.a] false fun s => nodeSettle (spawnAdvance g gi tile fr slot target 40 s) g gi tile fr slot
    | _ => fireOldest s f true false fun g th slot x k a _ =>
      match spawnTarget x target with
      | none => blockFault (markFired s g th 0 slot) g th 0 (some slot) 0x10 0 false target
      | some gj =>
        if !storesPerformed s (g, th) (groupScope x) || loadsOut k then s
        else
          let s := modBlock (markFired s g th 0 slot) g th 0 fun k => { k with perf := true, waits := k.waits ++ [(slot, .spawnTag gj target)] }
          invoke s g gj target (.block g th 0 slot) 0 none true (lane a 0))

/-! ## System registers (R279, R280) -/

/-- The value of a system register in the CTX view of a thread. (Model: DEDUCED, unsafe: notes/assumptions 17) -/
def srValue (s : State) (g th sr : Nat) : Nat :=
  match grp? s g, thread? s g th with
  | some x, some t =>
    let c := ctx s x.ctx
    match sr with
    | 0x00 => x.ctx
    | 0x01 => c.tenant.toNat
    | 0x02 => c.asid.toNat
    | 0x03 => boolBit c.conf + c.owner.toNat * 2
    | 0x04 => g
    | 0x05 => th % 4 + th / 4 * 4 + clusterOfThread x th * 2 ^ 11
    | 0x06 => s.dtime
    | 0x07 => x.fpctl.toNat
    | 0x08 => x.streamerr.toNat
    | 0x09 => x.dpbase
    | 0x0A => x.dpsize
    | 0x0B => x.mstat.toNat
    | 0x0C => t.winbase.toNat
    | 0x0D => t.winsize.toNat
    | 0x0E => t.wintop.toNat
    | 0x0F => t.trapvec.toNat
    | 0x10 => t.fltcode.toNat
    | 0x11 => t.fltaddr.toNat
    | 0x12 => stallcycOf c.stallcyc
    | 0x13 => c.samprate.toNat
    | 0x14 => c.dbgcons.toNat
    | _ => 0
  | _, _ => 0

/-- GETSR. A read of STREAMERR clears it at that moment. -/
def execGetsr (f : GFields) (s : State) : Host.Outcome State Fault Refusal :=
  let sr := fieldOf f.imm 0 8
  .next (fireOldest s f false false fun g th slot _ _ _ _ =>
    let v := srValue s g th sr
    let s := if sr = 0x08 then modGrp s g fun x => { x with streamerr := 0 } else s
    result (markFired s g th 0 slot) g th slot f (lane0 (BitVec.ofNat 64 v)))

/-- SETSR: the write waits for its block's commit. -/
def execSetsr (f : GFields) (s : State) : Host.Outcome State Fault Refusal :=
  .next (match s.site with
    | .block g th b slot =>
      blockFire s g th b slot f.pr true false false id fun _ a _ _ =>
        modBlock (markFired s g th b slot) g th b fun k => { k with setsrs := k.setsrs ++ [(slot, fieldOf f.imm 0 8, lane a 0)] }
    | _ => s)

/-- A consent register: INVASIVE is fixed 0 in a confidential context (R277, R278). -/
def consent (c : Context) (v : Nat) : BitVec 32 := BitVec.ofNat 32 (v % (if c.conf then 2 else 4))

/-- Units that a consent no longer allows are freed; a session that it no longer allows is cut short (R278, R445). -/
def consentSettle (s : State) (c : Nat) : State :=
  let x := ctx s c
  let s := if x.dbgcons.getLsbD 0 then s else traceClose s c true
  if x.dbgcons.getLsbD 1 then s
  else s.dbgs.foldl (fun s (u, d) =>
    let g := fieldOf d.grp 0 16
    if d.st != .free && decide (((grp? s g).map (·.ctx)).getD 4096 = c) then
      freeUnit (letGo s g) u
    else s) s

/-- The write rule of a register, applied at commit (R280). A flag that a firing raises in the same cycle ends set (R146). -/
def srWrite (s : State) (g th sr : Nat) (v : Word) : State :=
  match sr with
  | 0x07 => modGrp s g fun x =>
    { x with fpctl := (x.fpctl &&& BitVec.ofNat 32 (31 - v.toNat % 32)) ||| BitVec.ofNat 32 (fieldOf v 8 5 * 256) ||| (if x.fpRaised.1 = s.cycle then x.fpRaised.2 else 0) }
  | 0x0B => modGrp s g fun x => { x with mstat := if v.getLsbD 0 then 0 else x.mstat }
  | 0x0C => modThread s g th fun t => if t.wintop = 0 then { t with winbase := BitVec.ofNat 32 (fieldOf v 11 21 * 2048) } else t
  | 0x0D => modThread s g th fun t => if t.wintop = 0 then { t with winsize := BitVec.ofNat 32 (fieldOf v 11 21 * 2048) } else t
  | 0x0F => modThread s g th fun t => { t with trapvec := BitVec.ofNat 64 (fieldOf v 5 52 * 32) }
  | 0x14 =>
    match grp? s g with
    | some x => consentSettle (modCtx s x.ctx fun c => { c with dbgcons := consent c v.toNat }) x.ctx
    | none => s
  | _ => s

/-! ## TRAP, TRET, BRK, MCUT (R363-R367) -/

/-- An instruction of a block whose effect stands at its commit. -/
def fireAction (s : State) (f : GFields) (a : CommitAct) : State :=
  match s.site with
  | .block g th b slot => blockFire s g th b slot f.pr false false false id fun _ _ _ _ => addAction (markFired s g th b slot) g th b slot a
  | _ => s

def execTrap (f : GFields) (s : State) : Host.Outcome State Fault Refusal := .next (fireAction s f (.trap (fieldOf f.imm 0 8)))
def execMcut (f : GFields) (s : State) : Host.Outcome State Fault Refusal := .next (fireAction s f .mcut)

/-- TRET: its target stands in place of the branch's at commit (R365). -/
def execTret (f : GFields) (s : State) : Host.Outcome State Fault Refusal :=
  .next (match s.site with
    | .block g th b slot =>
      blockFire s g th b slot f.pr true false false id fun _ a _ _ =>
        modBlock (markFired s g th b slot) g th b fun k => { k with tret := some (indirectBase a) }
    | _ => s)

/-- The debug unit that has armed a breakpoint id for a group, with the id's place (R444, R446). -/
def armedBreak (s : State) (g id : Nat) : Option (Nat × Nat) :=
  s.dbgs.findSome? fun (u, d) =>
    if d.st = .attached ∧ fieldOf d.grp 0 16 = g then
      ((List.range 4).find? fun a => d.brken.getLsbD a && decide (fieldOf d.brkid (16 * a) 16 = id)).map fun a => (u, a)
    else none

/-- An armed BRK starts a stop. -/
def brkHit (s : State) (g id work : Nat) : State :=
  match armedBreak s g id with
  | some (u, a) => trigger s u 3 a work 0
  | none => s

/-- Whether a slot of a graph has fired between two states. -/
def slotFired (s s' : State) (g gi tile fr slot : Nat) : Bool :=
  match (ce? s g gi tile).bind fun c => frame? c fr, (ce? s' g gi tile).bind fun c => frame? c fr with
  | some f, some f' => decide (f.iter ≠ f'.iter) || (has f'.fired slot && !has f.fired slot)
  | some _, none => true
  | none, _ => false

/-- The value-kind tokens of A that a firing computes on. -/
def firingValues (s : State) (g gi tile fr slot : Nat) (pr : Pred) : List Token :=
  match ceFiring? s g gi tile fr slot with
  | none => []
  | some (gr, c) =>
    let uses := [Opnd.a] ++ (if pr = .always then [] else [Opnd.p])
    let ents := ceEntries gr c tile fr slot uses
    let n := (minOf? (ents.map List.length)).getD 0
    (List.range n).filterMap fun j =>
      match (ents[0]?).bind fun l => l[j]? with
      | none => none
      | some t =>
        let p := if pr = .always then none else (ents[1]?).bind fun l => l[j]?
        if isValue t && position [t] pr p == .compute then some t else none

/-- BRK: in a block, at commit; in a graph, its tokens pass unchanged, and an armed one starts a stop when a value kind has passed (R366). -/
def execBrk (f : GFields) (s : State) : Host.Outcome State Fault Refusal :=
  let id := fieldOf f.imm 0 16
  .next (match s.site with
    | .ce g gi tile fr slot =>
      let s' := fireCe s g gi tile fr slot f.pr true false false f.t0 f.t1 (fun a _ _ l => (a, 0, l)) (fun src _ => src) passEmpty
      if slotFired s s' g gi tile fr slot && !(firingValues s g gi tile fr slot f.pr).isEmpty then brkHit s' g id (workName s' g gi tile) else s'
    | _ => fireAction s f (.brk id))

/-! ## EVT (R439) -/

/-- EVT: its tokens pass unchanged; in a block its record waits for the commit. -/
def execEvt (f : GFields) (s : State) : Host.Outcome State Fault Refusal :=
  let code := fieldOf f.imm 0 8
  .next (match s.site with
    | .ce g gi tile fr slot =>
      let s' := fireCe s g gi tile fr slot f.pr true false false f.t0 f.t1 (fun a _ _ l => (a, 0, l)) (fun src _ => src) passEmpty
      if slotFired s s' g gi tile fr slot then
        (firingValues s g gi tile fr slot f.pr).foldl (fun s t =>
          record s (tileCl s g tile) 8 code (tileInCluster tile) (((grp? s g).map (·.ctx)).getD 0) t.payload.toNat) s'
      else s'
    | .block g th b slot =>
      blockFire s g th b slot f.pr true false false (fun s => deliver s g th b slot f.t0 f.t1 .void) fun k a _ _ =>
        deliver (addAction (markFired s g th b slot) g th b slot (.evt code (lane a 0) (ceTile k th slot))) g th b slot f.t0 f.t1 (.val a)
    | _ => s)

/-! ## PGINV and PGPROBE (R356) -/

/-- The range of an invalidation: VA aligned down to 64 KiB, clipped at 2^57 (R351). -/
def invalRange (va n : Nat) : Nat × Nat :=
  let va := va % 2 ^ 57 / 65536 * 65536
  (va, if n = 0 then 0 else min n ((2 ^ 57 - va) / 65536))

/-- An invalidation takes its place in the context's queue; the answer is its number when a PGINV waits for it. -/
def queueInval (s : State) (c va n : Nat) (pginv : Bool) : State × Nat :=
  let x := ctx s c
  let (va, n) := invalRange va n
  let id := x.nextInval
  (setCtx s c { x with invals := x.invals ++ [{ va := va, n := n, pginv := if pginv then some id else none, started := false }], nextInval := id + 1 }, id)

def execPginv (f : GFields) (s : State) : Host.Outcome State Fault Refusal :=
  .next (fireOldest s f true true fun g th slot x _ a b =>
    let va := (lane a 0).toNat
    let n := if f.i then f.imm.toNat else (lane b 0).toNat
    let s := markFired s g th 0 slot
    if decide (2 ^ 57 ≤ va) || decide (2 ^ 32 ≤ n) then result s g th slot f (lane0 1)
    else
      let (s, id) := queueInval s x.ctx va n true
      modBlock s g th 0 fun k => { k with perf := true, waits := k.waits ++ [(slot, .pginv id)] })

/-- What PGPROBE shows of a walk. -/
def probe (s : State) (g c va : Nat) : Nat :=
  match walk s c va with
  | .error e => e * 2 ^ 8
  | .ok (e, size) =>
    let cause := match (placeOf s c va (some g) .read e size).2 with
      | .ok _ => 0
      | .error e => if e = causeSyncKind ∨ e = causeWait then 0 else e
    1 + boolBit (e.getLsbD 2) * 2 + boolBit (e.getLsbD 3) * 4 + entryKind e * 8 + (if size = 16 then 0 else if size = 21 then 1 else 2) * 64 + cause * 256

def execPgprobe (f : GFields) (s : State) : Host.Outcome State Fault Refusal :=
  .next (fireOldest s f true false fun g th slot x _ a _ =>
    result (markFired s g th 0 slot) g th slot f (lane0 (BitVec.ofNat 64 (probe s g x.ctx (lane a 0).toNat))))

end Sys2Proof.Machine
end

