-- ==== Sys2Proof/Machine/Blocks.lean ====
section
/-! DEFINITION. A block from fetch to commit (R169-R181), the report of its fault and the thread's handler (R357-R365), the issue and retirement of engine instructions
(R129, R195-R198, R255), and stalls (R198, R237). -/

namespace Sys2Proof.Machine

/-! ## Fetch and map (R169, R170, R12, R92) -/

/-- The key of the block that a PC names in a resident kernel of a context. -/
def findBlock (s : State) (c pc : Nat) : Option Nat :=
  s.kernels.findSome? fun k =>
    if k.ctx = c ∧ k.st ≠ .loading ∧ k.imgaddr ≤ pc then
      let key := copyKey s k
      if (imgDirs s key).any fun d => dirKind d == 0 && decide (k.imgaddr + dirOff d = pc) then some (key + (pc - k.imgaddr)) else none
    else none

/-- The quads of a logical cluster that a resident graph holds (R12). -/
def quadHeld (x : Group) (l quad : Nat) : Bool :=
  x.image.graphs.any fun (_, gr) => gr.tiles.any fun (t, y) => y.ce.isSome && decide (logicalCluster t = l) && decide (t % 16 / 4 = quad)

/-- The block frame that a block of the cluster of rank l is mapped into: the lowest of those that are free (R169 asks for a free one). (Model: DESIGN CHOICE, unsafe: notes/assumptions 146) -/
def freeFrame (x : Group) (l : Nat) : Option (Nat × Nat) :=
  let used (q h : Nat) : Bool := x.image.threads.any fun (th, t) => decide (th / 4 = l) && t.blocks.any fun k => decide (k.quad = q ∧ k.half = h)
  ((List.range 8).map fun i => (i / 2, i % 2)).find? fun p => !quadHeld x l p.1 && !used p.1 p.2

/-- A block as it is mapped: entries empty, or, when the check of R92 finds a breach, turned away with ILLOP. -/
def mappedBlock (x : Group) (addr : Nat) (r : RawBlock) (frame : Nat × Nat) : Block :=
  let k := freshBlock addr r.words
  match lowestCause (blockCauses r.header r.words r.pad) with
  | some c =>
    { k with words := [], icnt := hdrIcnt r.header, quad := frame.1, half := frame.2, fault := some { slot := none, code := 1, cause := c, wr := false, addr := addr } }
  | none =>
    { k with rdmask := hdrRdmask r.header, wrmask := hdrWrmask r.header, stmask := hdrStmask r.header, calls := r.header.getLsbD 7, rets := r.header.getLsbD 8
             self := r.header.getLsbD 9, quad := frame.1, half := frame.2, next := addr + r.size, enables := x.fpctl.extractLsb' 8 5 }

/-- TRAP_STATE (R361, R365): a block that is the oldest and may not run in the thread's mode. -/
def stateCheck (s : State) (g th : Nat) : State :=
  match thread? s g th with
  | none => s
  | some t =>
    match t.blocks with
    | [] => s
    | k :: _ =>
      if (t.trapMode && (k.calls || k.rets)) || (!t.trapMode && k.words.any fun w => opOfWord w == 0x1C3) then blockFault s g th 0 none 0x13 0 false k.addr else s

/-- A fault is reported (R176, R360): the blocks are discarded, one BLK ABORT record is written, and the thread enters its handler or the group ends. -/
def reportFault (s : State) (g th : Nat) (x : Group) (f : FaultInfo) (perf : Bool) (base quad retry : Nat) : State :=
  let s := discardBlocks (wake s g) g th
  let s := record s (clusterOfThread x th) 1 2 (128 + 4 * quad) x.ctx (base % 2 ^ 57 / 32 * 32 + th % 4 + f.code % 128 * 2 ^ 57)
  match trapEntry s g th f perf retry with
  | (s, none) => s
  | (s, some (code, cause)) => faultGroup s g code cause

/-- Whether a branch word has HINT set (R70). -/
def hinted (w : Word) : Bool := isBranchOp (opOfWord w) && w.getLsbD 51

/-- The exit of a block of which the predictor holds no history: the one whose branch has HINT set, or exit 0 (R70, R170). -/
def hintExit (k : Block) : Nat := ((k.words.find? hinted).map fun w => fieldOf w 48 3).getD 0

/-- Whether the predictor may choose an exit of a block. -/
def mayPredict (t : Thread) (k : Block) (exit : Nat) : Bool := has t.history k.addr || decide (exit = hintExit k)

/-- The word of a block's exit. -/
def exitWord (k : Block) (exit : Nat) : Option Word := k.words.find? fun w => isBranchOp (opOfWord w) && decide (fieldOf w 48 3 = exit)

/-- The return stack of the predictor, of eight entries, once it has followed an exit of a block (R170). -/
def followExit (l : List Nat) (k : Block) (exit : Nat) : List Nat :=
  match (exitWord k exit).map opOfWord with
  | some op => if op = 0x0C2 ∨ op = 0x0C3 then (nextBlock k.addr k.icnt :: l).take 8 else if op = 0x0C4 then l.drop 1 else l
  | none => l

/-- The address that the predictor gives a block's exit (R170): the encoded target; where the block has produced its branch, the target that this has; a return's address from the return stack; another indirect
target from a table. -/
def exitTarget (k : Block) (exit n : Nat) (returns : List Nat) : Option Nat :=
  match exitWord k exit with
  | none => none
  | some w =>
    let op := opOfWord w
    if op = 0x0C5 then none
    else if op = 0x0C0 ∨ op = 0x0C2 then some (branchTarget k.addr (w.extractLsb' 0 48))
    else match k.branch with
      | some (_, t) => some t
      | none => if op = 0x0C4 then returns.head? else some (Config.predicted n % 2 ^ 57)

/-- BLOCK_MAP: the next block of a thread is fetched, checked and mapped; `exit` is the exit predicted for the youngest block in flight. (Model: DEDUCED, safe: notes/assumptions 118) -/
def execBlockMap (g th : Nat) (exit : BitVec 3) (s : State) : Host.Outcome State Fault Refusal :=
  .next (match grp? s g, thread? s g th with
    | some x, some t =>
      if !threadLive s g th || t.run != .running then s
      else
        let pc := match t.blocks.getLast? with
          | none => some t.pc
          | some k => if mayPredict t k exit.toNat then exitTarget k exit.toNat s.fresh t.returns else none
        let returns := match t.blocks.getLast? with
          | none => t.returns
          | some k => followExit t.returns k exit.toNat
        match pc with
        | none => s
        | some pc =>
          match findBlock s x.ctx pc with
          | none =>
            if !t.blocks.isEmpty then s
            else if t.from_ = 0 then faultGroup s g 4 0
            else reportFault s g th x { slot := none, code := 4, cause := 0, wr := false, addr := t.from_ } false t.from_ 0 t.from_
          | some key =>
            match freeFrame x (th / 4) with
            | none => s
            | some frame =>
              let r := readBlock s key
              if poisoned s key r.size then raiseFatal s 0x40 (some (clusterOfThread x th)) 0
              else
                let s := eccFixAt s key r.size
                let s := modThread { s with fresh := s.fresh + 1 } g th fun t => { t with blocks := t.blocks ++ [mappedBlock x pc r frame], returns := returns }
                if t.blocks.isEmpty then stateCheck s g th else s
    | _, _ => s)

/-! ## Completeness (R174) -/

/-- Whether a block has produced every store, every window write and its branch. -/
def blockComplete (k : Block) : Bool :=
  k.branch.isSome && (List.range 32).all fun i =>
    (!k.stmask.getLsbD i || has k.stDone i || has k.stDischarged i) && (!k.wrmask.getLsbD i || has k.wrDone i || has k.wrDischarged i)

/-- Whether a slot of a block can still fire: its entries are there, its test passes, and its place in wave order has come (R123). -/
def slotCanFire (k : Block) (i : Nat) : Bool :=
  match k.words[i]? with
  | none => false
  | some w =>
    !has k.fired i && (!isMemOp (opOfWord w) || waveReady k w)
      && (match takeEntries k i (predOf (fieldOf w 52 2)) (has ((wordUses w).map opndCode) (opndCode .a)) (has ((wordUses w).map opndCode) (opndCode .b))
            (has ((wordUses w).map opndCode) (opndCode .c)) with
          | .go _ _ _ | .nulled => true
          | _ => false)

/-- BLOCK_INCOMPLETE: the oldest block is not complete, and nothing in it can fire or is outstanding. -/
def execBlockIncomplete (g th : Nat) (s : State) : Host.Outcome State Fault Refusal :=
  .next (match block? s g th 0 with
    | none => s
    | some k =>
      if threadLive s g th && k.fault.isNone && !blockComplete k && k.waits.isEmpty && !((List.range k.words.length).any (slotCanFire k)) then
        blockFault s g th 0 none 3 0 false k.addr
      else s)

/-! ## The window at commit (R177, R180) -/

/-- Store a half-window at dp offset o; what lies beyond the allocation is lost (R104). -/
def spillHalf (s : State) (g cl o : Nat) (l : List Value) : State :=
  l.zipIdx.foldl (fun s (v, j) =>
    match grp? s g with
    | none => s
    | some x =>
      match padKey x .dp cl 128 (o + 128 * j) with
      | some k => wrBytes (eccTouch s k 128 true) k (bytesOf 128 v.toNat)
      | none => spoob s g cl .dp (padOffset (spaceSize x .dp) 128 (o + 128 * j))) s

/-- Read a half-window back; what lies beyond the allocation fills as zero (R104, R180). -/
def fillHalf (s : State) (x : Group) (g cl o : Nat) : State × List Value :=
  (List.range 16).foldl (fun (s, l) j =>
    match padKey x .dp cl 128 (o + 128 * j) with
    | some k => (eccTouch s k 128 false, l ++ [BitVec.ofNat 1024 (rdNum s k 128)])
    | none => (spoob s g cl .dp (padOffset (spaceSize x .dp) 128 (o + 128 * j)), l ++ [0])) (s, [])

/-- The rotation that a branch asks for (R180). -/
def rotate (s : State) (g th : Nat) (x : Group) (k : Block) : State :=
  let cl := clusterOfThread x th
  match thread? s g th, k.branch with
  | some t, some (.call, _) =>
    let s := if t.callers.length = 7 then spillHalf s g cl (t.winbase.toNat + t.wintop.toNat) ((t.callers.getLast?).getD []) else s
    modThread s g th fun t =>
      { t with window := t.window.drop 16 ++ calleeHalf (nextBlock k.addr k.icnt)
               callers := t.window.take 16 :: t.callers.take 6
               wintop := if t.callers.length = 7 then t.wintop + 2048 else t.wintop }
  | some t, some (.ret, _) =>
    match t.callers with
    | h :: r => modThread s g th fun t => { t with window := h ++ t.window.take 16, callers := r }
    | [] =>
      let (s, half) := fillHalf s x g cl (t.winbase.toNat + (t.wintop - 2048).toNat)
      modThread s g th fun t => { t with window := half ++ t.window.take 16, wintop := t.wintop - 2048 }
  | _, _ => s

/-- The slot whose branch a block has produced. -/
def branchSlot (k : Block) : Option Nat :=
  (List.range k.words.length).find? fun i =>
    match k.words[i]? with
    | some w => isBranchOp (opOfWord w) && has k.fired i && (match takeEntries k i (predOf (fieldOf w 52 2)) (has [0x0C1, 0x0C3, 0x0C4] (opOfWord w)) false false with
        | .go _ _ _ => true
        | _ => false)
    | none => false

/-- WINDOW_OVERFLOW or WINDOW_UNDERFLOW of a block that would commit (R180, R181). -/
def windowFault (t : Thread) (k : Block) : Option Nat :=
  match k.branch with
  | some (.call, _) => if t.callers.length = 7 ∧ t.wintop = t.winsize then some 5 else none
  | some (.ret, _) => if t.callers.isEmpty ∧ t.wintop = 0 then some 6 else none
  | _ => none

/-! ## Commit (R175) -/

/-- Insert by rising keys, after equal ones. -/
def insertBy {α : Type} (f : α → Nat) (x : α) : List α → List α
  | [] => [x]
  | y :: r => if f x < f y then x :: y :: r else y :: insertBy f x r
/-- A list by rising keys. -/
def sortBy {α : Type} (f : α → Nat) (l : List α) : List α := l.foldl (fun a x => insertBy f x a) []

/-- Whether a slot has fired with its test passed and no void (R172, R173). -/
def slotRan (k : Block) (i : Nat) : Bool :=
  match k.words[i]? with
  | none => false
  | some w =>
    has k.fired i && (match takeEntries k i (predOf (fieldOf w 52 2)) (has ((wordUses w).map opndCode) (opndCode .a)) (has ((wordUses w).map opndCode) (opndCode .b))
        (has ((wordUses w).map opndCode) (opndCode .c)) with
      | .go _ _ _ => true
      | _ => false)

/-- The release FENCEs of a block by SEQ, with their scopes. -/
def relFences (k : Block) : List (Nat × Scope) :=
  k.words.zipIdx.filterMap fun (w, i) => if isRelFence w && slotRan k i then some (seqOf w, scopeOf (fieldOf w 0 3)) else none

/-- Whether a store to a scratchpad has to wait behind earlier stores of its thread (R119, R125): a release of a scope beyond the cluster until they have performed there, and any behind a queued one to its locations. -/
def padWaits (s : State) (g th cl : Nat) (p : PStore) : Bool :=
  (p.rel && !storesPerformed s (g, th) p.scope)
    || (cluster s cl).writeq.any fun e => e.pad && p.bytes.any fun b => e.bytes.any fun r => decide (b.1 / 8 = r.1 / 8)

/-- One store of a committing block issues (R120): scratchpad bytes are written, unless they wait; gm bytes enter the cluster's write queue. -/
def issueStore (s : State) (g th cl : Nat) (p : PStore) : State :=
  if p.pages.isEmpty && !padWaits s g th cl p then putBytes (eccStore s p.bytes) p.bytes
  else modCluster s cl fun c =>
    { c with writeq := c.writeq ++ [{ bytes := p.bytes, party := (g, th), rel := p.rel, acq := p.acq, pad := p.pages.isEmpty, sent := false, scope := p.scope, note := none }] }

/-- The stores of a block issue in wave order; a release FENCE of the block orders those before it ahead of the accesses of younger blocks (R123, R126, R194). -/
def issueStores (s : State) (g th cl : Nat) (k : Block) : State :=
  let mark (sc : Scope) : PStore := { pages := [0], seq := 0, bytes := [], rel := true, acq := false, scope := sc }
  let rank (q : Nat) : Nat := waveRank k 33 q
  let fences := (relFences k).filter fun f => k.stores.any fun p => decide (rank p.seq < rank f.1)
  let items := sortBy (fun p => p.1) (k.stores.map (fun p => (64 * rank p.seq + p.seq, p)) ++ fences.map fun f => (64 * rank f.1 + f.1, mark f.2))
  items.foldl (fun s p => issueStore s g th cl p.2) s

/-- The queue of an engine instruction (R73, R197). -/
def queueOfWord (w : Word) : Qu :=
  match readWord w with
  | some (.enop _ q) => q
  | _ => match (rowOf (opOfWord w)).map (·.q) with | some q => q | none => .ct

/-- Whether every queue has room for the engine instructions of a block (R195). -/
def enginesFit (t : Thread) (k : Block) : Bool :=
  [Qu.ct, .tm, .mx, .cl].all fun q => decide ((engQueue t q).length + (k.engines.filter fun e => queueOfWord e.word == q).length ≤ 32)

/-- An engine instruction enters its queue; an MGO with LAST closes its region (R247). -/
def enqueue (s : State) (g th : Nat) (e : EngEntry) : State :=
  let q := queueOfWord e.word
  let s := modThread s g th fun t => setQu t q (engQueue t q ++ [e])
  match readWord e.word with
  | some (.mgo _ _ true) =>
    let o := (lane e.a 0).toNat
    match (grp? s g).bind fun x => regionOf x e with
    | some (gi, gr, _) => modGraph s g gi fun gr' => { gr' with regions := Tab.set gr'.regions o { regionState gr o with lastQueued := true } }
    | none => s
  | _ => s

/-- Units of the pre-emption pool in use: those of SAVED groups, those set aside for groups that are being cut (R316), and those of checkpoints (R367). -/
def poolUsed (s : State) : Nat := (s.groups.map fun (_, x) => x.poolUnits + x.ckptUnits).foldl (· + ·) 0

/-- Units that SAVED groups hold: what PRUSED shows (R314). (Model: DEDUCED, unsafe: notes/assumptions 78) -/
def savedUnits (s : State) : Nat := (s.groups.map fun (_, x) => if x.state == .saved then x.poolUnits + x.ckptUnits else 0).foldl (· + ·) 0

/-- MCUT at commit (R367): a checkpoint cut is asked for, joins the cut that runs, or is skipped with a record. (Model: DEDUCED, unsafe: notes/assumptions 112) -/
def askCheckpoint (s : State) (g : Nat) : State :=
  match grp? s g with
  | none => s
  | some x =>
    if x.cutWhy.isSome then s
    else
      let need := if x.ckptUnits = 0 then 16 * x.ncl else 0
      if x.gang.isSome || decide (s.prsize.toNat < poolUsed s + need) then schRecord s g 0x0E (g % 2 ^ 16)
      else modGrp s g fun x => { x with cutWhy := some .check, ckptUnits := 16 * x.ncl }

/-- One action of step 4 of a commit. -/
def commitAct (g th : Nat) (x : Group) (k : Block) (s : State) (p : Nat × CommitAct) : State :=
  match p.2 with
  | .barv b gen => modThread s g th fun t => { t with arrivals := t.arrivals ++ [(b, gen, false)] }
  | .baraw b gen => modThread s g th fun t => { t with arrivals := t.arrivals ++ [(b, gen, true)] }
  | .bari b gen n => if barFor s b x.ctx && decide ((barrier s b).gen = gen) then bariAt s b n else schRecord s g 0x0D (g % 2 ^ 16 + b % 4096 * 2 ^ 16)
  | .trap _ => s
  | .brk id => brkHit s g id (blockWork x k th p.1)
  | .mcut => askCheckpoint s g
  | .evt code v tile => record s (clusterOfThread x th) 8 code (tileInCluster tile) x.ctx v.toNat

/-- The cause of the TRAP that a block has fired, with its slot: the lowest one. (Model: DEDUCED, unsafe: notes/assumptions 109) -/
def trapOf (l : List (Nat × CommitAct)) : Option (Nat × Nat) := l.findSome? fun p => match p.2 with | .trap c => some (p.1, c) | _ => none

/-- A thread that has committed HALT is halted once its queues are empty (R178). -/
def haltSettle (s : State) (g th : Nat) : State :=
  modThread s g th fun t =>
    match t.run with
    | .halting _ => if t.ctq.isEmpty && t.tmq.isEmpty && t.mxq.isEmpty && t.clq.isEmpty then { t with run := .halted } else t
    | _ => t

/-- Step 5 (R175, R178, R361, R365): PC takes the branch's target, or TRET's; HALT ends the thread, or, in trap mode, the group. -/
def commitPc (s : State) (g th : Nat) (k : Block) : State :=
  match thread? s g th, k.tret, k.branch with
  | some _, some a, _ => trapReturn s g th a
  | some t, none, some (.halt, _) =>
    if t.trapMode then faultGroup s g (fieldOf t.fltcode 8 8) (fieldOf t.fltcode 0 8)
    else haltSettle (modThread s g th fun t => { t with run := .halting k.addr }) g th
  | some _, none, some (_, target) => modThread s g th fun t => { t with pc := target }
  | _, _, _ => s

/-- After a commit the younger blocks stand only if the first of them is the block at PC (R170). -/
def dropMispredicted (s : State) (g th : Nat) : State :=
  match thread? s g th with
  | none => s
  | some t =>
    match t.blocks with
    | [] => s
    | k :: _ => if t.run == .running && decide (k.addr = t.pc) then s else discardBlocks s g th

/-- The commit of a block (R175), in its order. (Model: DESIGN CHOICE, unsafe: notes/assumptions 7) -/
def commitBlock (s : State) (g th : Nat) (x : Group) (k : Block) : State :=
  let cl := clusterOfThread x th
  let acts := sortBy (fun p => p.1) k.actions
  let s := modThread (wake s g) g th fun t =>
    let put (w : List Value) : List Value := k.wrVals.foldl (fun w p => modAt w p.1 fun _ => p.2) w
    { t with window := if t.trapMode then t.window else put t.window, trapWindow := if t.trapMode then put t.trapWindow else t.trapWindow }
  let s := rotate s g th x k
  let s := (sortBy (fun p => p.1) k.setsrs).foldl (fun s p => srWrite s g th p.2.1 p.2.2) s
  let s := k.spoobs.foldl (fun s p => spoobAt s g cl p) (setFlags s g k.flags)
  let s := issueStores s g th cl k
  let s := record s cl 1 1 (128 + 4 * k.quad) x.ctx (k.addr % 2 ^ 57 / 32 * 32 + th % 4)
  let s := modThread s g th fun t => { t with blocks := t.blocks.drop 1, lastProgress := s.cycle, from_ := k.addr, history := if has t.history k.addr then t.history else k.addr :: t.history }
  let s := (sortBy (fun e => e.slot) k.engines).foldl (fun s e => enqueue s g th e) s
  let s := acts.foldl (commitAct g th x k) s
  let s := match trapOf acts, thread? s g th with
    | some (slot, cause), some t =>
      let target := if (match k.branch with | some (.halt, _) => true | _ => false) then t.pc else ((k.branch.map (·.2)).getD t.pc)
      let s := discardBlocks s g th
      match trapEntry s g th { slot := some slot, code := 0x12, cause := cause, wr := false, addr := k.addr } k.perf target with
      | (s, none) => s
      | (s, some (code, cause)) => faultGroup s g code cause
    | _, _ => commitPc s g th k
  afterStores (stateCheck (dropMispredicted s g th) g th)

/-- The address at which a thread goes on once a block has committed, if that is the block's to say (R175, R365); after TRAP the handler is next. -/
def nextPc (k : Block) : Option Nat :=
  if (trapOf k.actions).isSome then none
  else match k.tret, k.branch with
    | some a, _ => some (a % 2 ^ 57 / 32 * 32)
    | none, some (.halt, _) => none
    | none, b => b.map (·.2)

/-- BLOCK_FETCH of a block that would commit: the address that its branch leads to names no block (R169). (Model: DEDUCED, unsafe: notes/assumptions 108) -/
def badNext (s : State) (x : Group) (k : Block) : Bool := (nextPc k).any fun pc => (findBlock s x.ctx pc).isNone

/-- Whether a BARI of a block waits: its barrier completes a phase (R332). -/
def bariWaits (s : State) (k : Block) : Bool := k.actions.any fun p => match p.2 with | .bari b _ _ => (barrier s b).due | _ => false

/-- BLOCK_COMMIT: the oldest block commits when it is complete, nothing in it can still fire, what it reads has come, its rotation can complete and its queues have room. (Model: DEDUCED, unsafe: notes/assumptions 110) -/
def execBlockCommit (g th : Nat) (s : State) : Host.Outcome State Fault Refusal :=
  .next (match grp? s g, thread? s g th, block? s g th 0 with
    | some x, some t, some k =>
      if !threadLive s g th || k.fault.isSome || !blockComplete k || !k.waits.isEmpty || (List.range k.words.length).any (slotCanFire k)
          || !t.barWait.isEmpty || t.arrivals.any (·.2.2) || !enginesFit t k || bariWaits s k then s
      else match windowFault t k with
        | some code => blockFault s g th 0 (branchSlot k) code 0 false k.addr
        | none => if badNext s x k then blockFault s g th 0 (branchSlot k) 4 0 false k.addr else commitBlock s g th x k
    | _, _, _ => s)

/-- FAULT_REPORT (R176, R359): the fault of the oldest block is reported, once no lower slot of it can still fault. (Model: DEDUCED, safe: notes/assumptions 111) -/
def execFaultReport (g th : Nat) (s : State) : Host.Outcome State Fault Refusal :=
  .next (match grp? s g, block? s g th 0 with
    | some x, some k =>
      match k.fault with
      | none => s
      | some f =>
        let n := f.slot.getD 0
        if !threadLive s g th || (List.range n).any (slotCanFire k) || k.waits.any (fun w => decide (w.1 < n)) then s
        else reportFault s g th x f k.perf k.addr k.quad k.addr
    | _, _ => s)

/-! ## Engine queues (R195, R196, R129, R255) -/

/-- The region that an instruction of MX named when it fired, while its graph is resident. -/
def regionNamed (x : Group) (e : EngEntry) : Option Nat :=
  if has [0x148, 0x149, 0x14A, 0x14B] (opOfWord e.word) then (mcNamed x e).bind fun p => regionOrigin p.2.1 p.2.2 else none

/-- Whether an earlier instruction of MX holds a later one back until it has retired (R255): one of the two reads or writes accumulators, and both name one region. -/
def mxHolds (x : Group) (d e : EngEntry) : Bool :=
  let mgo (w : Word) : Bool := opOfWord w == 0x148
  !(mgo d.word && mgo e.word) && (match regionNamed x d, regionNamed x e with
    | some r, some r' => decide (r = r')
    | _, _ => false)

def popOfWord (w : Word) : Option Qu := popOf (fieldOf w 25 3)
def pushOfWord (w : Word) : Option Qu := popOf (fieldOf w 22 3)
def fifoCount (t : Thread) (src dst : Qu) : Nat := Tab.get t.fifos (4 * Qu.code src + Qu.code dst) 0
def setFifo (t : Thread) (src dst : Qu) (n : Nat) : Thread := { t with fifos := Tab.set t.fifos (4 * Qu.code src + Qu.code dst) n }

/-- ENGINE_ISSUE: the next instruction of a queue issues, its pop taken. In CT the pop was the block's. -/
def execEngineIssue (g th : Nat) (q : Qu) (s : State) : Host.Outcome State Fault Refusal :=
  .next (match grp? s g, thread? s g th with
    | some x, some t =>
      let l := engQueue t q
      match l.findIdx? fun e => !e.issued with
      | none => s
      | some i =>
        match l[i]? with
        | none => s
        | some e =>
          let ahead := l.take i
          if !threadLive s g th || (Tab.get? t.stops (Qu.code q)).isSome || ahead.any (fun d => !d.done || (q == .mx && mxHolds x d e)) then s
          else
            let go (t : Thread) : Thread := setQu { t with lastProgress := s.cycle } q (modAt (engQueue t q) i fun e => { e with issued := true, popped := true })
            match q, popOfWord e.word with
            | .ct, _ | _, none => modThread s g th go
            | _, some p => if fifoCount t p q = 0 then s else modThread s g th fun t => go (setFifo t p q (fifoCount t p q - 1))
    | _, _ => s)

/-- Whether every access of an instruction that has done its work has performed (R129, R250); a region whose graph has been unloaded has completed its passes. -/
def engPerformed (s : State) (g th : Nat) (q : Qu) (x : Group) (e : EngEntry) : Bool :=
  match q with
  | .ct => storesPerformed s (g, th) .package
  | .mx =>
    if opOfWord e.word = 0x148 then
      match regionOf x e with
      | some (_, gr, m) => (regionMcs gr m).all fun c => decide (e.mark < c.completed)
      | none => true
    else storesPerformed s (engParty g th q) .system
  | _ => storesPerformed s (engParty g th q) .system

/-- ENGINE_RETIRE: the oldest instruction of a queue retires and pushes; a full FIFO holds it. An issued instruction runs to retirement while a cut runs (R317). -/
def execEngineRetire (g th : Nat) (q : Qu) (s : State) : Host.Outcome State Fault Refusal :=
  .next (match grp? s g, thread? s g th with
    | some x, some t =>
      match engQueue t q with
      | [] => s
      | e :: r =>
        if !engLive s g th || !e.done || !engPerformed s g th q x e then s
        else
          let out (t : Thread) : Thread := setQu { t with lastProgress := s.cycle } q r
          match pushOfWord e.word with
          | none => haltSettle (modThread s g th out) g th
          | some p => if 16 ≤ fifoCount t q p then s else haltSettle (modThread s g th fun t => out (setFifo t q p (fifoCount t q p + 1))) g th
    | _, _ => s)

/-! ## Stalls (R198, R237) -/

/-- Whether an instruction of a thread waits on a pop. -/
def popWaits (t : Thread) : Bool :=
  ([Qu.tm, .mx, .cl].any fun q =>
      match (engQueue t q).find? fun e => !e.issued with
      | some e => (match popOfWord e.word with | some p => decide (fifoCount t p q = 0) | none => false)
      | none => false)
    || (match t.blocks with
        | k :: _ => k.words.zipIdx.any fun (w, i) => isCtPop w && slotCanFire k i && (match popOfWord w with | some p => decide (fifoCount t p .ct = 0) | none => false)
        | [] => false)

/-- ENGINE_STALL (R198, R372): the handler, with RETRY PC; after HALT, the end of the group. -/
def execEngineStall (g th : Nat) (s : State) : Host.Outcome State Fault Refusal :=
  .next (match grp? s g, thread? s g th with
    | some x, some t =>
      let slotFault := match t.blocks with | k :: _ => k.fault.any (·.slot.isSome) | [] => false
      if !threadLive s g th || !popWaits t || decide (s.cycle < t.lastProgress + x.stallcyc) || slotFault then s
      else match t.run with
        | .halted => s
        | .halting a =>
          let f : FaultInfo := { slot := none, code := 0x11, cause := 0, wr := false, addr := a }
          faultGroup (modThread s g th fun t => { t with fltcode := fltcodeOf f false, fltaddr := BitVec.ofNat 64 a }) g 0x11 0
        | .running =>
          let perf := match t.blocks with | k :: _ => k.perf | [] => false
          let quad := match t.blocks with | k :: _ => k.quad | [] => 0
          reportFault (modThread s g th fun t => { t with lastProgress := s.cycle }) g th x { slot := none, code := 0x11, cause := 0, wr := false, addr := t.pc } perf t.pc quad t.pc
    | _, _ => s)

/-- GRAPH_STALL (R237, R372): the elements stop where they stand, and the group ends with FAULT. -/
def execGraphStall (g gi : Nat) (s : State) : Host.Outcome State Fault Refusal :=
  .next (match grp? s g, graph? s g gi with
    | some x, some gr =>
      if !graphStalled s g gi x gr || !elemLive s g gi (((gr.tiles.head?).map (·.1)).getD 0) then s
      else
        let s := modGraph s g gi fun gr => { gr with stalled := true }
        faultGroup (recordAll s 3 0x0B x.ctx (g % 2 ^ 16 + lowestWork s g gi gr * 2 ^ 24) (graphClusters x gr)) g 0x30 0
    | _, _ => s)

end Sys2Proof.Machine
end

