-- ==== Sys2Proof/Machine/Collect.lean ====
section
/-! DEFINITION. Collectives (R399-R402, R415, R416): the check at firing, the meeting of the ranks, what the ranks compute, and the report. -/

namespace Sys2Proof.Machine

/-! ## Firing (R399) -/

/-- TMOV_DESC of a collective. -/
def collCheck (bcast : Bool) (t : Ty) (a b c : Value) : Option (Nat × Nat) :=
  let w := Ty.width t / 8
  let av := (lane a 0).toNat
  let bv := (lane b 0).toNat
  let cv := (lane c 0).toNat
  let n := (lane c 1).toNat
  let rv := (lane c 2).toNat
  let bad := decide (n < 1) || decide (2 ^ 24 < n) || decide (cv % 8 ≠ 0) || decide (rv % 8 ≠ 0) || decide (av % w ≠ 0) || decide (bv % w ≠ 0)
    || [av, bv, cv, rv].any (fun x => decide (2 ^ 57 ≤ x)) || (bcast && decide (64 ≤ (lane c 3).toNat))
  if bad then some (0x0B, av) else none

/-! ## The meeting (R400) -/

def freshMeeting (job commid num : Nat) : Meeting :=
  { job := job, commid := commid, num := num, own := none, rank := 0, heads := [], src := [], reqs := [], asids := [], plan := none, failed := 0 }

/-- Change a meeting, which begins with the first of its ranks that is heard of. -/
def modMeeting (s : State) (job commid num : Nat) (f : Meeting → Meeting) : State :=
  if s.meetings.any fun m => sameMeeting m job commid num then
    { s with meetings := s.meetings.map fun m => if sameMeeting m job commid num then f m else m }
  else { s with meetings := s.meetings ++ [f (freshMeeting job commid num)] }

/-- The meeting of the collective that a thread's link engine runs. -/
def ownMeeting (s : State) (g th : Nat) : Option Meeting := s.meetings.find? fun m => decide (m.own = some (g, th))

def setMeeting (s : State) (m : Meeting) : State := modMeeting s m.job m.commid m.num fun _ => m

/-- The parameters that the ranks compare. -/
def headOf (op sub nrank count root : Nat) (t : Ty) (ms : List Word) : List Nat :=
  [op + Ty.code t * 2 ^ 16 + sub * 2 ^ 24 + nrank * 2 ^ 32, count, root] ++ ms.map (·.toNat)

def headRank (h : List Nat) : Nat := h.headD 0 / 2 ^ 32
def headMember (h : List Nat) (k : Nat) : Nat := (h[3 + k]?).getD 0

/-- The first failure that a meeting shows (R400, R402): ranks that disagree, or a rank whose HASID is not this context's ASID. -/
def meetingVerdict (s : State) (c : Nat) (m : Meeting) : Nat :=
  if m.failed ≠ 0 then m.failed
  else match m.heads with
    | [] => 0
    | (_, h) :: r => if r.any (fun p => decide (p.2 ≠ h)) then 1 else if m.asids.any (fun a => decide (a ≠ (ctx s c).asid.toNat)) then 3 else 0

/-- A step leaves for rank k: its kind (0 parameters, 1 data, 2 failure, 3 plan request, 4 plan), an index, and words. -/
def sendStep (s : State) (c : Nat) (m : Meeting) (h : List Nat) (k kind idx : Nat) (data : List Byte) : Option State :=
  let w := headMember h k
  let pkg := w % 4096
  match (linksFor s pkg).head? with
  | none => none
  | some n =>
    let p : Packet :=
      { src := s.pkgid, dst := BitVec.ofNat 12 pkg, hasid := BitVec.ofNat 16 (w / 2 ^ 16), tag := nextTag s, va := BitVec.ofNat 57 m.commid, jobid := jobOf s c, flag := 0
        data := bytesOf 8 (m.num % 2 ^ 32 + m.rank * 2 ^ 32 + kind * 2 ^ 40) ++ bytesOf 8 idx ++ data }
    (txPacket s n 0 10 p).map fun s => { s with fresh := s.fresh + 1 }

/-- What a step packet says when it arrives: its sender's rank, kind, number, index and words. -/
def stepArrives (s : State) (p : Packet) : State :=
  let w0 := natOfBytes (p.data.take 8)
  let idx := natOfBytes ((p.data.drop 8).take 8)
  let rest := p.data.drop 16
  let num := w0 % 2 ^ 32
  let rank := w0 / 2 ^ 32 % 256
  let words := (List.range (rest.length / 8)).map fun i => natOfBytes ((rest.drop (8 * i)).take 8)
  modMeeting s p.jobid.toNat p.va.toNat num fun m =>
    match w0 / 2 ^ 40 % 256 with
    | 0 => { m with heads := Tab.set m.heads rank words, asids := p.hasid.toNat :: m.asids }
    | 1 => { m with src := Tab.set m.src rank (Tab.get m.src rank [] ++ words) }
    | 2 => { m with failed := if m.failed = 0 then idx else m.failed }
    | 3 => { m with reqs := Tab.set m.reqs rank words }
    | _ => { m with plan := some idx }

/-! ## The plan (R415, R416) -/

/-- The switches that this package names: behind a link TRUSTED for the job whose entry carries REDUCE. (Model: DEDUCED, safe: notes/assumptions 55) -/
def namedSwitches (s : State) (c : Nat) : List Nat :=
  ((List.range 36).filter fun n => linkTrustedFor s n c && (link s n).peersw && (job s (link s n).jobSlot).reducers.getLsbD n && !(link s n).revoking).map fun n =>
    (link s n).peer.toNat

/-- The switches that every rank of the block [lo, lo + 2^m) has named. -/
def blockSwitches (reqs : Tab (List Nat)) (n lo m : Nat) : List Nat :=
  let real := (List.range (2 ^ m)).filterMap fun i => if lo + i < n then some (lo + i) else none
  match real with
  | [] => []
  | r :: rest => (Tab.get reqs r []).filter fun w => rest.all fun k => has (Tab.get reqs k []) w

/-- The switches of the largest blocks below the block [lo, lo + 2^m). -/
def planBlocks (reqs : Tab (List Nat)) (n : Nat) : Nat → Nat → List Nat
  | 0, _ => []
  | m + 1, lo =>
    match minOf? (blockSwitches reqs n lo (m + 1)) with
    | some w => [w]
    | none => planBlocks reqs n m lo ++ planBlocks reqs n m (lo + 2 ^ m)

/-- log2 of the number of ranks rounded up to a power of two. -/
def treeDepth (n : Nat) : Nat := if n ≤ 1 then 0 else Nat.log2 (n - 1) + 1

/-- NSW and PLACE of a reduction (R416); other collectives compute no node. -/
def planOf (reqs : Tab (List Nat)) (n : Nat) (reduces : Bool) : Nat :=
  let d := treeDepth n
  let sws := if reduces then (planBlocks reqs n d 0).eraseDups else []
  let whole := decide (0 < d) && !(blockSwitches reqs n 0 d).isEmpty
  sws.length + (if sws = [] then 0 else if whole then 1 else 2) * 2 ^ 8

/-! ## What the ranks compute (R401) -/

def redOfCred (op : CredOp) : RedOp :=
  match op with
  | .add => .add | .min => .min | .max => .max | .and => .and | .or => .or | .xor => .xor

/-- Which collective. -/
inductive CollKind where
  | red (op : CredOp) | gath | a2a | bcast
  deriving DecidableEq, Repr

def CollKind.op : CollKind → Nat
  | .red _ => 0x158 | .gath => 0x159 | .a2a => 0x15A | .bcast => 0x15B

/-- The source elements that a rank sends to rank k. -/
def collSlice (kd : CollKind) (count root me k : Nat) (own : List Nat) : List Nat :=
  match kd with
  | .red _ | .gath => own
  | .a2a => (own.drop (k * count)).take count
  | .bcast => if me = root then own else []

/-- The source elements that a rank holds. -/
def collSource (kd : CollKind) (n count root me : Nat) : Nat :=
  match kd with
  | .red _ | .gath => count
  | .a2a => n * count
  | .bcast => if me = root then count else 0

/-- The elements that come from rank k. -/
def collDue (kd : CollKind) (count root k : Nat) : Nat :=
  match kd with
  | .bcast => if k = root then count else 0
  | _ => count

/-- Destination elements. -/
def collResults (kd : CollKind) (n count : Nat) : Nat :=
  match kd with
  | .gath | .a2a => n * count
  | _ => count

/-- Destination element e of a rank, from what the ranks have sent it. -/
def collElem (kd : CollKind) (t : Ty) (n count root : Nat) (src : Nat → List Nat) (e : Nat) : Nat :=
  match kd with
  | .red op =>
    let l := (List.range (2 ^ treeDepth n)).map fun k => if k < n then ((src k)[e]?).getD 0 else redIdentity t (redOfCred op)
    (reduceTree false (redStep t .rne false (redOfCred op)) (treeDepth n) l 0).1
  | .gath | .a2a => ((src (e / count))[e % count]?).getD 0
  | .bcast => ((src root)[e]?).getD 0

/-! ## Running (R400-R402) -/

/-- Read n elements one after another. -/
def engElems (g th w a : Nat) : Nat → State → State × Except MvStop (List Nat)
  | 0, s => (s, .ok [])
  | n + 1, s =>
    match engElems g th w a n s with
    | (s, .error e) => (s, .error e)
    | (s, .ok l) =>
      match engRead s g th .cl .gm (mvAddr a (w * n)) w with
      | (s, .error e) => (s, .error e)
      | (s, .ok b) => (s, .ok (l ++ [natOfBytes b]))

/-- Elements of a data step. -/
def chunkElems : Nat := 120

/-- The position of a collective that has failed, and that of one that is done. -/
def collFailAt : Nat := 2 ^ 50
def collDoneAt : Nat := 2 ^ 60

/-- The first step (R400): the communicator and the source are read, once what the thread stored before has performed (R133). -/
def collSetup (kd : CollKind) (t : Ty) (s : State) (g th : Nat) (x : Group) (e : EngEntry) : State × Except MvStop Nat :=
  let cva := (lane e.c 0).toNat
  let count := (lane e.c 1).toNat
  if !storesPerformed s (g, th) .system || !storesPerformed s (engParty g th .cl) .system || gangHeld s g then (s, .error .wait)
  else match engWords g th .cl .gm cva 1 s with
    | (s, .error e) => (s, .error e)
    | (s, .ok ws) =>
      let w0 := ws.headD 0
      let n := fieldOf w0 0 16
      let me := fieldOf w0 16 16
      let cid := fieldOf w0 32 32
      match engWords g th .cl .gm (cva + 8) (min n 64) s with
      | (s, .error e) => (s, .error e)
      | (s, .ok ms) =>
        let root := match kd with | .bcast => (lane e.c 3).toNat | _ => 0
        let bad := decide (n < 1) || decide (64 < n) || decide (n ≤ me) || decide (fieldOf ((ms[me]?).getD 0xFFF) 0 12 ≠ s.pkgid.toNat) || decide (n ≤ root)
        match engElems g th (Ty.width t / 8) (lane e.a 0).toNat (if bad then 0 else collSource kd n count root me) s with
        | (s, .error e) => (s, .error e)
        | (s, .ok src) =>
          let num := Tab.get s.collCounts cid 0
          let sub := match kd with | .red op => CredOp.code op | _ => 0
          let h := headOf (CollKind.op kd) sub n count root t ms
          let s := engClear { s with collCounts := Tab.set s.collCounts cid (num + 1) } g th .cl
          (modMeeting s (jobOf s x.ctx).toNat cid num fun m =>
            { m with own := some (g, th), rank := me, heads := Tab.set m.heads me h, src := if bad then m.src else Tab.set m.src me src
                     reqs := Tab.set m.reqs me (namedSwitches s x.ctx), failed := if bad && m.failed = 0 then 1 else m.failed }, .ok 1)

/-- Data steps for one rank: the parameters, then the chunks. -/
def stepsFor (len : Nat) : Nat := 1 + (len + chunkElems - 1) / chunkElems

/-- The position of the step that follows all data steps to ranks below k. -/
def stepsBefore (kd : CollKind) (count root me : Nat) (own : List Nat) : Nat → Nat
  | 0 => 0
  | k + 1 => stepsBefore kd count root me own k + (if k = me then 0 else stepsFor (collSlice kd count root me k own).length)

/-- The report (R402). -/
def collReport (m : Meeting) (cause : Nat) : Nat :=
  let p := m.plan.getD 0
  m.num % 2 ^ 32 * 2 ^ 32 + cause * 2 ^ 16 + (if cause = 0 then p % 2 ^ 8 * 2 ^ 8 + p / 2 ^ 8 % 4 * 2 + 1 else 0)

/-- One step of a collective at position p. -/
def collStep (kd : CollKind) (t : Ty) (g th : Nat) (x : Group) (e : EngEntry) (s : State) (p : Nat) : State × Except MvStop Nat :=
  if p = 0 then collSetup kd t s g th x e
  else match ownMeeting s g th with
    | none => (s, .error .wait)
    | some m =>
      let h := Tab.get m.heads m.rank []
      let n := headRank h
      let me := m.rank
      let count := (lane e.c 1).toNat
      let root := match kd with | .bcast => (lane e.c 3).toNat | _ => 0
      let own := Tab.get m.src me []
      let fail (cause : Nat) : State × Except MvStop Nat := (setMeeting s { m with failed := cause }, .ok collFailAt)
      let sent (r : Option State) : State × Except MvStop Nat := match r with | some s => (s, .ok (p + 1)) | none => (s, .error .wait)
      if collFailAt ≤ p then
        let k := p - collFailAt
        if k < min n 64 then
          let pkg := headMember h k % 4096
          if k = me || (linksFor s pkg).isEmpty then (s, .ok (p + 1)) else sent (sendStep s x.ctx m h k 2 m.failed [])
        else match engWrite s g th .cl .gm (lane e.c 2).toNat (bytesOf 8 (collReport m m.failed)) with
          | (s, .ok ()) => ({ s with meetings := s.meetings.filter fun y => decide (y.own ≠ some (g, th)) }, .error (.fault 0x25 (lane e.a 0).toNat))
          | (s, .error e) => (s, .error e)
      else
        let v := meetingVerdict s x.ctx m
        let gone := (List.range n).any fun k => decide (k ≠ me) && (linksFor s (headMember h k % 4096)).isEmpty
        let total := stepsBefore kd count root me own n
        let q := p - 1
        let written := total + n + 2
        if v ≠ 0 then fail v
        else if gone && q < written then fail 2
        else if q < total then
          -- the parameters and the data for the other ranks
          match (List.range n).find? fun k => decide (stepsBefore kd count root me own k ≤ q) && decide (q < stepsBefore kd count root me own (k + 1)) with
          | none => (s, .ok (p + 1))
          | some k =>
            let i := q - stepsBefore kd count root me own k
            if i = 0 then sent (sendStep s x.ctx m h k 0 0 (h.flatMap (bytesOf 8)))
            else sent (sendStep s x.ctx m h k 1 (i - 1) ((((collSlice kd count root me k own).drop ((i - 1) * chunkElems)).take chunkElems).flatMap (bytesOf 8)))
        else if q = total then
          -- the plan request goes to rank 0, which fixes the plan when all have come
          if me ≠ 0 then sent (sendStep s x.ctx m h 0 3 0 ((Tab.get m.reqs me []).flatMap (bytesOf 8)))
          else if (List.range n).all fun k => (Tab.get? m.reqs k).isSome then
            (setMeeting s { m with plan := some (planOf m.reqs n (match kd with | .red _ => true | _ => false)) }, .ok (p + 1))
          else (s, .error .wait)
        else if q < total + 1 + n then
          let k := q - (total + 1)
          if me ≠ 0 || k = 0 then (s, .ok (p + 1)) else sent (sendStep s x.ctx m h k 4 (m.plan.getD 0) [])
        else if q = total + 1 + n then
          if m.plan.isSome && (List.range n).all fun k => (Tab.get? m.heads k).isSome && (decide (k = me) || decide (collDue kd count root k ≤ (Tab.get m.src k []).length)) then (s, .ok (p + 1))
          else (s, .error .wait)
        else
          let i := q - written
          let src (k : Nat) : List Nat := if k = me then collSlice kd count root me me own else Tab.get m.src k []
          let w := Ty.width t / 8
          if i < collResults kd n count then
            match engWrite s g th .cl .gm (mvAddr (lane e.b 0).toNat (w * i)) (bytesOf w (collElem kd t n count root src i)) with
            | (s, .ok ()) => (s, .ok (p + 1))
            | (s, .error e) => (s, .error e)
          else match engWrite s g th .cl .gm (lane e.c 2).toNat (bytesOf 8 (collReport m 0)) with
            | (s, .ok ()) => ({ s with meetings := s.meetings.filter fun y => decide (y.own ≠ some (g, th)) }, .ok collDoneAt)
            | (s, .error e) => (s, .error e)

/-- A collective in a block or in the link engine. -/
def collective (kd : CollKind) (f : EFields) (s : State) : State :=
  match s.site with
  | .block _ _ _ _ => fireEngine s f true true true fun _ _ a b c => collCheck (match kd with | .bcast => true | _ => false) f.ty a b c
  | _ => engAct s fun g th q x e => mvRun s g th q x e (2 ^ 40) (fun p => decide (collDoneAt ≤ p)) (collStep kd f.ty g th x e)

def execCred (f : EFields) (op : CredOp) (s : State) : Host.Outcome State Fault Refusal := .next (collective (.red op) f s)
def execCgath (f : EFields) (s : State) : Host.Outcome State Fault Refusal := .next (collective .gath f s)
def execCa2a (f : EFields) (s : State) : Host.Outcome State Fault Refusal := .next (collective .a2a f s)
def execCbcast (f : EFields) (s : State) : Host.Outcome State Fault Refusal := .next (collective .bcast f s)

end Sys2Proof.Machine
end

