-- ==== Sys2Proof/Machine/Sluice.lean ====
section
/-! DEFINITION. The Sluice's arithmetic: where a group fits (R302, R315), urgency (R312), victims (R316), and the areas that hold what a saved group's spaces held
(R275, R318, R319). -/

namespace Sys2Proof.Machine

/-! ## Placement (R302, R112, R315) -/

/-- Logical dies that a group of n clusters touches. -/
def logicalDies (n : Nat) : Nat := (n + 35) / 36

/-- The grid positions, as cy × 6 + cx, of a group's clusters on a logical die. -/
def dieShape (n d : Nat) : List Nat := (List.range 36).filter fun i => decide (d * 36 + i < n)

/-- Whether a logical die's clusters fit a physical die at an offset. -/
def shapeFits (avail : Nat → Bool) (l : List Nat) (p dy dx : Nat) : Bool :=
  l.all fun i => decide (i / 6 + dy < 6) && decide (i % 6 + dx < 6) && avail (p * 36 + (i / 6 + dy) * 6 + (i % 6 + dx))

/-- Whether a logical die fits a physical die at some offset. -/
def dieFits (avail : Nat → Bool) (l : List Nat) (p : Nat) : Bool := (List.range 36).any fun o => shapeFits avail l p (o / 6) (o % 6)

/-- Whether the first k logical dies of a group fit distinct physical dies. -/
def canPlace (avail : Nat → Bool) (dieOk : Nat → Bool) (n : Nat) : Nat → List Nat → Bool
  | 0, _ => true
  | k + 1, used => (List.range 8).any fun p => !has used p && dieOk p && dieFits avail (dieShape n k) p && canPlace avail dieOk n k (p :: used)

/-- Whether a place fits a group of n clusters: one distinct physical die for each logical die. -/
def placeFits (avail : Nat → Bool) (dieOk : Nat → Bool) (n : Nat) (place : List (Nat × Nat × Nat)) : Bool :=
  decide (place.length = logicalDies n) && decide ((place.map (·.1)).Nodup)
    && place.zipIdx.all fun (q, d) => decide (q.1 < 8) && dieOk q.1 && shapeFits avail (dieShape n d) q.1 q.2.1 q.2.2

/-- A cluster that can take a placement: present and not gated (R14, R463). -/
def usable (s : State) (c : Nat) : Bool := s.present.getLsbD c && !s.gated.getLsbD c

/-- Whether a launch could ever be placed on this part (R302). -/
def fitsPart (s : State) (n : Nat) : Bool := decide (1 ≤ n) && decide (n ≤ 288) && canPlace (fun c => s.present.getLsbD c) (fun _ => true) n (logicalDies n) []

/-- Clusters that groups hold. -/
def heldClusters (s : State) : List Nat := s.groups.flatMap fun (_, x) => if placed x then clustersOf x else []

/-- The dies that a group occupies. -/
def diesOf (x : Group) : List Nat := x.place.map fun p => p.2.1

/-- Whether two dp allocations overlap. -/
def dpOverlap (b n b' n' : Nat) : Bool := decide (0 < n) && decide (0 < n') && decide (b < b' + n') && decide (b' < b + n)

/-- Whether a group's dp allocation is free on a die, but for groups that are to leave. -/
def dpFree (s : State) (x : Group) (leaving : List Nat) (d : Nat) : Bool :=
  !s.groups.any fun (h, y) => placed y && !has leaving h && has (diesOf y) d && dpOverlap x.dpbase x.dpsize y.dpbase y.dpsize

/-- Whether a launch or group is more urgent than another (R312). -/
def moreUrgent (x y : Group) : Bool :=
  decide (x.effClass < y.effClass) || (decide (x.effClass = y.effClass) && (decide (x.key < y.key) || (decide (x.key = y.key) && decide (x.startOrder < y.startOrder))))

/-- Clusters that launch g may take: free ones, or those of groups that are to leave, but for clusters held for a more urgent launch (R315). -/
def availFor (s : State) (g : Nat) (leaving : List Nat) (c : Nat) : Bool :=
  usable s c && !(s.groups.any fun (h, y) => placed y && !has leaving h && has (clustersOf y) c)
    && !(s.groups.any fun (h, y) => decide (h ≠ g) && (y.held.any fun m => m.getLsbD c) && (grp? s g).all (moreUrgent y))

/-- Whether a launch fits now, counting the clusters of groups that are to leave. -/
def fitsNow (s : State) (g : Nat) (x : Group) (leaving : List Nat) : Bool :=
  canPlace (availFor s g leaving) (dpFree s x leaving) x.ncl (logicalDies x.ncl) []

/-- The dies that hold resident pages of a table and the tables below it, with the levels still to go as fuel. -/
def tableDies (s : State) : Nat → Nat → Nat → List Nat
  | 0, _, _ => []
  | fuel + 1, level, table =>
    let k := physKey table
    let at_ := (s.mem.filterMap fun p => if k ≤ p.1 ∧ p.1 < k + 4096 then some ((p.1 - k) / 8) else none).eraseDups
    at_.flatMap fun i =>
      let e := rdWord s (k + 8 * i)
      if !e.getLsbD 0 || malformed s level e then []
      else if e.getLsbD 1 then (if entryKind e = 1 then [fieldOf e 32 3] else [])
      else tableDies s fuel (level + 1) (fieldOf e 8 44 * 256)

/-- The dies that hold a context's resident pages. -/
def residentDies (s : State) (c : Nat) : List Nat := (tableDies s 5 0 ((ctx s c).ptroot.toNat % 2 ^ 52 / 4096 * 4096)).eraseDups

/-- The most of some dies that a fitting placement can have, if any placement fits. -/
def bestPlace (avail : Nat → Bool) (dieOk liked : Nat → Bool) (n : Nat) : Nat → List Nat → Option Nat
  | 0, _ => some 0
  | k + 1, used => (List.range 8).foldl (fun b p =>
      if has used p || !dieOk p || !dieFits avail (dieShape n k) p then b
      else match bestPlace avail dieOk liked n k (p :: used), b with
        | some v, some w => some (max w (v + boolBit (liked p)))
        | some v, none => some (v + boolBit (liked p))
        | none, b => b) none

/-- Whether a fitting place for launch g is one that the Sluice prefers: no other would stand on more of the dies that hold the context's resident pages (R315). (Model: DEDUCED, unsafe: notes/assumptions 114) -/
def placeLiked (s : State) (g : Nat) (x : Group) (place : List (Nat × Nat × Nat)) : Bool :=
  let l := residentDies s x.ctx
  l.isEmpty || decide (bestPlace (availFor s g []) (dpFree s x []) (has l) x.ncl (logicalDies x.ncl) [] = some (place.filter fun p => has l p.1).length)

/-! ## Urgency (R312) -/

def implOf (s : State) (cls : Nat) : Nat := fieldOf ((s.clscfg[cls]?).getD 0) 0 32 * 1000
def promoteOf (s : State) (cls : Nat) : Nat := fieldOf ((s.clscfg[cls]?).getD 0) 32 16 * 1000000
def slackMinOf (s : State) (cls : Nat) : Nat := fieldOf ((s.clscfg[cls]?).getD 0) 48 16 * 1000

/-- Whether the Sluice may place a launch: its kernel has loaded, a SAVED group is runnable, its context is OPEN or ACTIVE. -/
def placeable (s : State) (x : Group) : Bool :=
  let c := ctx s x.ctx
  x.ending.isNone && (c.st == .opened || c.st == .active)
    && (match x.state with
        | .admitted => (kernel? s x.ctx x.kid).any fun k => k.st != .loading
        | .saved => x.runnable
        | _ => false)

/-- The unplaced launches, the most urgent first. -/
def byUrgency (l : List (Nat × Group)) : List (Nat × Group) :=
  l.foldl (fun a x => (a.takeWhile fun y => moreUrgent y.2 x.2) ++ x :: (a.dropWhile fun y => moreUrgent y.2 x.2)) []

def waitingLaunches (s : State) : List (Nat × Group) := byUrgency (s.groups.filter fun p => placeable s p.2)

/-! ## Areas of saved spaces (R275, R318, R319) -/

/-- The place of a storage key in a group's save area. -/
def areaOffset (x : Group) (k : Nat) : Option Nat :=
  let rank (c : Nat) : Option Nat := (clustersOf x).findIdx? fun d => decide (d = c)
  if 2 ^ 63 ≤ k ∧ k < 2 ^ 63 + 288 * 2 ^ 25 then (rank ((k - 2 ^ 63) / 2 ^ 25)).map fun r => r * clusterArea + 2 ^ 24 + k % 2 ^ 25
  else if 2 ^ 62 ≤ k ∧ k < 2 ^ 62 + 288 * 2 ^ 23 then (rank ((k - 2 ^ 62) / 2 ^ 23)).map fun r => r * clusterArea + 2 ^ 23 + k % 2 ^ 23
  else if 2 ^ 61 ≤ k ∧ k < 2 ^ 61 + 288 * 2 ^ 23 then (rank ((k - 2 ^ 61) / 2 ^ 23)).map fun r => r * clusterArea + k % 2 ^ 23
  else if 2 ^ 60 ≤ k ∧ k < 2 ^ 60 + 8 * 2 ^ 30 then
    let off := k % 2 ^ 30
    let dies := sortBy id (diesOf x)
    if x.dpbase * 65536 ≤ off ∧ off < (x.dpbase + x.dpsize) * 65536 then
      (dies.findIdx? fun d => decide (d = (k - 2 ^ 60) / 2 ^ 30)).map fun i => x.ncl * clusterArea + i * x.dpsize * 65536 + (off - x.dpbase * 65536)
    else none
  else none

/-- The storage key of a place in a group's save area. -/
def areaKey (x : Group) (o : Nat) : Option Nat :=
  if o < x.ncl * clusterArea then
    let c := ((clustersOf x)[o / clusterArea]?).getD 0
    let p := o % clusterArea
    if p < 2 ^ 23 then some (upKey c p) else if p < 2 ^ 24 then some (cpKey c (p - 2 ^ 23)) else if p < 3 * 2 ^ 24 then some (bsKey c (p - 2 ^ 24)) else none
  else
    let p := o - x.ncl * clusterArea
    let n := x.dpsize * 65536
    if n = 0 then none else ((sortBy id (diesOf x))[p / n]?).map fun d => dieKey d (x.dpbase * 65536 + p % n)

/-- What a group's spaces hold, by place in its save area. -/
def spaceCells (s : State) (x : Group) : List (Nat × Byte) := s.mem.filterMap fun p => (areaOffset x p.1).map fun o => (o, p.2)

/-- Every byte of a group's spaces is zero (R111). -/
def zeroSpaces (s : State) (x : Group) : State :=
  { s with mem := s.mem.filter fun p => (areaOffset x p.1).isNone, poison := s.poison.filter fun w => (areaOffset x (8 * w)).isNone
           soft := s.soft.filter fun w => (areaOffset x (8 * w)).isNone }

/-- A group's spaces hold given bytes and zero elsewhere. -/
def fillSpaces (s : State) (x : Group) (l : List (Nat × Byte)) : State :=
  putBytes (zeroSpaces s x) (l.filterMap fun p => (areaKey x p.1).map fun k => (k, p.2))

/-- A group's bytes are written to an area: up, cp and bs of each cluster in the clear, then its element-state megabyte in the device's own format, then its dp allocation. A
confidential context's area holds a ciphertext. -/
def writeArea (s : State) (conf : Bool) (pa : Nat) (x : Group) (l : List (Nat × Byte)) : State :=
  if conf then freeBytes s (hbmKey pa) (areaUnits x * 65536)
  else
    let s := (List.range x.ncl).foldl (fun s r => freeBytes (zeroRange s (hbmKey pa + r * clusterArea) (48 * 2 ^ 20)) (hbmKey pa + r * clusterArea + 48 * 2 ^ 20) (2 ^ 20)) s
    let s := zeroRange s (hbmKey pa + x.ncl * clusterArea) (x.dpsize * 65536 * x.place.length)
    putBytes s (l.map fun p => (hbmKey pa + p.1, p.2))

/-- Bytes of a group's spaces go to an area, which is the group's from then on. -/
def saveBytes (s : State) (g pa : Nat) (l : List (Nat × Byte)) : State :=
  match grp? s g with
  | none => s
  | some x =>
    let s := writeArea s (ctx s x.ctx).conf pa x l
    let cells := areaNow s pa (areaUnits x * 65536)
    modGrp s g fun x => { x with savedSpaces := l, area := some pa, areaCells := cells }

/-- A group's spaces leave the clusters for an area. (Model: DESIGN CHOICE, unsafe: notes/assumptions 88) -/
def saveTo (s : State) (g pa : Nat) : State :=
  match grp? s g with
  | none => s
  | some x => saveBytes s g pa (spaceCells s x)

/-- Whether an area still holds what was saved (R276, R319). -/
def areaIntact (s : State) (x : Group) : Bool :=
  match x.area with
  | none => true
  | some pa => decide (areaNow s pa (areaUnits x * 65536) = x.areaCells)

/-- What an area gives back: the bytes that stand there, or, of a confidential context, what was encrypted. -/
def areaBytes (s : State) (x : Group) : List (Nat × Byte) :=
  match x.area with
  | some pa => if (ctx s x.ctx).conf then x.savedSpaces else (areaNow s pa (areaUnits x * 65536)).filter fun p => (areaKey x p.1).isSome
  | none => x.savedSpaces

/-- The lowest place of the pre-emption pool with room for units (R314); none when the free units lie apart. -/
def poolPlace (s : State) (n : Nat) : Option Nat :=
  let base := fieldOf s.prbase 16 36 * 65536
  let used := s.groups.filterMap fun (_, x) => if x.poolUnits ≠ 0 then x.area.map fun a => (a, x.poolUnits * 65536) else none
  let spots := base :: used.map fun u => u.1 + u.2
  minOf? (spots.filter fun a => decide (a + n * 65536 ≤ base + s.prsize.toNat * 65536) && !used.any fun u => decide (a < u.1 + u.2) && decide (u.1 < a + n * 65536))

/-! ## Victims (R316) -/

/-- Free units of the pool. -/
def poolRoom (s : State) : Nat := s.prsize.toNat - poolUsed s

/-- Whether a group may be cut for launch x, pool apart. (Model: DEDUCED, safe: notes/assumptions 96) -/
def victimOk (s : State) (x y : Group) : Bool :=
  y.gang.isNone && y.cutWhy.isNone && y.ending.isNone && y.freeze.isNone
    && (y.state == .parked || (y.state == .running && moreUrgent x y && decide (s.dtime + slackMinOf s y.effClass ≤ y.key)))

/-- Candidates in preference order: parked groups first, then running ones, the least urgent first. -/
def victimOrder (s : State) (x : Group) : List (Nat × Group) :=
  let l := (byUrgency (s.groups.filter fun p => victimOk s x p.2)).reverse
  (l.filter fun p => p.2.state == .parked) ++ l.filter fun p => p.2.state != .parked

/-- Add victims, the pool permitting, until the launch fits: victims in the order added, the last first. -/
def addVictims (s : State) (g : Nat) (x : Group) (base : List Nat) : List (Nat × Group) → Nat → List Nat → Option (List Nat)
  | [], _, _ => none
  | (h, y) :: r, room, acc =>
    if areaUnits y ≤ room then
      if fitsNow s g x (h :: acc ++ base) then some (h :: acc) else addVictims s g x base r (room - areaUnits y) (h :: acc)
    else addVictims s g x base r room acc

/-- Leave out each victim, the last added first, without which the launch still fits. -/
def leaveOut (s : State) (g : Nat) (x : Group) (base : List Nat) : List Nat → List Nat → List Nat
  | [], kept => kept
  | h :: r, kept => if fitsNow s g x (r ++ kept ++ base) then leaveOut s g x base r kept else leaveOut s g x base r (kept ++ [h])

/-- The victims that the Sluice cuts for a launch. Clusters of groups that are already being cut for pre-emption count as coming free. -/
def victimsFor (s : State) (g : Nat) (x : Group) : List Nat :=
  let base := s.groups.filterMap fun (h, y) => if y.cutWhy = some .preempt then some h else none
  if fitsNow s g x base then []
  else match addVictims s g x base (victimOrder s x) (poolRoom s) [] with
    | none => []
    | some l => leaveOut s g x base l []

end Sys2Proof.Machine
end

