-- ==== Sys2Proof/Machine/Queues.lean ====
section
/-! DEFINITION. Queues (R281-R296): doorbells, the head packet and its re-polls, the start of each command, KLOAD and KEVICT to their end (R297-R305), and queue commands. -/

namespace Sys2Proof.Machine

/-! ## Who reaches what (R268, R272, R282) -/

/-- Whether a function reaches the objects of a context: it owns the context, and a write for a confidential one arrives in a covering stream. (Model: DEDUCED, safe: notes/assumptions 48) -/
def reachCtx (s : State) (fn c : Nat) : Bool :=
  let x := ctx s c
  decide (ownerOf s c = fn) && (!(ctxLive x && x.conf) || (fnOf s fn).ide)

/-- Model: DEDUCED, safe: notes/assumptions 47. -/
def reachQueue (s : State) (fn q : Nat) : Bool :=
  let x := queue s q
  if x.st == .free then decide (fn = 0) else reachCtx s fn (queueCtx x)

/-- The command code and reserved bits of a command register (R270, R282, R329). -/
def cmdCode (v : Word) : Nat := fieldOf v 0 4
def cmdReserved (v : Word) : Bool := decide (fieldOf v 4 60 ≠ 0)

/-! ## Doorbells (R283, R289) -/

/-- A write to the doorbell page of a queue. -/
def execDoorbell (fn q off size : Nat) (v : BitVec 32) (s : State) : Host.Outcome State Fault Refusal :=
  let x := queue s q
  .next (if !devReady s || !reachQueue s fn q || decide (off ≠ 0) || decide (size ≠ 4) || !queueOpen x || queueFed x then s
    else
      let ahead := (v - x.cidx).toNat
      if queueSize x < ahead ∨ ahead < (x.pidx - x.cidx).toNat then event s (ownerOf s (queueCtx x)) 4 (queueCtx x) q 0 (x.cidx.toNat % 2 ^ 24)
      else setQueue s q { x with pidx := v, st := if x.st == .idle && decide (v ≠ x.cidx) then .active else x.st })

/-! ## The head packet (R287-R291) -/

/-- The address of the head packet. -/
def headAddr (x : Queue) : Nat := x.qbase.toNat + 128 * (x.cidx.toNat % queueSize x)

/-- A 128-byte packet as its sixteen words. -/
def packetWords (l : List Byte) : List Word := (List.range 16).map fun i => BitVec.ofNat 64 (natOfBytes ((l.drop (8 * i)).take 8))

/-- Whether the packet at the head is valid: its SEQ is CIDX (R284). -/
def packetValid (x : Queue) (l : List Word) : Bool := decide (fieldOf ((l[0]?).getD 0) 0 32 = x.cidx.toNat)

/-- The queue stalls, with an event (R288). -/
def stallQueue (s : State) (q code err : Nat) : State :=
  let x := queue s q
  let c := queueCtx x
  event (setQueue s q { x with st := .stalled, head := none, polls := none }) (ownerOf s c) code c q err (x.cidx.toNat % 2 ^ 24)

/-- One read of the head, of which the first stood at a time: a valid packet is taken; an invalid one leads to the next re-poll, and after the last one to STALLED. -/
def readHead (s : State) (q poll first : Nat) : State :=
  let x := queue s q
  match ownRead s (queueCtx x) (headAddr x) 128 with
  | .error cause => stallQueue s q 5 cause
  | .ok l =>
    let w := packetWords l
    if packetValid x w then setQueue s q { x with head := some w, polls := none }
    else if 64 ≤ poll then stallQueue s q 2 0
    else setQueue s q { x with polls := some (poll, first) }

/-- PACKET_READ: the first read of the head of an ACTIVE queue. -/
def execPacketRead (q : Nat) (s : State) : Host.Outcome State Fault Refusal :=
  let x := queue s q
  .next (if devReady s && x.st == .active && decide (x.pidx ≠ x.cidx) && x.head.isNone && x.polls.isNone then readHead s q 0 s.dtime else s)

/-- REPOLL: the next of the 64 re-polls, number n at 32 n ns after the first read. -/
def execRepoll (q : Nat) (s : State) : Host.Outcome State Fault Refusal :=
  let x := queue s q
  .next (match x.polls with
    | some (n, t) => if devReady s && x.st == .active && x.head.isNone && decide (t + 32 * (n + 1) ≤ s.dtime) then readHead s q (n + 1) t else s
    | none => s)

/-! ## Checks of a packet (R284, R285, R300, R340, R443) -/

/-- The first word after those that a TYPE uses. -/
def usedWords (typ : Nat) : Nat := match typ with | 1 => 16 | 2 => 2 | 3 => 3 | 4 => 5 | 5 => 2 | 6 => 2 | 7 => 3 | _ => 1

/-- BADPKT: a reserved TYPE, or a non-zero reserved or unused field; a misaligned address of KLOAD, TSTAMP or TRACEON, or a bad trace size. (Model: DEDUCED, unsafe: notes/assumptions 98) -/
def packetBad (x : Queue) (l : List Word) : Bool :=
  let w (i : Nat) : Word := (l[i]?).getD 0
  let typ := packetType (w 0)
  decide (8 < typ) || decide (fieldOf (w 0) 41 7 ≠ 0) || (decide (fieldOf (w 0) 48 16 ≠ 0) && !(decide (typ = 1) && queueFed x))
    || (l.drop (usedWords typ)).any (fun v => decide (v ≠ 0))
    || (match typ with
        | 1 => launchReserved l
        | 2 => decide (fieldOf (w 1) 12 52 ≠ 0)
        | 3 => decide (fieldOf (w 1) 12 52 ≠ 0) || decide (fieldOf (w 2) 32 32 ≠ 0)
        | 4 => decide (fieldOf (w 1) 16 48 ≠ 0) || decide ((w 2).toNat % 32 ≠ 0) || decide ((w 4).toNat % 8 ≠ 0)
        | 5 => decide (fieldOf (w 1) 17 47 ≠ 0)
        | 6 => decide ((w 1).toNat % 8 ≠ 0)
        | 7 => decide ((w 1).toNat % 64 ≠ 0) || decide ((w 2).toNat < 128) || decide ((w 2).toNat % 16 ≠ 0)
        | _ => false)

/-- Whether the head command may start (R287): the previous one has started, and has completed where SERIAL or a BARWT asks; the context is not SUSPENDED. -/
def mayStart (s : State) (x : Queue) (w0 : Word) : Bool :=
  let prev := (x.cidx - 1).toNat
  let out := x.cmds.filter fun k => decide (k.seq = prev)
  (ctx s (queueCtx x)).st != .suspended && !(w0.getLsbD 40 && !out.isEmpty) && !(out.any fun k => decide (k.typ = 3))

/-! ## Launches (R285, R286, R302, R306, R312) -/

/-- Whether a KEVICT that names a kernel of a context has started and has not completed (R304). -/
def evictStarted (s : State) (c kid : Nat) : Bool :=
  s.queues.any fun (_, x) => x.cmds.any fun k => decide (k.typ = 5) && decide (k.ring.1 = c) && decide (fieldOf ((k.words[1]?).getD 0) 0 16 = kid)

/-- The reasons that reject a launch at its start, the lowest first. (Model: DEDUCED, unsafe: notes/assumptions 99) -/
def launchReject (s : State) (c : Nat) (l : List Word) : Option Nat :=
  let w (i : Nat) : Word := (l[i]?).getD 0
  let x := ctx s c
  let ncl := fieldOf (w 1) 32 9
  let base := fieldOf (w 4) 0 14
  let size := fieldOf (w 4) 14 14
  let k := kernel? s c (fieldOf (w 1) 0 16)
  let e := match k with | some k => if k.st == .resident then (kernelEntries s (copyKey s k))[fieldOf (w 1) 16 16]? else none | none => none
  let low := match k, e with | some k, some e => decide (ncl < nclMin s (copyKey s k) e) | _, _ => false
  if decide (x.maxcl.toNat < ncl) || !fitsPart s ncl || low then some 1
  else if x.maxdp.toNat < size ∨ 9216 < base + size then some 2
  else if (List.range 8).any fun d => dpOverlap base size (fieldOf (Tab.get s.rpcfg d 0) 0 14) (fieldOf (Tab.get s.rpcfg d 0) 14 14) then some 3
  else if (match k with | some k => k.st == KerSt.evicting || (k.st == KerSt.resident && e.isNone) | none => true) || evictStarted s c (fieldOf (w 1) 0 16) then some 4
  else if x.st == CtxSt.closing then some 5
  else none

/-- The next GRPID: the next value of the counter that no launch or group holds (R306). -/
def freeGrp (s : State) : Nat :=
  ((List.range 65536).map fun i => (s.nextGrp + BitVec.ofNat 16 i).toNat).find? (fun g => (grp? s g).isNone) |>.getD 0

/-- The gang of a launch (R325). -/
def gangOf (w5 : Word) : Option Gang :=
  if fieldOf w5 0 32 = 0 then none
  else some { id := BitVec.ofNat 32 (fieldOf w5 0 32), nmem := fieldOf w5 32 4, midx := fieldOf w5 36 4, gto := fieldOf w5 40 16, timerStart := 0, go := false
              allgo := false, arms := [], goacks := [], dones := [], done := false, pkgs := [] }

/-- The admitted launch of a packet (R285, R306, R312). -/
def admitted (s : State) (q : Nat) (x : Queue) (seq : Nat) (l : List Word) : Group :=
  let w (i : Nat) : Word := (l[i]?).getD 0
  let cls := queueClass x
  let dl := (w 2).toNat
  { freshGroup Image.empty with
    ctx := queueCtx x, queue := q, seq := seq, kid := fieldOf (w 1) 0 16, entry := fieldOf (w 1) 16 16, ncl := fieldOf (w 1) 32 9, dl := dl
    budget := fieldOf (w 3) 0 32, srseed := BitVec.ofNat 32 (fieldOf (w 3) 32 32), dpbase := fieldOf (w 4) 0 14, dpsize := fieldOf (w 4) 14 14
    args := l.drop 6, windows := [], gang := gangOf (w 5), state := .admitted, effClass := cls, key := if dl ≠ 0 then dl else s.dtime + implOf s cls
    startTime := s.dtime, startOrder := s.startCount, waitStart := s.dtime, place := [], loaded := false, started := false, seedPlace := [] }

/-! ## The start of a command -/

/-- The outcome of a command at its start: it completes with STATUS and DETAIL, stays outstanding, or waits at the head. -/
inductive Begun where
  | done (s : State) (status detail : Nat)
  | out (s : State)
  | later

def trapTrace (s : State) (c : Nat) (l : List Word) : Begun :=
  let buf := ((l[1]?).getD 0).toNat
  let x := ctx s c
  if !x.dbgcons.getLsbD 0 then .done s 6 0
  else if x.trace.isSome then .done s 2 12
  else match ownWrite s c buf (bytesOf 16 0 ++ bytesOf 8 s.dtime ++ bytesOf 8 0 ++ bytesOf 8 1 ++ bytesOf 24 0) with
    | .error cause => .done s 4 (0x800 + cause)
    | .ok s => .out (modCtx s c fun x => { x with trace := some { buf := buf, size := ((l[2]?).getD 0).toNat, written := 0, dropped := 0, opened := s.dtime } })

/-- Units of the configuration cache for an image (R297). -/
def imageUnits (len : Nat) : Nat := (len + 65535) / 65536

/-- Step 1 of a KLOAD (R301). -/
def kloadReject (s : State) (c : Nat) (l : List Word) : Option Nat :=
  let w (i : Nat) : Nat := ((l[i]?).getD 0).toNat
  let mine := s.kernels.filter fun k => decide (k.ctx = c)
  if (ctx s c).st == .closing then some 5
  else if mine.any fun k => decide (k.kid = w 1 % 65536) then some 6
  else if mine.any fun k => decide (k.imgaddr < w 2 + w 3) && decide (w 2 < k.imgaddr + k.imglen) then some 7
  else if s.ccsize.toNat < ccUsed s + imageUnits (w 3) ∨ Config.maxKernels ≤ s.kernels.length then some 9
  else none

/-- The load report is written, both words or neither (R301). -/
def writeReport (s : State) (c report cause idx : Nat) : State :=
  if report = 0 then s
  else
    let w0 := cause % 256 + idx % 2 ^ 32 * 2 ^ 16
    match ownWrite s c report (bytesOf 8 w0) with
    | .error _ => s
    | .ok s' => match ownWrite s' c (report + 8) (bytesOf 8 s.dtime) with
      | .ok s'' => s''
      | .error _ => s

/-- The report of a load that names no entry at fault: a success or a REJECT (R301). -/
def plainReport (s : State) (c report : Nat) : State :=
  writeReport { s with fresh := s.fresh + 1 } c report 0 (Config.reportIndex s.fresh).toNat

/-- A KEVICT acts on the state that its kernel has reached (R304). (Model: DESIGN CHOICE, unsafe: notes/assumptions 100) -/
def evictKernel (s : State) (c q seq : Nat) (w1 : Word) : Begun :=
  let kid := fieldOf w1 0 16
  match kernel? s c kid with
  | none => .done s 2 4
  | some k =>
    match k.st with
    | .loading => .out s
    | .evicting => .done s 2 4
    | .resident => .out (modKernel s c kid fun k => { k with st := .evicting, cmd := some (q, seq), unload := w1.getLsbD 16 })

/-- A launch reads the table of its kernel's copy, where that is resident; the answer says whether a fatal error stands there (R297). -/
def launchRead (s : State) (c : Nat) (l : List Word) : State × Bool :=
  match kernel? s c (fieldOf ((l[1]?).getD 0) 0 16) with
  | some k => if k.st == .resident then readCopy s k (copyHead s k) else (s, false)
  | none => (s, false)

/-- What a valid head command does when it starts (R284-R287, R300, R340, R443). -/
def beginCommand (s : State) (q : Nat) (x : Queue) (seq : Nat) (l : List Word) : Begun :=
  let c := queueCtx x
  let w (i : Nat) : Word := (l[i]?).getD 0
  if packetBad x l then .done s 1 0
  else match packetType (w 0) with
    | 0 => .done s 0 0
    | 1 =>
      let (s, dead) := launchRead s c l
      if dead then .out s
      else match launchReject s c l with
      | some d => .done s 2 d
      | none =>
        if Config.maxGroups ≤ s.groups.length then .later
        else
          let g := freeGrp s
          .out { s with groups := Tab.set s.groups g (admitted s q x seq l), nextGrp := BitVec.ofNat 16 (g + 1), startCount := s.startCount + 1 }
    | 2 =>
      let b := fieldOf (w 1) 0 12
      if !barFor s b c then .done s 2 10
      else if (barrier s b).st == .broken then .done s 2 11
      else if (barrier s b).due then .later
      else .done (arriveAt s b none) 0 0
    | 3 =>
      let b := fieldOf (w 1) 0 12
      if !barFor s b c then .done s 2 10
      else if satisfied (barrier s b) (fieldOf (w 2) 0 32) then .done s 0 0
      else if (barrier s b).st == .broken then .done s 2 11
      else .out s
    | 4 =>
      match kloadReject s c l with
      | some d => .done (plainReport s c (w 4).toNat) 2 d
      | none =>
        .out { s with kernels := s.kernels ++ [{ ctx := c, kid := fieldOf (w 1) 0 16, st := .loading, base := ccUsed s, units := imageUnits (w 3).toNat, imgaddr := (w 2).toNat
                                                 imglen := (w 3).toNat, report := (w 4).toNat, cmd := some (q, seq), unload := false, copied := [] }] }
    | 5 => if (ctx s c).st == .closing then .done s 2 5 else evictKernel s c q seq (w 1)
    | 6 =>
      match ownWrite s c (w 1).toNat (bytesOf 8 s.dtime) with
      | .error cause => .done s 4 (0x800 + cause)
      | .ok s => .done s 0 0
    | 7 =>
      match trapTrace s c l with
      | .out s => .done s 0 0
      | r => r
    | _ => .done (traceClose s c false) 0 0

/-- The head command of a queue starts, if it may and is of the TYPE that is asked for: CIDX advances, a slot frees, and the command completes at once or is outstanding. -/
def startHead (s : State) (q : Nat) (want : Option Nat) : State :=
  let x := queue s q
  match x.head with
  | none => s
  | some l =>
    let w0 := (l[0]?).getD 0
    let typ := packetType w0
    let seq := x.cidx.toNat
    if !devReady s || x.st != .active || (want.any fun t => decide (t ≠ typ)) || !mayStart s x w0 then s
    else
      let s' := setQueue s q { x with cidx := x.cidx + 1, head := none, st := if x.pidx = x.cidx + 1 then .idle else .active
                                      cmds := x.cmds ++ [{ seq := seq, typ := typ, words := l, ring := queueRing x }] }
      match beginCommand s' q x seq l with
      | .later => s
      | .done s status detail => wakeQueue (complete s q seq typ status detail) q
      | .out s => wakeQueue (if typ = 5 then kevictSettle s (queueCtx x) (fieldOf ((l[1]?).getD 0) 0 16) else s) q

/-- COMMAND_START: the head command, whatever it is, a packet that completes BADPKT or REJECT among them. -/
def execCommandStart (q : Nat) (s : State) : Host.Outcome State Fault Refusal := .next (startHead s q none)
def execNop (q : Nat) (s : State) : Host.Outcome State Fault Refusal := .next (startHead s q (some 0))
def execLaunchCommand (q : Nat) (s : State) : Host.Outcome State Fault Refusal := .next (startHead s q (some 1))
def execBararv (q : Nat) (s : State) : Host.Outcome State Fault Refusal := .next (startHead s q (some 2))
def execBarwt (q : Nat) (s : State) : Host.Outcome State Fault Refusal := .next (startHead s q (some 3))
def execKload (q : Nat) (s : State) : Host.Outcome State Fault Refusal := .next (startHead s q (some 4))
def execKevict (q : Nat) (s : State) : Host.Outcome State Fault Refusal := .next (startHead s q (some 5))
def execTstamp (q : Nat) (s : State) : Host.Outcome State Fault Refusal := .next (startHead s q (some 6))
def execTraceon (q : Nat) (s : State) : Host.Outcome State Fault Refusal := .next (startHead s q (some 7))
def execTraceoff (q : Nat) (s : State) : Host.Outcome State Fault Refusal := .next (startHead s q (some 8))

/-! ## The end of a load (R301, R304) -/

/-- The bytes of an image in a context's gm, read in units of 32 bytes; none when a page does not let it be read. -/
def imageBytes (s : State) (c va : Nat) : Nat → Nat → Option (List Byte)
  | 0, _ => some []
  | fuel + 1, left =>
    if left = 0 then some []
    else match ownRead s c va (min left 32), imageBytes s c (va + 32) fuel (left - 32) with
      | .ok l, some r => some (l ++ r)
      | _, _ => none

/-- Launches that waited for a load and that it leaves without their kernel, or that their entry rejects (R302, R304). -/
def settleHeld (s : State) (c kid : Nat) : State :=
  s.groups.foldl (fun s (g, x) =>
    if x.ctx = c ∧ x.kid = kid ∧ x.state = .admitted ∧ x.ending = none then
      match kernel? s c kid with
      | none => removeGroup s g x 2 4
      | some k =>
        match (kernelEntries s (copyKey s k))[x.entry]? with
        | none => removeGroup s g x 2 4
        | some e => if x.ncl < nclMin s (copyKey s k) e then removeGroup s g x 2 1 else s
    else s) s

/-- KEVICTs that waited for a load act on the state that it reached. -/
def settleEvicts (s : State) (c kid : Nat) : State :=
  s.queues.foldl (fun s (q, x) =>
    x.cmds.foldl (fun s k =>
      let w1 := (k.words[1]?).getD 0
      if k.typ = 5 ∧ k.ring.1 = c ∧ fieldOf w1 0 16 = kid then
        match evictKernel s c q k.seq w1 with
        | .done s status detail => complete s q k.seq 5 status detail
        | .out s => kevictSettle s c kid
        | .later => s
      else s) s) s

/-- Word w of an image is copied ahead of the rest, so that what stores to the image leave there may be a mixture of old and new words (R301). -/
def copyWord (s : State) (c kid : Nat) (k : Kernel) (w : Nat) : State :=
  if k.imglen < 8 * w + 8 ∨ has k.copied w then s
  else match ownRead s c (k.imgaddr + 8 * w) 8 with
    | .error _ => s
    | .ok l => modKernel (wrBytes s (copyKey s k + 8 * w) l) c kid fun k => { k with copied := w :: k.copied }

/-- A load ends: its record is written, and what waited for it goes on; in a context that is CLOSING its kernel goes with the rest (R301, R304). -/
def loadEnds (s : State) (c kid : Nat) (cmd : Option (Nat × Nat)) (status detail : Nat) : State :=
  let s := match cmd with | some (q, seq) => complete s q seq 4 status detail | none => s
  let s := settleEvicts (settleHeld s c kid) c kid
  if (ctx s c).st == .closing && (kernel? s c kid).any (fun k => k.st == .resident) then dropKernel s c kid else s

/-- KERNEL_LOAD_END: the copy and its check end, the report stands before the record, and what waited for the load goes on. As a part, one word is copied ahead. -/
def execKernelLoadEnd (c kid : Nat) (s : State) : Host.Outcome State Fault Refusal :=
  .next (match kernel? s c kid with
    | none => s
    | some k =>
      if !devReady s || k.st != .loading then s
      else if s.part ≠ 0 then copyWord s c kid k (s.part - 1)
      else match imageBytes s c k.imgaddr (k.imglen / 32 + 1) k.imglen with
        | none => loadEnds (dropKernel (plainReport s c k.report) c kid) c kid k.cmd 2 8
        | some l =>
          let key := copyKey s k
          let l := k.copied.foldl (fun l w => l.take (8 * w) ++ rdBytes s (key + 8 * w) 8 ++ l.drop (8 * w + 8)) l
          let s := wrBytes s key l
          match imageVerdict s key k.imglen with
          | some (cause, idx) => loadEnds (dropKernel (writeReport s c k.report cause (idx.getD 0xFFFFFFFF)) c kid) c kid k.cmd 4 cause
          | none => loadEnds (plainReport (modKernel s c kid fun k => { k with st := .resident, cmd := none, copied := [] }) c k.report) c kid k.cmd 0 0)

/-! ## Queue commands (R282, R288, R295) -/

/-- A queue command ends with an ERR: the event is code 3 for RESET and 8 for the others (R296). -/
def queueCmdEndAs (code : Nat) (s : State) (q err : Nat) : State :=
  let x := queue s q
  let f := if x.st == .free then 0 else ownerOf s (queueCtx x)
  event (setQueue s q { x with err := BitVec.ofNat 8 err }) f code (queueCtx x) q err (x.cidx.toNat % 2 ^ 24)
def queueCmdEnd (s : State) (q err : Nat) : State := queueCmdEndAs 8 s q err

/-- A command written to QCMD with one of the defined codes: nothing where the function does not reach the window; ERR 0x07 while BUSY; 0x01 for a reserved bit; 0x02 where the state
does not allow it. -/
def queueCmd (s : State) (fn q code : Nat) (v : Word) (ok : QueueSt → Bool) (go : State → State) : State :=
  let x := queue s q
  if !devReady s || !reachQueue s fn q || decide (cmdCode v ≠ code) then s
  else if x.st == .resetting then setQueue s q { x with err := 7 }
  else if cmdReserved v then queueCmdEndAs (if code = 2 then 3 else 8) s q 1
  else if !ok x.st then queueCmdEndAs (if code = 2 then 3 else 8) s q 2
  else go s

/-- The commands of a queue that a DESTROY has left running to their end (R295), told from the commands of the queue that is created anew. -/
def oldCommands (x : Queue) : List Cmd := x.cmds.map fun k => { k with seq := k.seq + 2 ^ 32 }
def keepCommands (s : State) (q : Nat) : State :=
  { s with kernels := s.kernels.map fun k => { k with cmd := k.cmd.map fun p => if p.1 = q then (p.1, p.2 + 2 ^ 32) else p } }

def execQcmdCreate (fn q : Nat) (v : Word) (s : State) : Host.Outcome State Fault Refusal :=
  .next (queueCmd s fn q 1 v (· == .free) fun s =>
    let x := queue s q
    let n := fieldOf x.cfg 15 5
    if !ctxLive (ctx s (queueCtx x)) then queueCmdEnd s q 3
    else if n < 4 ∨ 16 < n ∨ x.qbase.toNat % 4096 ≠ 0 ∨ x.cqbase.toNat % 64 ≠ 0 then queueCmdEnd s q 4
    else queueCmdEnd (setQueue (keepCommands s q) q { x with st := .idle, pidx := 0, cidx := 0, head := none, polls := none, cmds := oldCommands x, waiters := [], destroying := false, resetCode := 0 }) q 0)

/-- TYPE of an unstarted command: of its packet where that is valid. -/
def unstartedType (s : State) (x : Queue) (seq : Nat) : Nat :=
  let free := (Config.resetType s.fresh).toNat
  match ownRead s (queueCtx x) (x.qbase.toNat + 128 * (seq % queueSize x)) 8 with
  | .ok l => let w0 : Word := BitVec.ofNat 64 (natOfBytes l); if fieldOf w0 0 32 = seq then packetType w0 else free
  | .error _ => free

/-- A QPUTW that waits ends with a status: 2 at a reset (R295), 1 past its group's deadline (R294). -/
def failWaiter (s : State) (q : Nat) (w : Nat × Nat) (st : Nat) : State :=
  match block? s w.1 w.2 0 with
  | none => s
  | some k =>
    match (List.range k.words.length).find? fun i => (k.words[i]?).any (fun v => opOfWord v == 0x189) && !has k.fired i && slotCanFire k i
        && decide ((match k.words[i]? with | some v => if v.getLsbD 27 then fieldOf v 0 12 else (lane (entryValue (entry? k i .b)) 0).toNat | none => 0) = q) with
    | none => s
    | some i => let (t0, t1) := slotTargets k i; deliver (markFired (wake s w.1) w.1 w.2 0 i) w.1 w.2 0 i t0 t1 (.val (lane0 (BitVec.ofNat 64 st)))

/-- The steps of a reset (R295), which ends with an event of a code: 3 for RESET, 8 for a DESTROY, 0 for the DESTROY of the context. -/
def resetQueue (s : State) (q : Nat) (code : Nat) : State :=
  let x := queue s q
  let s := setQueue s q { x with st := .resetting, destroying := decide (code ≠ 3), resetCode := code, head := none, polls := none, waiters := [] }
  let s := x.waiters.foldl (fun s w => failWaiter s q w 2) s
  let s := (List.range (x.pidx - x.cidx).toNat).foldl (fun s i =>
    let seq := (x.cidx + BitVec.ofNat 32 i).toNat
    putRecord { s with fresh := s.fresh + 1 } q seq (unstartedType s x seq) 3 0) s
  let s := modQueue s q fun y => { y with cidx := y.pidx }
  let s := s.groups.foldl (fun s (g, y) => if y.queue = q then endGroup s g 3 0 else s) s
  let s := x.cmds.foldl (fun s k => if outlivesReset k || decide (k.typ = 1) then s else complete s q k.seq k.typ 3 0) s
  queueSettle s q

def execQcmdReset (fn q : Nat) (v : Word) (s : State) : Host.Outcome State Fault Refusal :=
  .next (queueCmd s fn q 2 v (fun st => st == .idle || st == .active || st == .stalled) fun s => resetQueue s q 3)

def execQcmdResume (fn q : Nat) (v : Word) (s : State) : Host.Outcome State Fault Refusal :=
  .next (queueCmd s fn q 3 v (· == .stalled) fun s => queueCmdEnd (modQueue s q fun x => { x with st := .active, head := none, polls := none }) q 0)

def execQcmdDestroy (fn q : Nat) (v : Word) (s : State) : Host.Outcome State Fault Refusal :=
  .next (queueCmd s fn q 4 v (fun st => st == .idle || st == .active || st == .stalled) fun s => resetQueue s q 8)

end Sys2Proof.Machine
end

