-- ==== Sys2Proof/Machine/Contexts.lean ====
section
/-! DEFINITION. Context commands (R272-R276), the teardown of a context, and barrier commands, timeouts and external arrivals (R329-R339). -/

namespace Sys2Proof.Machine

/-! ## Context commands (R272, R273) -/

/-- A context command ends: BUSY clears, ERR is written, and the owning function has its event. -/
def ctxCmdEnd (s : State) (c err : Nat) : State :=
  event (modCtx s c fun x => { x with busy := false, err := BitVec.ofNat 8 err }) (ownerOf s c) 1 c 0 err 0

/-- A context command that is refused ends at once. While a SUSPEND runs, a command that SWITCHING does not allow is refused so too, and the SUSPEND goes on (R273). (Model: DEDUCED, unsafe: notes/assumptions 144) -/
def ctxRefuse (s : State) (c err : Nat) : State :=
  if (ctx s c).busy then event (modCtx s c fun x => { x with err := BitVec.ofNat 8 err }) (ownerOf s c) 1 c 0 err 0 else ctxCmdEnd s c err

/-- A command written to CTXCMD with one of the defined codes. -/
def ctxCmd (s : State) (fn c code : Nat) (v : Word) (ok : CtxSt → Bool) (go : State → State) : State :=
  let x := ctx s c
  if !devReady s || !reachCtx s fn c || decide (cmdCode v ≠ code) || decide (Config.objects ≤ c) then s
  else if x.busy && (x.st != .switching || x.destroyDuringSwitch) then modCtx s c fun x => { x with err := 7 }
  else if cmdReserved v then ctxRefuse s c 1
  else if !ok x.st then ctxRefuse s c 2
  else go s

/-- The checks of CREATE, the lowest ERR first (R272). -/
def createErr (s : State) (fn c : Nat) : Nat :=
  let x := ctx s c
  let maxcl := x.maxcl.toNat
  if s.contexts.any fun p => decide (p.1 ≠ c) && ctxLive p.2 && decide (p.2.asid = x.asid) then 3
  else if maxcl < 1 ∨ 288 < maxcl ∨ 9216 < x.maxdp.toNat ∨ x.csasize.toNat < 1 + 784 * maxcl + x.maxdp.toNat * ((maxcl + 35) / 36) ∨ 2 ^ 40 < csaBase x + csaBytes x then 4
  else if x.conf && !(fnOf s fn).ide then 5
  else 0

/-- Model: DEDUCED, unsafe: notes/assumptions 106. -/
def execCtxcmdCreate (fn c : Nat) (v : Word) (s : State) : Host.Outcome State Fault Refusal :=
  .next (ctxCmd s fn c 1 v (· == .free) fun s =>
    match createErr s fn c with
    | 0 =>
      ctxCmdEnd (modCtx s c fun x =>
        { x with st := .opened, stallcyc := 0x100000, samprate := 0, dbgcons := 0, ctime := s.dtime, creates := x.creates + 1, destroyDuringSwitch := false, suspended := []
                 saveCells := none, trace := none, invals := [], nextInval := 0 }) c 0
    | e => ctxCmdEnd s c e)

/-- Whether a group belongs to a context and holds clusters or a saved copy. -/
def ctxGroups (s : State) (c : Nat) : List (Nat × Group) := s.groups.filter fun (_, x) => decide (x.ctx = c) && x.ending.isNone && (placed x || x.state == .saved)

/-- Units that the save area must hold (R275). -/
def saveNeed (s : State) (c : Nat) : Nat := 1 + ((ctxGroups s c).map fun (_, x) => areaUnits x).foldl (· + ·) 0

/-- The next free place of a context's save area, after its header and the groups that stand in it. -/
def nextSave (s : State) (c : Nat) : Nat :=
  let x := ctx s c
  csaBase x + 65536 * (1 + (x.suspended.map fun g => ((grp? s g).map areaUnits).getD 0).foldl (· + ·) 0)

/-- What a saved group's area gives back, or why it does not: a copy that fails authentication, or an uncorrectable error (R276, R319, R358). -/
def readArea (s : State) (g : Nat) (x : Group) : Except State (List (Nat × Byte)) :=
  if x.area.any fun pa => poisoned s (hbmKey pa) (areaUnits x * 65536) then .error (raiseFatal s 0x40 none 0)
  else if (ctx s x.ctx).conf && !areaIntact s x then .error (faultGroup s g 0x34 0)
  else .ok (areaBytes s x)

/-- A group's saved spaces stand in its context's save area from now on; its units of the pool are free. -/
def toSaveArea (s : State) (c g : Nat) (l : List (Nat × Byte)) : State :=
  let pa := nextSave s c
  let s := saveBytes s g pa l
  modCtx (modGrp s g fun x => { x with poolUnits := 0 }) c fun x => { x with suspended := x.suspended ++ [g] }

/-- The SAVED groups of a context move from the pool into its save area (R319). -/
def movePool (s : State) (c : Nat) : State :=
  (ctxGroups s c).foldl (fun s (g, x) =>
    if x.state = .saved then match readArea s g x with | .ok l => toSaveArea s c g l | .error s => s
    else s) s

/-- SUSPEND: every placed group is to be cut and saved; without one, the context is SUSPENDED at once. A checkpoint cut that runs becomes this one. (Model: DEDUCED, safe: notes/assumptions 105) -/
def execCtxcmdSuspend (fn c : Nat) (v : Word) (s : State) : Host.Outcome State Fault Refusal :=
  .next (ctxCmd s fn c 2 v (fun st => st == .opened || st == .active) fun s =>
    if (ctx s c).csasize.toNat < saveNeed s c then ctxCmdEnd s c 8
    else
      let s := movePool (modCtx s c fun x => { x with st := .switching, busy := true, suspended := [] }) c
      let s := { s with groups := Tab.mapVals s.groups fun _ x =>
        if x.ctx = c ∧ placed x ∧ x.ending = none ∧ (x.cutWhy = none ∨ x.cutWhy = some .check) then { x with cutWhy := some .suspend } else x }
      ctxSettle s c false)

/-- RESUME: when the area is as it was saved, every group of it can run again, on any clusters. -/
def execCtxcmdResume (fn c : Nat) (v : Word) (s : State) : Host.Outcome State Fault Refusal :=
  .next (ctxCmd s fn c 3 v (· == .suspended) fun s =>
    let x := ctx s c
    if poisoned s (hbmKey (csaBase x)) (csaBytes x) then raiseFatal s 0x40 none 0
    else if x.saveCells ≠ some (areaNow s (csaBase x) (csaBytes x)) then ctxCmdEnd s c 6
    else
      let back (s : State) (g : Nat) : State :=
        modGrp s g fun y => { y with savedSpaces := areaBytes s y, area := none, areaCells := [], runnable := true, wakes := [], waitStart := s.dtime }
      let mine := x.suspended.filter fun g => (grp? s g).any fun y => decide (y.ctx = c) && y.state == .saved
      let s := mine.foldl back s
      ctxCmdEnd (modCtx s c fun x => { x with st := if mine.isEmpty then .opened else .active, suspended := [], saveCells := none }) c 0)

/-! ## The end of a context (R273, R304, R331, R354) -/

/-- What a DESTROY does: groups are discarded with their queues, pages are invalidated, kernels are unloaded, barriers are freed, the trace session is cut short. A started KLOAD or KEVICT runs to its end
(R295), and its kernel goes then. -/
def destroyCtx (s : State) (c : Nat) : State :=
  let s := modCtx s c fun x => { x with st := .closing, destroyDuringSwitch := false }
  let s := s.queues.foldl (fun s (q, x) =>
    if !queueOf x c then s
    else if x.st == .resetting then queueSettle (modQueue s q fun x => { x with destroying := true }) q
    else resetQueue s q 0) s
  let s := s.kernels.foldl (fun s k => if k.ctx = c ∧ k.st = .resident then dropKernel s c k.kid else s) s
  let s := s.barriers.foldl (fun s (b, x) => if x.st ≠ .free ∧ barCtx x = c then freeBarrier s b else s) s
  let s := dropExtents (modCtx s c fun x => { x with invals := [] }) c 0 0
  traceClose s c true

def execCtxcmdDestroy (fn c : Nat) (v : Word) (s : State) : Host.Outcome State Fault Refusal :=
  .next (ctxCmd s fn c 4 v (fun st => st == .opened || st == .active || st == .suspended || st == .switching) fun s =>
    let s' := modCtx s c fun x => { x with busy := true }
    if (ctx s c).st == .switching then ctxSettle (modCtx s' c fun x => { x with destroyDuringSwitch := true }) c false
    else destroyCtx s' c)

/-- Whether nothing of a context remains. -/
def ctxEmpty (s : State) (c : Nat) : Bool :=
  !(s.groups.any fun p => decide (p.2.ctx = c)) && !(s.queues.any fun p => queueOf p.2 c) && !(s.kernels.any fun k => decide (k.ctx = c))

/-- TEARDOWN_COMPLETE: a CLOSING context of which nothing remains is FREE, and its save-area key is gone. CTXID, OWNER and TENANT stay. After a DESTROY that met a switch, what a DESTROY
does comes about here. -/
def execTeardownComplete (c : Nat) (s : State) : Host.Outcome State Fault Refusal :=
  .next (if !devReady s || (ctx s c).st != .closing then s
    else
      let s := if (ctx s c).destroyDuringSwitch then destroyCtx s c else s
      if !ctxEmpty s c then s
      else
        let told := (ctx s c).busy
        let s := modCtx s c fun x => { x with st := .free, suspended := [], saveCells := none }
        if told then ctxCmdEnd s c 0 else s)

/-! ## Barriers (R329-R339) -/

def reachBarrier (s : State) (fn b : Nat) : Bool :=
  let x := barrier s b
  if x.st == .free then decide (fn = 0) else reachCtx s fn (barCtx x)

/-- A command written to BCMD with one of the defined codes (R272, R330): it runs with BUSY set, at once unless a phase is completing; one written while BUSY is set is ignored and sets ERR 0x07. -/
def barCmd (s : State) (fn b code : Nat) (v : Word) : State :=
  if !devReady s || !reachBarrier s fn b || decide (cmdCode v ≠ code) || decide (Config.objects ≤ b) then s
  else if (barrier s b).cmd.isSome then setBarrier s b { barrier s b with err := 7 }
  else barCmdRun (setBarrier s b { barrier s b with cmd := some (fn, code, v) }) b

def execBcmdCreate (fn b : Nat) (v : Word) (s : State) : Host.Outcome State Fault Refusal :=
  .next (barCmd s fn b 1 v)

def execBcmdReset (fn b : Nat) (v : Word) (s : State) : Host.Outcome State Fault Refusal :=
  .next (barCmd s fn b 2 v)

def execBcmdDestroy (fn b : Nat) (v : Word) (s : State) : Host.Outcome State Fault Refusal :=
  .next (barCmd s fn b 3 v)

/-- Whether a thread of a group waits on a barrier. -/
def waitsOn (x : Group) (b : Nat) : Bool :=
  x.image.threads.any fun (_, t) => (t.barWait.any fun w => decide (w.1 = b)) || t.blocks.any fun k => k.waits.any fun w => match w.2 with | .barw b' _ => decide (b' = b) | _ => false

/-- The BARTMO records (R425): for each group with a wait pending, or one without a group. -/
def barTimeoutRecords (s : State) (b : Nat) : State :=
  let gs := s.groups.filter fun p => waitsOn p.2 b
  if gs.isEmpty then record s (firstPresent s) 3 0x0C 0 (barCtx (barrier s b)) (b % 4096 * 2 ^ 16)
  else gs.foldl (fun s (g, _) => schRecord s g 0x0C (g % 2 ^ 16 + b % 4096 * 2 ^ 16)) s

/-- Whether a barrier's timer has reached its timeout; with `late`, whether it did so before this moment. -/
def timedOut (s : State) (x : Barrier) (late : Bool) : Bool :=
  match x.timer with
  | none => false
  | some t0 => x.st == .opened && decide (x.armedTmo ≠ 0) && decide (t0 + x.armedTmo * 1000 + (if late then 1 else 0) ≤ s.dtime)

/-- The timer of a barrier has expired: it breaks (R331, R333). -/
def breakBarrier (s : State) (b : Nat) : State :=
  let s := releaseWaits (barTimeoutRecords s b) b true
  setBarrier s b { barrier s b with st := .broken, timer := none }

/-- BARRIER_TIMEOUT: the timer reaches its timeout, and the barrier breaks (R331, R333). -/
def execBarrierTimeout (b : Nat) (s : State) : Host.Outcome State Fault Refusal :=
  .next (if devReady s && timedOut s (barrier s b) false then breakBarrier s b else s)

/-- Barriers whose timers expired as time passed are BROKEN before anything that comes later reaches them; a completing arrival of the same moment may still come first (R332, R333). -/
def breakOverdue (s : State) : State :=
  if devReady s then s.barriers.foldl (fun s (b, x) => if timedOut s x true then breakBarrier s b else s) s else s

/-- An external arrival that is not counted (R339). -/
def dropArrival (s : State) (b : Nat) : State :=
  let x := barrier s b
  setBarrier s b { x with extdrop := if x.extdrop = BitVec.allOnes 32 then x.extdrop else x.extdrop + 1 }

/-- EXTERNAL_ARRIVAL: a write to the external-arrive page. Host memory is as PCIe has delivered it (R132), so an arrival with Relaxed Ordering differs only in what it promises. -/
def execExternalArrival (fn b off size : Nat) (v : BitVec 32) (_relaxed : Bool) (s : State) : Host.Outcome State Fault Refusal :=
  let x := barrier s b
  .next (if !devReady s || x.st == .free || !barExt x || !reachCtx s fn (barCtx x) || decide (off ≠ 0) || decide (size ≠ 4) then s
    else if x.due then s
    else if x.st == .broken || decide (v ≠ x.phase) then dropArrival s b
    else arriveAt s b none)

/-- A read of BEXTDROP clears it. -/
def execBextdropRead (fn b : Nat) (s : State) : Host.Outcome State Fault Refusal :=
  .next (if readsServed s && reachBarrier s fn b then setBarrier s b { barrier s b with extdrop := 0 } else s)

end Sys2Proof.Machine
end

