-- ==== Sys2Proof/Machine/Groups.lean ====
section
/-! DEFINITION. The Sluice's decisions and the life of a group (R306-R320, R367-R371): placement, start, configurations, cuts, saves, parking, urgency, and the freeze line; circuits (R388). -/

namespace Sys2Proof.Machine

/-! ## Circuits (R388, R414) -/

/-- The lowest and the highest offset of a stream's elements. -/
def agHull (f : AgFrame) : Int × Int :=
  (List.range (f.ndim.toNat + 1)).foldl (fun p d =>
    let v := ((agCnt f d : Nat) : Int) * agStride f d
    if v < 0 then (p.1 + v, p.2) else (p.1, p.2 + v)) (0, 0)

/-- The package and HASID of the peer pages that hold every VA from va to hi, if they hold them. -/
def peerOnly (s : State) (c hi : Nat) : Nat → Nat → Option (Nat × Nat)
  | 0, _ => none
  | fuel + 1, va =>
    match walk s c va with
    | .error _ => none
    | .ok (e, size) =>
      if entryKind e ≠ 4 then none
      else
        let at_ := (fieldOf e 32 12, fieldOf e 16 16)
        let next := (va / 2 ^ size + 1) * 2 ^ size
        if hi < next then some at_
        else match peerOnly s c hi fuel next with
          | some p => if p = at_ then some at_ else none
          | none => none

/-- The home of a stream that a circuit can carry: an AGLIN or AGND in gm, all of whose pages are peer pages of one package. -/
def circHome (s : State) (c : Nat) (fr : Frame) : Option (Nat × Nat) :=
  let f := agFrameOf fr
  if !has [0x280, 0x281] (fieldOf fr 0 10) || f.spc ≠ .gm || decide (2 ^ 57 ≤ f.base.toNat) then none
  else
    let (lo, hi) := agHull f
    let w : Int := (Ty.width f.ty / 8 : Nat)
    let a := (f.base.toNat : Int) + lo * w
    let b := (f.base.toNat : Int) + hi * w + w - 1
    if a < 0 ∨ (2 ^ 57 : Int) ≤ b then none
    else match peerOnly s c b.toNat (2 ^ 41) a.toNat with
      | some p => if p.1 = s.pkgid.toNat then none else some p
      | none => none

/-- The lowest free circuit lane group of the lowest link that may carry a circuit of a context to a package. -/
def freeCircuit (s : State) (c pkg : Nat) : Option (Nat × Nat) :=
  match (linksFor s pkg).find? fun n => linkTrustedFor s n c && !(link s n).revoking with
  | none => none
  | some n =>
    let l := link s n
    ((List.range 6).find? fun g => !l.circuits.getLsbD g && !l.packetGroups.getLsbD g && (l.lanes.getLsbD (2 * g) || l.lanes.getLsbD (2 * g + 1))).map fun g => (n, g)

/-- The setup packet of a stream: its frame, the index of its next element, and its lane group. (Model: DESIGN CHOICE, unsafe: notes/assumptions 42) -/
def setupData (a : AgState) (lg : Nat) : List Byte := bytesOf 32 a.frame.toNat ++ (List.range 4).flatMap (fun d => bytesOf 8 ((a.i[d]?).getD 0)) ++ bytesOf 8 lg

/-- Flits that have left on a circuit lane group. A bound stream's own copy of its setup packet keeps that number in place of a nonce. -/
def circSent (s : State) (n lg : Nat) : Nat := (s.outbox.filter fun p => decide (p.1 = n ∧ p.2.1 = 16 + lg)).length

/-- A stream is bound to a circuit, when one is free and its setup packet can leave. (Model: DEDUCED, unsafe: notes/assumptions 85) -/
def bindCircuit (s : State) (g gi tile lane : Nat) : State :=
  match grp? s g, ag? s g gi tile lane with
  | some x, some a =>
    if gangHeld s g || a.ended || a.inDone || a.owed.isSome || a.circuit.isSome || (decide (lane = 0) && decide (mtFnOp s g gi tile = 0x289)) || (circReq? s g gi tile lane).isSome then s
    else match circHome s x.ctx a.frame with
      | none => s
      | some (pkg, hasid) =>
        match freeCircuit s x.ctx pkg with
        | none => s
        | some (n, lg) =>
          let p : Packet := { src := s.pkgid, dst := BitVec.ofNat 12 pkg, hasid := BitVec.ofNat 16 hasid, tag := nextTag s, va := 0, jobid := jobOf s x.ctx, flag := 0
                              data := setupData a lg }
          match txPacket s n 0 8 p with
          | none => s
          | some s =>
            let r : Req := { tag := p.tag.toNat, ptype := 8, home := pkg, pkt := { p with nonce := BitVec.ofNat 96 (circSent s n lg) }, sent := s.dtime, link := n, dest := .ag g gi tile lane 0 }
            let s := modLink { s with reqs := s.reqs ++ [r], fresh := s.fresh + 1 } n fun l =>
              { l with holders := Tab.set l.holders lg (g, gi, tile, lane), circuits := l.circuits ||| (1#6 <<< lg) }
            modAg s g gi tile lane fun a => { a with circuit := some (n, lg), circBuf := [] }
  | _, _ => s

/-- The streams of a graph are bound as it loads, or resumes. -/
def bindCircuits (s : State) (g gi : Nat) : State :=
  match graph? s g gi with
  | none => s
  | some gr => gr.tiles.foldl (fun s (t, _) => bindCircuit (bindCircuit s g gi t 0) g gi t 1) s

/-- The circuits of every graph of a group. -/
def bindAll (s : State) (g : Nat) : State :=
  match grp? s g with
  | none => s
  | some x => x.image.graphs.foldl (fun s (gi, _) => bindCircuits s g gi) s

/-! ## The gang's messages (R325, R326, R393) -/

/-- Gang messages. -/
inductive GangMsg where
  | arm | go | goack | allgo | abort | done | gangdone
  deriving DecidableEq, Repr

def GangMsg.code : GangMsg → Nat
  | .arm => 0 | .go => 1 | .goack => 2 | .allgo => 3 | .abort => 4 | .done => 5 | .gangdone => 6

/-- A gang message leaves for a member's package: the one that a message of that member has come from, and 0xFFF on the lowest link that is up until one has, for a LAUNCH does not name
it. (Model: DESIGN CHOICE, unsafe: notes/assumptions 84) -/
def gangPacket (x : Group) (y : Gang) (m : GangMsg) (s : State) (member : Nat) : State :=
  let pkg := Tab.get y.pkgs member 0xFFF
  match (linksFor s pkg).head?.or ((List.range 36).find? fun n => linkCounts (link s n)) with
  | none => s
  | some n =>
    let p : Packet := { src := s.pkgid, dst := BitVec.ofNat 12 pkg, hasid := 0, tag := nextTag s, va := 0, jobid := jobOf s x.ctx, flag := BitVec.ofNat 21 (GangMsg.code m)
                        data := bytesOf 4 y.id.toNat ++ bytesOf 4 (y.midx + y.nmem * 2 ^ 4 + member * 2 ^ 8 + y.gto * 2 ^ 16) }
    { leave s n 0 9 p with fresh := s.fresh + 1 }

/-- A member's message goes to the coordinator; the coordinator's goes to each of the other members (R325). -/
def gangSend (s : State) (x : Group) (y : Gang) (m : GangMsg) : State :=
  if y.midx ≠ 0 then gangPacket x y m s 0 else (List.range y.nmem).foldl (fun s i => gangPacket x y m s (i + 1)) s

def modGang (s : State) (g : Nat) (f : Gang → Gang) : State := modGrp s g fun x => { x with gang := x.gang.map f }

/-- A member aborts: it tells the coordinator, or, as coordinator, every member; its group is discarded with GANG_ABORT. -/
def gangAbortHere (s : State) (g : Nat) : State :=
  match grp? s g with
  | none => s
  | some x =>
    if x.ending.isSome then s
    else match x.gang with
      | none => s
      | some y => endGroup (gangSend (schRecord s g 0x0F (g % 2 ^ 16)) x y .abort) g 5 0

/-- The gang members of an id on this package. -/
def gangMembers (s : State) (id : BitVec 32) : List (Nat × Group × Gang) :=
  s.groups.filterMap fun (g, x) => x.gang.bind fun y => if y.id = id ∧ x.ending = none then some (g, x, y) else none

/-- The coordinator of a gang, where it is on this package. -/
def gangHead (s : State) (id : BitVec 32) : Option (Nat × Group × Gang) := (gangMembers s id).find? fun p => decide (p.2.2.midx = 0)

/-- Whether a list holds every member. -/
def allMembers (y : Gang) (l : List Nat) : Bool := (List.range (y.nmem + 1)).all fun m => has l m

/-- A member's package, as a message from there tells it. -/
def gangKnow (s : State) (id : BitVec 32) (midx : Nat) (pkg : BitVec 12) : State :=
  (gangMembers s id).foldl (fun s (g, _, y) => if y.midx = midx then s else modGang s g fun y => { y with pkgs := Tab.set y.pkgs midx pkg.toNat }) s

/-- GO is taken by a member: it begins, and answers GOACK. -/
def gangGoHere (s : State) (id : BitVec 32) : State :=
  (gangMembers s id).foldl (fun s (g, x, y) =>
    if x.state == .armed && !y.go then
      let s := modGang (modGrp s g fun x => { x with state := .running, idleSince := s.cycle }) g fun y => { y with go := true }
      if y.midx = 0 then modGang s g fun y => { y with goacks := 0 :: y.goacks } else gangSend s x y .goack
    else s) s

/-- ALLGO is taken by a member: what waited for it may proceed. -/
def gangAllgoHere (s : State) (id : BitVec 32) : State :=
  afterStores ((gangMembers s id).foldl (fun s (g, _, _) => modGang s g fun y => { y with allgo := true }) s)

/-- The coordinator has every GOACK. -/
def gangAcked (s : State) (id : BitVec 32) : State :=
  match gangHead s id with
  | some (_, x, y) => if y.go && !y.allgo && allMembers y y.goacks then gangAllgoHere (gangSend s x y .allgo) id else s
  | none => s

/-- The coordinator has every ARM. -/
def gangArmed (s : State) (id : BitVec 32) : State :=
  match gangHead s id with
  | some (_, x, y) => if !y.go && x.state == .armed && allMembers y y.arms then gangAcked (gangGoHere (gangSend s x y .go) id) id else s
  | none => s

/-- The coordinator hears a member's ARM; members that disagree abort the gang. -/
def gangHear (s : State) (id : BitVec 32) (midx : Nat) (nmem : BitVec 4) (gto : BitVec 16) (pkg : BitVec 12) : State :=
  match gangHead s id with
  | none => { s with earlyArms := s.earlyArms ++ [(id, midx, nmem, gto, pkg)] }
  | some (g, _, y) =>
    let s := gangKnow s id midx pkg
    if nmem.toNat ≠ y.nmem ∨ gto.toNat ≠ y.gto then gangAbortHere s g
    else gangArmed (modGang s g fun y => { y with arms := midx :: y.arms }) id

/-- A gang member is placed: it is ARMED, its timer starts, and its ARM goes to the coordinator. -/
def gangArmHere (s : State) (g : Nat) : State :=
  match grp? s g with
  | none => s
  | some x =>
    match x.gang with
    | none => s
    | some y =>
      let s := modGang s g fun y => { y with timerStart := s.dtime }
      if y.midx ≠ 0 then gangSend s x y .arm
      else
        let early := s.earlyArms.filter fun e => decide (e.1 = y.id)
        let s := { s with earlyArms := s.earlyArms.filter fun e => decide (e.1 ≠ y.id) }
        let s := gangHear s y.id 0 (BitVec.ofNat 4 y.nmem) (BitVec.ofNat 16 y.gto) s.pkgid
        early.foldl (fun s e => gangHear s y.id e.2.1 e.2.2.1 e.2.2.2.1 e.2.2.2.2) s

/-- A member is done: its completion waits for GANGDONE. -/
def gangDoneAll (s : State) (id : BitVec 32) : State :=
  (gangMembers s id).foldl (fun s (g, _, y) => if y.done then endGroup s g 0 g else s) s

def gangHearDone (s : State) (id : BitVec 32) (midx : Nat) : State :=
  match gangHead s id with
  | none => s
  | some (g, x, y) =>
    let y := { y with dones := midx :: y.dones }
    let s := modGang s g fun _ => y
    if allMembers y y.dones then gangDoneAll (gangSend s x y .gangdone) id else s

/-- The package that the gang's message at hand has come from. -/
def gangFrom (s : State) : BitVec 12 := BitVec.ofNat 12 s.part

/-- GANG_ARM: the coordinator receives the ARM of a member at a package. -/
def execGangArm (gang : BitVec 32) (midx : Nat) (nmem : BitVec 4) (gto : BitVec 16) (s : State) : Host.Outcome State Fault Refusal :=
  .next (if devReady s then gangHear s gang midx nmem gto (gangFrom s) else s)
/-- GANG_GO: a member receives GO from the coordinator's package. -/
def execGangGo (gang : BitVec 32) (s : State) : Host.Outcome State Fault Refusal :=
  .next (if devReady s then gangGoHere (gangKnow s gang 0 (gangFrom s)) gang else s)
def execGangGoack (gang : BitVec 32) (midx : Nat) (s : State) : Host.Outcome State Fault Refusal :=
  .next (match gangHead s gang with
    | some (g, _, _) => if devReady s then gangAcked (modGang s g fun y => { y with goacks := midx :: y.goacks }) gang else s
    | none => s)
def execGangAllgo (gang : BitVec 32) (s : State) : Host.Outcome State Fault Refusal :=
  .next (if devReady s then gangAllgoHere s gang else s)
def execGangAbort (gang : BitVec 32) (s : State) : Host.Outcome State Fault Refusal :=
  .next (if devReady s then (gangMembers s gang).foldl (fun s (g, _, _) => gangAbortHere s g) s else s)
def execGangDone (gang : BitVec 32) (midx : Nat) (s : State) : Host.Outcome State Fault Refusal :=
  .next (if devReady s then gangHearDone s gang midx else s)
def execGangdone (gang : BitVec 32) (s : State) : Host.Outcome State Fault Refusal :=
  .next (if devReady s then gangDoneAll s gang else s)

/-- A member's timer expires before ALLGO. -/
def execGangTimeout (g : Nat) (s : State) : Host.Outcome State Fault Refusal :=
  .next (match grp? s g with
    | some x => match x.gang with
      | some y => if devReady s && placed x && !y.allgo && decide (y.timerStart + y.gto * 1000 ≤ s.dtime) then gangAbortHere s g else s
      | none => s
    | none => s)

/-- The members here that know another member to be at a package that has become unreachable abort before the gang completes, the coordinator for all (R326). -/
def gangUnreachable (s : State) (lost : Nat → Bool) : State :=
  s.groups.foldl (fun s (g, x) =>
    if (x.gang.any fun y => y.pkgs.any fun p => decide (p.2 ≠ s.pkgid.toNat) && lost p.2) && placed x then gangAbortHere s g else s) s

/-! ## Placement (R307, R315, R316) -/

/-- The window image of a launch (R308): its 31 words, or why they cannot be read. -/
def windowImage (s : State) (c : Nat) (x : Group) : Except Nat (List Value) :=
  let va := ((x.args[9]?).getD 0).toNat
  if va = 0 then .ok (List.replicate 31 0)
  else if va % 128 ≠ 0 then .error 0
  else (List.range 31).foldl (fun r i =>
    match r, ownRead s c (va + 128 * i) 128 with
    | .error e, _ => .error e
    | .ok _, .error e => .error e
    | .ok l, .ok b => .ok (l ++ [(BitVec.ofNat 1024 (natOfBytes b) : Value)])) (.ok [])

/-- A group takes its place. -/
def takePlace (s : State) (g : Nat) (place : List (Nat × Nat × Nat)) : State :=
  modGrp s g fun x => { x with place := place.zipIdx.map fun (p, i) => (i, p), held := none, placedTime := s.dtime, idleSince := s.cycle }

/-- A context with a placed group is ACTIVE. -/
def ctxActive (s : State) (c : Nat) : State := modCtx s c fun x => if x.st == .opened then { x with st := .active } else x

/-- A launch is placed: its window image is there, it has its clusters, and it is to start, or, in a gang, to arm. -/
def placeLaunch (s : State) (g : Nat) (x : Group) (place : List (Nat × Nat × Nat)) : State :=
  match windowImage s x.ctx x with
  | .error cause => removeGroup s g x 4 (0x3200 + cause)
  | .ok l =>
    let s := modGrp (takePlace s g place) g fun x =>
      { latched s x with seedPlace := x.place, cutNo := 1, started := false, loaded := false, windows := l, state := if x.gang.isSome then .armed else .running }
    let s := ctxActive (schRecord s g 1 (g % 2 ^ 16 + x.queue % 4096 * 2 ^ 16 + x.effClass % 4 * 2 ^ 28)) x.ctx
    gangArmHere s g

/-- Elements and queues that a page fault had stopped issue the faulting access again. -/
def restartImage (p : Nat → Bool) (i : Image) : Image :=
  let agf (a : AgState) : AgState :=
    { a with stopped := if a.stopped.any fun t => p t.1 then none else a.stopped, held := a.held.filter fun h => !p (h.1 * 65536) }
  let pos (q : NodePos) : NodePos := if q.stop.any fun t => p t.1 then { q with stop := none } else q
  let tile (t : Tile) : Tile :=
    { t with mt := t.mt.map fun m => { m with ag0 := m.ag0.map agf, ag1 := m.ag1.map agf }
             ce := t.ce.map fun c => { c with waits := c.waits.map fun w => { w with pos := w.pos.map pos } } }
  { i with threads := Tab.mapVals i.threads fun _ t => { t with stops := t.stops.filter fun q => !p q.2.1 }
           graphs := Tab.mapVals i.graphs fun _ gr => { gr with tiles := Tab.mapVals gr.tiles fun _ t => tile t } }

/-- The debug unit of a group. -/
def unitOf (s : State) (g : Nat) : Option (Nat × Dbg) := s.dbgs.find? fun p => p.2.st != .free && decide (fieldOf p.2.grp 0 16 = g)

/-- A group has stopped for the debugger (R445). -/
def unitStopped (s : State) (g cutNo : Nat) : State :=
  let s := schRecord s g 7 (g % 2 ^ 16 + cutNo % 2 ^ 32 * 2 ^ 16)
  match unitOf s g with
  | some (u, d) => if d.st == .stopping then setDbg s u { d with st := .stopped, cutNo := BitVec.ofNat 32 cutNo } else s
  | none => s

/-- A SAVED group is placed: its spaces hold what was saved, and it goes on from its cut (R138, R307, R319); a stop that was held takes effect first (R446). -/
def placeSaved (s : State) (g : Nat) (x : Group) (place : List (Nat × Nat × Nat)) : State :=
  match readArea s g x with
  | .error s => s
  | .ok l =>
    let s := takePlace s g place
    let s := match grp? s g with | some y => fillSpaces s y l | none => s
    let s := modGrp s g fun y =>
      { latched s y with
               state := if y.stopHeld then .stopped else .running, poolUnits := 0, area := none, areaCells := [], savedSpaces := [], wakes := [], runnable := false
               image := freshTimes s.cycle (restartImage (fun _ => true) y.image) }
    let s := ctxActive (schRecord s g 3 (g % 2 ^ 16 + x.cutNo % 2 ^ 32 * 2 ^ 16)) x.ctx
    let s := barWaitSettle s g
    if x.stopHeld then unitStopped (modGrp s g fun y => { y with stopHeld := false }) g x.cutNo else bindAll s g

/-- SLUICE_DECISION for one launch: it is placed where it fits and no more urgent one does; or, as the most urgent one, which does not fit, it has victims cut for it. (Model: DEDUCED, safe: notes/assumptions 97) -/
def execSluiceDecision (g : Nat) (place : List (Nat × Nat × Nat)) (victims : List Nat) (s : State) : Host.Outcome State Fault Refusal :=
  .next (match grp? s g with
    | none => s
    | some x =>
      let ahead := ((waitingLaunches s).takeWhile fun p => decide (p.1 ≠ g))
      if !devReady s || s.wave.isSome || s.d3Pending || !placeable s x || decide (2 ≤ s.level) then s
      else if victims = [] then
        if ahead.any (fun p => fitsNow s p.1 p.2 []) || !placeFits (availFor s g []) (dpFree s x []) x.ncl place || !placeLiked s g x place then s
        else match x.state with
          | .admitted => placeLaunch s g x place
          | _ => placeSaved s g x place
      else if !ahead.isEmpty || fitsNow s g x [] || place ≠ [] || decide (victims ≠ victimsFor s g x) then s
      else victims.foldl (fun s h => modGrp s h fun y => { y with cutWhy := some .preempt, poolUnits := areaUnits y }) s)

/-! ## Start (R303, R307, R308) -/

/-- The window of a thread at placement (R308). -/
def startWindow (g th : Nat) (x : Group) (rest : List Value) : List Value :=
  let sr := th % 4 + th / 4 * 4 + clusterOfThread x th * 2 ^ 11
  let lanes := (List.range 10).map (fun i => ((x.args[i]?).getD 0).toNat) ++ [g, sr, x.ncl, x.dl, 0, 0]
  packList 1024 64 lanes :: rest

/-- The tracks that a resident graph holds. (Model: DEDUCED, safe: notes/assumptions 92) -/
def residentTracks (s : State) (k : Nat) (gr : Graph) : List (Nat × Nat) :=
  let sw := graphSw s k (graphFrames s k gr.dir)
  gr.chans.flatMap fun c => ((routeOf sw c.tile c.src).filter fun e => decide (e.out < 32)).map fun e => (e.tile, e.out)

/-- An AG of a graph that loads keeps no extent, and translates its gm BASE; a fault is held for the element that needs it (R303, R348). (Model: DEDUCED, safe: notes/assumptions 150) -/
def translateBase (g n c : Nat) (s : State) (tile lane : Nat) : State :=
  let s := { s with extents := Tab.erase s.extents (agHolder g n tile lane) }
  match ag? s g n tile lane with
  | none => s
  | some a =>
    let f := agFrameOf a.frame
    if f.spc ≠ .gm ∨ 2 ^ 57 ≤ f.base.toNat then s else agAhead s g n tile lane c f.base.toNat

/-- Configuration n of a group loads; a conflict of tracks with a graph that stays resident is IMG_BAD, and an uncorrectable error in the copy is fatal (R297, R303). -/
def loadConfig (s : State) (g n : Nat) : State :=
  match grp? s g with
  | none => s
  | some x =>
    match kernel? s x.ctx x.kid with
    | none => s
    | some k =>
      let key := copyKey s k
      match ((kernelEntries s key)[x.entry]?).bind fun e => e.graphs[n]? with
      | none => modGrp s g fun x => { x with config := n, loaded := true }
      | some i =>
        let (s, dead) := readCopy s k (copyHead s k ++ copyGraph s k i)
        if dead then s
        else
          let mine := graphTracks s key i
          if x.image.graphs.any fun (_, gr) => (residentTracks s key gr).any fun t => mine.any fun m => decide (m = t) then faultGroup s g 0x31 0x15
          else
            let gr := loadGraph s key i k.imgaddr x.args (x.fpctl.extractLsb' 8 5)
            let s := modGrp { s with fresh := s.fresh + 1 } g fun x => { x with config := n, loaded := true, idleSince := s.cycle, image := { x.image with graphs := Tab.set x.image.graphs n gr } }
            bindCircuits (gr.tiles.foldl (fun s (t, _) => translateBase g n x.ctx (translateBase g n x.ctx s t 0) t 1) s) g n

/-- GROUP_START: the spaces and accumulators are zero, the LFSRs seeded, the windows set, configuration 0 loaded, and the threads stand at the entry's block. -/
def execGroupStart (g : Nat) (s : State) : Host.Outcome State Fault Refusal :=
  .next (match grp? s g with
    | none => s
    | some x =>
      if !devReady s || x.state != .running || x.started || x.ending.isSome then s
      else match kernel? s x.ctx x.kid with
        | none => s
        | some k =>
          let key := copyKey s k
          let e := (kernelEntries s key)[x.entry]?
          let block := e.bind (·.block)
          let thread (th : Nat) : Thread :=
            { freshThread (match block with | some b => k.imgaddr + dirOff (imgDir s key b) | none => 0) with
              window := startWindow g th x x.windows, lastProgress := s.cycle, run := if block.isNone then .halted else .running }
          let im : Image := { threads := (List.range (4 * x.ncl)).map fun th => (th, thread th), graphs := [], lfsr := [], accs := [] }
          let (s, dead) := readCopy s k (copyHead s k)
          if dead then s else loadConfig (modGrp (zeroSpaces s x) g fun x => { x with started := true, image := im, idleSince := s.cycle }) g 0)

/-! ## Configurations (R128, R309, R310) -/

/-- Whether a region will send DONE: an MGO with LAST has entered a queue. -/
def regionEnds (gr : Graph) (m : Mc) : Bool :=
  match regionOrigin gr m with
  | some o => let r := regionState gr o; r.lastQueued || r.injected.any (·.2)
  | none => false

/-- Whether a tile's element lingers (R236, R252, R309). -/
def lingers (gr : Graph) (t : Tile) : Bool :=
  (t.mt.any fun m => m.fn.any fun f => has [0x28A, 0x28B, 0x28C] (fieldOf f.frame 0 10)) || (t.mc.any fun m => !regionEnds gr m)

/-- Whether a CE has nothing more to do. (Model: DEDUCED, safe: notes/assumptions 89) -/
def ceDone (gr : Graph) (tile : Nat) (c : Ce) : Bool :=
  ((List.range 8).all fun o => !routedOut gr tile o || has c.doneOut o) && c.frames.all (fun f => !f.live) && c.waits.isEmpty && c.stage.isEmpty
    && ((usedCounters c).isEmpty || c.noMore)

/-- Whether a tile's element has sent DONE wherever it sends. -/
def tileDone (gr : Graph) (tile : Nat) (t : Tile) : Bool :=
  (t.ce.all (ceDone gr tile)) && (t.su.all fun u => u.st.ended) && (t.mc.all fun m => m.ended)
    && (t.mt.all fun m => (m.ag0.all fun a => a.ended && decide (a.writesOwed = 0)) && (m.ag1.all fun a => a.ended && decide (a.writesOwed = 0)))

/-- Whether the stores of a graph have performed at the group's scope (R128). -/
def graphStored (s : State) (g gi : Nat) : Bool :=
  let mine (p : Nat × Nat) : Bool :=
    decide (p.1 = g) && ((decide (4096 + 16 * gi ≤ p.2) && decide (p.2 < 4112 + 16 * gi)) || (decide (8192 + gi * 2 ^ 19 ≤ p.2) && decide (p.2 < 8192 + (gi + 1) * 2 ^ 19)))
  !(s.clusters.any fun c => c.2.writeq.any fun e => mine e.party) && !(s.reqs.any fun r => match r.dest with | .store p _ => mine p | _ => false)

/-- Whether configuration n of a group has drained: all but its lingering elements have ended, their channels are empty, and nothing of theirs is outstanding. -/
def drained (s : State) (g : Nat) (x : Group) (n : Nat) : Bool :=
  match Tab.get? x.image.graphs n with
  | none => true
  | some gr =>
    let go := gr.tiles.filter fun p => !lingers gr p.2
    let gone (t : Nat) : Bool := go.any fun p => decide (p.1 = t)
    let rest : Graph := { gr with tiles := go }
    go.all (fun p => tileDone gr p.1 p.2) && gr.chans.all (fun c => !gone c.tile || c.nodes.all fun nd => nd.beats.isEmpty)
      && !accessOut { s with reqs := [] } g n rest && graphStored s g n
      && !(s.reqs.any fun r => match r.dest with | .load (.ce g' gi' t _ _) _ _ _ | .atomic (.ce g' gi' t _ _) _ _ | .ag g' gi' t _ _ => decide (g' = g ∧ gi' = n) && gone t | _ => false)

/-- The drained elements of a configuration are unloaded; what lingers stays. -/
def unloadDrained (s : State) (g n : Nat) : State :=
  modImage s g fun i =>
    match Tab.get? i.graphs n with
    | none => i
    | some gr =>
      let stay := gr.tiles.filter fun p => lingers gr p.2
      if stay.isEmpty then { i with graphs := Tab.erase i.graphs n }
      else { i with graphs := Tab.set i.graphs n { gr with tiles := stay, chans := gr.chans.filter fun c => stay.any fun p => decide (p.1 = c.tile) } }

/-- Configurations of the group's entry. -/
def configCount (s : State) (x : Group) : Nat :=
  match kernel? s x.ctx x.kid with
  | some k => (((kernelEntries s (copyKey s k))[x.entry]?).map fun e => e.graphs.length).getD 0
  | none => 0

/-- The quads whose CEs a configuration of a group's entry would take, as rank and quad. -/
def configQuads (s : State) (x : Group) (n : Nat) : List (Nat × Nat) :=
  match kernel? s x.ctx x.kid with
  | some k =>
    let key := copyKey s k
    match ((kernelEntries s key)[x.entry]?).bind fun e => e.graphs[n]? with
    | some i => ((graphFrames s key i).filter fun d => decide (dirKind d = 1 ∨ dirKind d = 2)).map fun d => (logicalCluster (dirTile d), dirTile d % 16 / 4)
    | none => []
  | none => []

/-- Whether a block in flight uses one of some quads (R12). (Model: DEDUCED, safe: notes/assumptions 90) -/
def quadBusy (x : Group) (l : List (Nat × Nat)) : Bool :=
  x.image.threads.any fun (th, t) => t.blocks.any fun k => l.any fun q => decide (q = (th / 4, k.quad))

/-- CONFIG_DRAIN: the current configuration has drained; its elements are unloaded, their tiles and tracks are free, and the next one loads, if there is one. (Model: DEDUCED, unsafe: notes/assumptions 130) -/
def execConfigDrain (g : Nat) (s : State) : Host.Outcome State Fault Refusal :=
  .next (match grp? s g with
    | none => s
    | some x =>
      if !devReady s || !(x.state == .running || x.state == .parked) || !x.started || !runsOn x || x.freeze.isSome || x.ending.isSome || !drained s g x x.config
          || quadBusy x (configQuads s x (x.config + 1)) then s
      else
        let s := unloadDrained s g x.config
        if x.config + 1 < configCount s x then loadConfig s g (x.config + 1) else s)

/-- Whether every thread of a group has halted. -/
def allHalted (x : Group) : Bool := x.image.threads.all fun p => p.2.run == .halted

/-- The readers that are parked at a group's sync words take PAGE_FAULT with cause 0x05 when their owner is unloaded (R345). Every one of them belongs to the group itself, which ends
with the unload, so none can show its fault. -/
def unloadLingering (s : State) (g : Nat) : State := modImage (ownerSettle s) g fun i => { i with graphs := [] }

/-- Whether an update has reached an MTOWN of a group that the owner has still to serve: the owner goes after it (R345). -/
def ownersBusy (x : Group) : Bool :=
  x.image.graphs.any fun (_, gr) => gr.tiles.any fun (t, y) => (y.mt.any fun m => m.fn.any fun f => decide (fieldOf f.frame 0 10 = 0x28A)) && (portHead gr t 2).isSome

/-- GROUP_COMPLETE: the threads have halted, the last configuration has drained, and nothing lingers, or what lingers is to be unloaded (R304, R310). The group's stores perform before its
record; a gang member tells the coordinator first. A group whose end has begun goes once its stores have performed. -/
def execGroupComplete (g : Nat) (s : State) : Host.Outcome State Fault Refusal :=
  .next (match grp? s g with
    | none => s
    | some x =>
      if !devReady s then s
      else if x.ending.isSome then finish s g
      else if !(x.state == .running || x.state == .parked) || !x.started || !runsOn x || x.freeze.isSome || !allHalted x || decide (x.config + 1 < configCount s x)
          || !drained s g x x.config then s
      else
        let unload := (kernel? s x.ctx x.kid).any fun k => k.st == .evicting && k.unload
        let rest := x.image.graphs.any fun (_, gr) => gr.tiles.any fun p => lingers gr p.2
        if rest && (!unload || ownersBusy x) then s
        else
          let s := unloadLingering (unloadDrained s g x.config) g
          match x.gang with
          | none => endGroup s g 0 g
          | some y =>
            if y.done || storesOut s g then s
            else
              let s := modGang s g fun y => { y with done := true }
              if y.midx = 0 then gangHearDone s y.id 0 else gangSend s x y .done)

/-! ## Cuts and saves (R317-R319, R367, R368) -/

/-- What the threads of a group wait on. -/
def threadWaits (s : State) (g : Nat) (x : Group) : List WakeOn :=
  x.image.threads.flatMap fun (th, t) =>
    (t.barWait.map fun w => WakeOn.barrier w.1)
      ++ (match t.blocks with
          | k :: _ => k.waits.filterMap fun w => match w.2 with
              | .reader g' _ tile byte => some (WakeOn.word g' tile byte)
              | .barw b _ => some (WakeOn.barrier b)
              | _ => none
          | [] => [])
      ++ s.queues.filterMap fun (q, y) => if y.waiters.any fun w => decide (w = (g, th)) then some (WakeOn.queue q) else none

/-- The VAs at which a group's elements and queues have stopped. -/
def stoppedVas (x : Group) : List Nat :=
  (x.image.threads.flatMap fun p => p.2.stops.map fun q => q.2.1)
    ++ x.image.graphs.flatMap fun (_, gr) => gr.tiles.flatMap fun (_, t) =>
      ((t.mt.toList.flatMap fun m => ([m.ag0, m.ag1].filterMap id).filterMap fun a => a.stopped.map (·.1)))
        ++ t.ce.toList.flatMap fun c => c.waits.flatMap fun w => w.pos.filterMap fun p => p.stop.map (·.1)

/-- CUT: block engines stop and their blocks are discarded; what a parked group waits on is recorded; waits are withdrawn; MARK is delivered, at once unless an element has stopped on a
page fault. -/
def execCut (g : Nat) (s : State) : Host.Outcome State Fault Refusal :=
  .next (match grp? s g with
    | none => s
    | some x =>
      if !devReady s || !(x.state == .running || x.state == .parked) || !x.started || x.cutWhy.isNone || x.freeze.isSome || x.ending.isSome then s
      else
        let waits := if x.state == .parked then threadWaits s g x else []
        let s := x.image.threads.foldl (fun s (th, _) => discardBlocks s g th) s
        modGrp s g fun y =>
          { y with state := .cutting, cutNo := x.cutNo + 1, marksGo := (stoppedVas x).isEmpty, markStill := false, idleSince := s.cycle
                   wakes := waits ++ (stoppedVas x).map .page, runnable := waits.isEmpty && (x.state != .parked || (stoppedVas x).isEmpty) })

/-- Whether an access of a group is outstanding. -/
def groupOut (s : State) (g : Nat) : Bool :=
  storesOut s g || (s.reqs.any fun r => decide (r.ptype ≠ 8) && decide (destGroup r.dest = some g))
    || s.pcie.any fun r => match r with | .read _ _ d | .atomic _ _ _ _ _ d => decide (destGroup d = some g) | _ => false

/-- QUIESCENT: no token of the group has moved for 64 cycles and nothing but stopped elements' accesses is outstanding, so a cut delivers its MARKs (R368). (Model: DEDUCED, safe: notes/assumptions 91) -/
def execQuiescent (g : Nat) (s : State) : Host.Outcome State Fault Refusal :=
  .next (match grp? s g with
    | none => s
    | some x =>
      if !devReady s || x.state != .cutting || x.marksGo || x.saving || decide (s.cycle < x.idleSince + 64) || groupOut s g then s
      else modGrp s g fun x => { x with marksGo := true, markStill := true })

/-- Whether the queues of a thread let its group's cut complete: issued instructions have retired, but for an MGO whose pass goes on, a queue that a page fault has stopped, and an
instruction whose push finds its FIFO full. -/
def queuesSaved (t : Thread) : Bool :=
  [Qu.ct, .tm, .mx, .cl].all fun q =>
    (Tab.get? t.stops (Qu.code q)).isSome || (engQueue t q).all fun e =>
      !e.issued || decide (opOfWord e.word = 0x148) || (e.done && (match pushOfWord e.word with | some p => decide (16 ≤ fifoCount t q p) | none => false))

/-- The elements' notes of the cuts that they have saved for are gone, and so are MARKs that no element took. -/
def clearMarks (c : Nat) (i : Image) : Image :=
  let tile (t : Tile) : Tile :=
    { t with ce := t.ce.map fun c => { c with marks := [] }, su := t.su.map fun u => { u with st := { u.st with marks := [] } }, mc := t.mc.map fun m => { m with marks := [] }
             mt := t.mt.map fun m =>
              { m with fn := m.fn.map (fun f => { f with marks := [] }), ag0 := m.ag0.map (fun a => { a with marks := [] }), ag1 := m.ag1.map (fun a => { a with marks := [] }) } }
  let left (b : List Token) : List Token := b.filter fun t => !(decide (kindOf t = 7) && decide (fieldOf t.payload 0 32 = c))
  { i with graphs := Tab.mapVals i.graphs fun _ gr =>
      { gr with tiles := Tab.mapVals gr.tiles fun _ t => tile t
                chans := gr.chans.map fun h => { h with nodes := h.nodes.map fun n => { n with beats := (n.beats.map left).filter fun b => !b.isEmpty } } } }

/-- A checkpoint cut ends: the group goes on at once. -/
def runOn (s : State) (g : Nat) : State :=
  bindAll (modGrp s g fun x => { x with state := .running, cutWhy := none, marksGo := false, wakes := [], runnable := false, idleSince := s.cycle, image := freshTimes s.cycle x.image }) g

/-- What a cut saves of a group's gates: their spill rings besides their state (R226). -/
def ringsKept (s : State) (x : Group) : Image :=
  { x.image with graphs := Tab.mapVals x.image.graphs fun _ gr =>
      { gr with tiles := Tab.mapVals gr.tiles fun t y => { y with su := y.su.map fun u => { u with st := { u.st with ring := if fieldOf u.frame 0 10 = 0x20A ∧ u.frame.getLsbD 160 then ringEntries s x t (suFrameOf u.frame) u.st else [] } } } } }

/-- A rollback gives the gates of a group their spill rings back, as the cut saved them. -/
def ringsBack (s : State) (x : Group) (i : Image) : State :=
  i.graphs.foldl (fun s (_, gr) => gr.tiles.foldl (fun s (t, y) => match y.su with | some u => ringRestore s x t (suFrameOf u.frame) u.st | none => s) s) s

/-- CUT_COMPLETE: every element and thread has saved and every earlier access has performed. The cut replaces the rollback point; then a checkpoint runs on, a stop stands, and a
pre-emption or a switch saves. (Model: DEDUCED, safe: notes/assumptions 86) -/
def execCutComplete (g : Nat) (s : State) : Host.Outcome State Fault Refusal :=
  .next (match grp? s g with
    | none => s
    | some x =>
      let c := x.cutNo
      if !devReady s || x.state != .cutting || x.saving || !x.marksGo || x.freeze.isSome || x.ending.isSome || groupOut s g
          || x.image.graphs.any (fun (_, gr) => gr.tiles.any fun p => !tileSaved p.2 c) || x.image.threads.any (fun p => !queuesSaved p.2) then s
      else
        let im := clearMarks c (ringsKept s x)
        let s := modGrp s g fun x => { x with image := im, rollback := some (c, im), rollbackUsed := false }
        match x.cutWhy with
        | some .check => runOn s g
        | some .debug =>
          unitStopped (modGrp s g fun x => { x with state := .stopped, cutWhy := none, marksGo := false, wakes := [], runnable := false }) g c
        | _ => modGrp (schRecord s g 2 (g % 2 ^ 16 + c % 2 ^ 32 * 2 ^ 16)) g fun x => { x with saving := true })

/-- Budget that a placed group has consumed, in ns of one cluster (R313). -/
def consumed (s : State) (x : Group) : Nat := x.budgetUsed + (if placed x then x.ncl * (s.dtime - x.placedTime) else 0)

/-- A save ends: the group's spaces stand in the pool, or, when its context is being switched, in the save area; its clusters are free. -/
def execSaveComplete (g : Nat) (s : State) : Host.Outcome State Fault Refusal :=
  .next (match grp? s g with
    | none => s
    | some x =>
      if !devReady s || !x.saving || x.ending.isSome then s
      else if (ctx s x.ctx).destroyDuringSwitch then endGroup s g 3 0
      else match s.poison.find? fun w => onChipWord w && (areaOffset x (8 * w)).isSome with
      | some w => eccRaise s w
      | none =>
        let switching := (ctx s x.ctx).st == .switching
        let s := if switching then toSaveArea s x.ctx g (spaceCells s x)
          else match poolPlace s (areaUnits x) with
            | some pa => saveTo s g pa
            | none => modGrp s g fun y => { y with savedSpaces := spaceCells s x, area := none, areaCells := [] }
        let cls := clustersOf x
        let s := modGrp s g fun y =>
          { y with state := .saved, saving := false, cutWhy := none, marksGo := false, budgetUsed := consumed s x, waitStart := s.dtime
                   runnable := y.runnable || y.wakes.isEmpty }
        ctxSettle (holdFreed s cls) x.ctx false)

/-! ## Parking, urgency, budget, deadline (R312, R313, R315, R320) -/

/-- Whether a thread waits or has halted (R320). -/
def threadIdle (s : State) (g th : Nat) (t : Thread) : Bool :=
  t.run == .halted || !t.barWait.isEmpty || (s.queues.any fun p => p.2.waiters.any fun w => decide (w = (g, th)))
    || (match t.blocks with
        | k :: _ => k.waits.any fun w => match w.2 with | .reader _ _ _ _ | .barw _ _ | .spawnTag _ _ => true | _ => false
        | [] => false)

/-- What of a gang member's group waits for ALLGO: its graphs, or a collective at the head of a queue (R325). -/
def gangWaits (s : State) (g : Nat) (x : Group) : Bool :=
  gangHeld s g && (!x.image.graphs.isEmpty || x.image.threads.any fun p => !p.2.clq.isEmpty || !p.2.arrivals.isEmpty)

/-- GROUP_PARK: for 1,024 cycles every thread has waited or been halted, and no token has moved. A wait for ALLGO does not park a group (R325). -/
def execGroupPark (g : Nat) (s : State) : Host.Outcome State Fault Refusal :=
  .next (match grp? s g with
    | none => s
    | some x =>
      if !devReady s || x.state != .running || !x.started || x.cutWhy.isSome || x.freeze.isSome || x.ending.isSome || decide (s.cycle < x.idleSince + 1024)
          || !x.image.threads.all (fun p => threadIdle s g p.1 p.2) || gangWaits s g x then s
      else modGrp (schRecord s g 5 (g % 2 ^ 16)) g fun x => { x with state := .parked })

/-- PROMOTE: a launch that has waited long enough moves up one class, never to realtime. -/
def execPromote (g : Nat) (s : State) : Host.Outcome State Fault Refusal :=
  .next (match grp? s g with
    | none => s
    | some x =>
      let p := promoteOf s x.effClass
      if !devReady s || !(x.state == .admitted || x.state == .saved) || decide (p = 0) || decide (x.effClass < 2) || decide (s.dtime < x.waitStart + p) then s
      else modGrp s g fun x => { x with effClass := x.effClass - 1, waitStart := s.dtime })

/-- CLUSTER_HOLD: the most urgent launch, of realtime or interactive class, has waited 1 ms: the clusters that free from now on are held for it. -/
def execClusterHold (g : Nat) (s : State) : Host.Outcome State Fault Refusal :=
  .next (match waitingLaunches s with
    | (h, x) :: _ =>
      if devReady s && decide (h = g) && decide (x.effClass ≤ 1) && x.held.isNone && decide (x.waitStart + 1000000 ≤ s.dtime) then
        { s with groups := Tab.mapVals s.groups fun k y => { y with held := if k = g then some 0 else none } }
      else s
    | [] => s)

/-- BUDGET: a group that has used up its budget becomes background, and keeps running. -/
def execBudget (g : Nat) (s : State) : Host.Outcome State Fault Refusal :=
  .next (match grp? s g with
    | none => s
    | some x =>
      if !devReady s || decide (x.budget = 0) || decide (consumed s x < x.budget * 1000) then s
      else modGrp s g fun x => { x with effClass := 3, key := x.startTime + implOf s 3, budget := 0 })

/-- DEADLINE: DTIME passes a group's deadline: one DLMISS record, and its waiting QPUTWs end with st 1 where no slot has freed before (R294, R313). -/
def execDeadline (g : Nat) (s : State) : Host.Outcome State Fault Refusal :=
  .next (match grp? s g with
    | none => s
    | some x =>
      if !devReady s || decide (x.dl = 0) || x.missed || decide (s.dtime ≤ x.dl) || x.ending.isSome then s
      else
        let s := modGrp (schRecord s g 4 (g % 2 ^ 16)) g fun x => { x with missed := true }
        s.queues.foldl (fun s (q, y) =>
          let mine := y.waiters.filter fun w => decide (w.1 = g)
          if mine = [] || !queueFull y then s
          else mine.foldl (fun s w => failWaiter s q w 1) (setQueue s q { y with waiters := y.waiters.filter fun w => decide (w.1 ≠ g) })) s)

/-! ## The freeze line (R369-R371) -/

/-- The answers that a frozen group awaits come to nothing. -/
def forgetDest (g : Nat) (d : Dest) : Dest :=
  match d with
  | .store p _ => if p.1 = g then .store p none else d
  | _ => if destGroup d = some g then .load .none 0 0 0 else d

/-- Accesses of a frozen group perform whole, and nothing of it waits for them any more (R139). -/
def forgetAnswers (s : State) (g : Nat) : State :=
  { s with
    reqs := s.reqs.map fun r => if r.ptype = 8 then r else { r with dest := forgetDest g r.dest }
    pcie := s.pcie.map fun r => match r with
      | .write l p n => .write l p (if p.1 = g then none else n)
      | .read k n d => .read k n (forgetDest g d)
      | .atomic k n op b c d => .atomic k n op b c (forgetDest g d)
    clusters := Tab.mapVals s.clusters fun _ c => { c with writeq := c.writeq.map fun e => if e.party.1 = g then { e with note := none } else e }
    meetings := s.meetings.filter fun m => !(m.own.any fun o => decide (o.1 = g)) }

/-- The circuits of a group that is rolled back: their homes are told to stop, and the lane groups stay taken until they have. -/
def closeCircuits (s : State) (g : Nat) : State :=
  s.reqs.foldl (fun s r =>
    if r.ptype = 8 ∧ destGroup r.dest = some g then (txPacket s r.link 0 8 { r.pkt with flag := 2, data := [] }).getD s else s) s

/-- The debug unit of a group whose stop is abandoned (R445). -/
def unitAbandoned (s : State) (g : Nat) : State :=
  match unitOf s g with
  | some (u, d) => if d.st == .stopping then setDbg s u { d with st := .attached } else s
  | none => s

/-- The FLINE record of each cluster of a group, with the largest skid of its elements (R369, R426). -/
def lineRecords (s : State) (g : Nat) (x : Group) (f : FaultInfo) : State :=
  (clustersOf x).foldl (fun s cl =>
    let skid := (x.skids.filter fun p => decide (logicalCluster (p.1 % 2 ^ 18) = cl)).foldl (fun a p => max a p.2) 0
    record s cl 3 9 0 x.ctx (g % 2 ^ 16 + f.code % 256 * 2 ^ 16 + (f.slot.getD 0) % 2 ^ 24 * 2 ^ 24 + skid % 2 ^ 6 * 2 ^ 48)) s

/-- FREEZE_LINE: the fault is recorded in each cluster; the group's blocks are discarded; then it is rolled back, saved at its rollback point, aborted with its gang, or ended. (Model: DEDUCED, unsafe: notes/assumptions 87) -/
def execFreezeLine (g : Nat) (s : State) : Host.Outcome State Fault Refusal :=
  .next (match grp? s g with
    | none => s
    | some x =>
      match x.freeze with
      | none => s
      | some f =>
        if !devReady s || s.wave.isSome || x.ending.isSome || !placed x then s
        else
          let s := lineRecords s g x f
          let s := x.image.threads.foldl (fun s (th, _) => discardBlocks s g th) s
          if x.gang.isSome then gangAbortHere s g
          else match x.rollback, x.rollbackUsed with
            | some (c, im), false =>
              let s := forgetAnswers (closeCircuits s g) g
              let s := modGrp (ringsBack s x im) g fun y => { y with image := freshTimes s.cycle im, rollbackUsed := true, freeze := none, marksGo := false, idleSince := s.cycle }
              let s := barWaitSettle s g
              match x.cutWhy with
              | some .preempt | some .suspend =>
                modGrp (schRecord s g 2 (g % 2 ^ 16 + x.cutNo % 2 ^ 32 * 2 ^ 16)) g fun y => { y with state := .cutting, saving := true, runnable := true, wakes := [] }
              | _ =>
                let s := modGrp s g fun y => { y with state := .running, cutWhy := none, wakes := [], runnable := false }
                bindAll (schRecord (unitAbandoned s g) g 0x0A (g % 2 ^ 16 + c % 2 ^ 32 * 2 ^ 16)) g
            | _, _ => faultGroup s g f.code f.cause)

end Sys2Proof.Machine
end

