-- ==== Sys2Proof/Machine/Registers.lean ====
section
/-! DEFINITION. Writes to BAR0 (R269-R271, R282, R296, R297, R314, R329, R347, R355, R384, R385, R404, R405, R437, R444, R449, R458, R462), invalidations (R351-R353), and
the zeroing of resident pages (R347). -/

namespace Sys2Proof.Machine

/-! ## Commands of the register blocks of event code 9 (R272, R296) -/

/-- The event of an ended command of a register block, for the function that wrote it. -/
def blockEvent (s : State) (fn block number err : Nat) : State := event s fn 9 block number err 0

def linkCmdEnd (s : State) (fn n err : Nat) : State := blockEvent (modLink s n fun l => { l with busy := false, err := BitVec.ofNat 8 err }) fn 1 n err
/-- A job-slot command ends, with its SEC JOB record (R426). -/
def jobCmdEnd (s : State) (j cmd err : Nat) : State :=
  let x := job s j
  let s := devRecord s 6 2 (j % 2 ^ 8 + cmd % 16 * 2 ^ 8 + err % 256 * 2 ^ 16)
  blockEvent (setJob s j { x with busy := false, err := BitVec.ofNat 8 err }) x.cmdFn 2 j err
/-- Model: DEDUCED, safe: notes/assumptions 63. -/
def dbgCmdEnd (s : State) (u err : Nat) : State := blockEvent (setDbg s u { dbg s u with err := BitVec.ofNat 8 err }) 0 3 u err
def capCmdEnd (s : State) (fn err : Nat) : State := blockEvent (setFn s fn { fnOf s fn with capBusy := false, capErr := BitVec.ofNat 8 err }) fn 4 0 err
def gateCmdEnd (s : State) (err : Nat) : State := blockEvent { s with gateErr := BitVec.ofNat 8 err } 0 5 0 err
def einjCmdEnd (s : State) (err : Nat) : State := blockEvent { s with einjerr := BitVec.ofNat 8 err } 0 6 0 err

/-- A code that a command register does not define. (Model: DEDUCED, unsafe: notes/assumptions 46) -/
def noCode (v : Word) (codes : List Nat) : Bool := !has codes (cmdCode v)

/-! ## Windows -/

/-- A context window (R268, R270, R271, R279, R355, R404). -/
def ctxRegWrite (s : State) (fn c r : Nat) (v : Word) : State :=
  let x := ctx s c
  let free := x.st == .free
  if r = 0x210 then if fn = 0 ∧ free then setCtx s c { x with owner := v.extractLsb' 0 6, tenant := v.extractLsb' 6 12 } else s
  else if !reachCtx s fn c then s
  else match r with
    | 0x200 => if noCode v [1, 2, 3, 4] then (if x.busy then setCtx s c { x with err := 7 } else ctxCmdEnd s c 1) else s
    | 0x218 => if free then setCtx s c { x with asid := v.extractLsb' 0 16, conf := v.getLsbD 16, maxcl := v.extractLsb' 17 9, maxdp := v.extractLsb' 26 14 } else s
    | 0x220 => if free then setCtx s c { x with csabase := BitVec.ofNat 64 (fieldOf v 16 36 * 65536) } else s
    | 0x228 => if free then setCtx s c { x with csasize := v.extractLsb' 0 24 } else s
    | 0x230 => if free then setCtx s c { x with ptroot := BitVec.ofNat 64 (fieldOf v 12 40 * 4096) } else s
    | 0x238 => setCtx s c { x with pgiva := BitVec.ofNat 64 (fieldOf v 16 41 * 65536) }
    | 0x240 => setCtx s c { x with pgilen := v.extractLsb' 0 32 }
    | 0x268 => if free then setCtx s c { x with ctxjob := v.extractLsb' 0 33 } else s
    | 0x090 => setCtx s c { x with stallcyc := v.extractLsb' 0 32 }
    | 0x098 => setCtx s c { x with samprate := v.extractLsb' 0 32 }
    | _ => s

/-- A queue window (R282). -/
def queueRegWrite (s : State) (fn q r : Nat) (v : Word) : State :=
  let x := queue s q
  let free := x.st == .free
  if !reachQueue s fn q then s
  else match r with
    | 0x000 => if noCode v [1, 2, 3, 4] then (if x.st == .resetting then setQueue s q { x with err := 7 } else queueCmdEnd s q 1) else s
    | 0x010 => if free then setQueue s q { x with cfg := BitVec.ofNat 64 (fieldOf v 0 20) } else s
    | 0x018 => if free then setQueue s q { x with qbase := v } else s
    | 0x020 => if free then setQueue s q { x with cqbase := v } else s
    | _ => s

/-- A barrier window (R329). -/
def barRegWrite (s : State) (fn b r : Nat) (v : Word) : State :=
  let x := barrier s b
  if !reachBarrier s fn b then s
  else match r with
    | 0x000 => if noCode v [1, 2, 3] then (if x.cmd.isSome then setBarrier s b { x with err := 7 } else barCmdEnd s b fn 1) else s
    | 0x010 => if x.st == .free then setBarrier s b { x with cfg := BitVec.ofNat 64 (fieldOf v 0 16 + fieldOf v 32 32 * 2 ^ 32) } else s
    | 0x018 => setBarrier s b { x with tmo := v.extractLsb' 0 32 }
    | _ => s

/-- A job-slot window (R405). -/
def jobRegWrite (s : State) (j r : Nat) (v : Word) : State :=
  let x := job s j
  match r with
  | 0x000 => if noCode v [1, 2, 3, 4] then (if x.busy then setJob s j { x with err := 7 } else jobCmdEnd (setJob s j { x with cmdFn := 0 }) j (cmdCode v) 1) else s
  | 0x010 => if x.st == .free then setJob s j { x with jobid := v.extractLsb' 0 32 } else s
  | 0x018 => setJob s j { x with keyblob := BitVec.ofNat 64 (fieldOf v 6 46 * 64) }
  | 0x020 => setJob s j { x with manbase := BitVec.ofNat 64 (fieldOf v 6 46 * 64) }
  | 0x028 => setJob s j { x with manlen := v.extractLsb' 0 24 }
  | _ => s

/-- A debug-unit window (R444). Bits of WPCFG, WPADDR, TBCFG and DBGSEL that R444 neither lists nor reserves are kept as written. (Model: DEDUCED, unsafe: notes/assumptions 145) -/
def dbgRegWrite (s : State) (u r : Nat) (v : Word) : State :=
  let x := dbg s u
  if r = 0x000 then (if noCode v [1, 2, 3, 4, 5] then dbgCmdEnd s u 1 else s)
  else if r = 0x010 then (if x.st == .free then setDbg s u { x with grp := BitVec.ofNat 64 (fieldOf v 0 28) } else s)
  else if r = 0x018 then setDbg s u { x with sel := v }
  else if 0x040 ≤ r ∧ r < 0x0C0 then
    let w := (r - 0x040) / 16
    if r % 16 = 0 then setDbg s u { x with wpcfg := Tab.set x.wpcfg w v } else setDbg s u { x with wpaddr := Tab.set x.wpaddr w v }
  else if r = 0x0C0 then setDbg s u { x with brkid := v }
  else if r = 0x0C8 then setDbg s u { x with brken := v.extractLsb' 0 4 }
  else if 0x0D0 ≤ r ∧ r < 0x110 then
    let t := (r - 0x0D0) / 16
    if r % 16 = 0 then setDbg s u { x with tbcfg := Tab.set x.tbcfg t v }
    else setDbg s u { x with tbcnt := Tab.set x.tbcnt t (setField (BitVec.ofNat 64 (fieldOf v 0 32)) 32 1 (boolBit ((Tab.get x.tbcnt t 0).getLsbD 32))) }
  else s

/-- The registers that every function has (R296, R437). (Model: DEDUCED, unsafe: notes/assumptions 77) -/
def ownRegWrite (s : State) (fn off : Nat) (v : Word) : State :=
  let x := fnOf s fn
  match off with
  | 0x2000 => setFn s fn { x with evbase := BitVec.ofNat 64 (fieldOf v 6 58 * 64) }
  | 0x2008 =>
    let n := fieldOf v 0 5
    if n = 0 ∨ (4 ≤ n ∧ n ≤ 16) then setFn s fn { x with evsize := v.extractLsb' 0 5 } else s
  | 0x2018 => setFn s fn { x with evcons := v.extractLsb' 0 32 }
  | 0x7000 => if noCode v [1, 2] then (if x.capBusy then setFn s fn { x with capErr := 7 } else capCmdEnd s fn 1) else s
  | 0x7010 => setFn s fn { x with capbuf := BitVec.ofNat 64 (fieldOf v 6 46 * 64) }
  | 0x7018 => setFn s fn { x with caplen := v.extractLsb' 0 32 }
  | _ => s

/-- Whether an Erdor link is above DOWN. -/
def linksRaised (s : State) : Bool := (List.range 36).any fun n => (link s n).st != .down

/-- PCAP takes a value inside its range (R462). -/
def setPcap (s : State) (w : BitVec 13) : State := if 1000 ≤ w.toNat ∧ w.toNat ≤ 6000 then { s with pcap := w } else s

/-- The physical function's own registers. -/
def pfRegWrite (s : State) (off : Nat) (v : Word) : State :=
  match off with
  | 0x0050 => setPcap s (v.extractLsb' 0 13)
  | 0x0060 => if noCode v [1, 2] then gateCmdEnd s 1 else s
  | 0x3000 => if ccUsed s = 0 then { s with ccbase := BitVec.ofNat 64 (fieldOf v 16 36 * 65536) } else s
  | 0x3008 => if ccUsed s = 0 then { s with ccsize := v.extractLsb' 0 20 } else s
  | 0x4000 => if savedUnits s = 0 then { s with prbase := BitVec.ofNat 64 (fieldOf v 16 36 * 65536) } else s
  | 0x4008 => if savedUnits s = 0 then { s with prsize := v.extractLsb' 0 24 } else s
  | 0x6000 => if linksRaised s then s else { s with pkgid := v.extractLsb' 0 12 }
  | 0x7080 => if noCode v [1] then einjCmdEnd s 1 else s
  | 0x7088 => { s with einjoff := BitVec.ofNat 64 (fieldOf v 3 22 * 8) }
  | _ =>
    if 0x4020 ≤ off ∧ off < 0x4040 then { s with clscfg := modAt s.clscfg ((off - 0x4020) / 8) fun _ => v }
    else if 0x5000 ≤ off ∧ off < 0x5080 ∧ off % 16 = 0 then
      if fieldOf v 0 14 + fieldOf v 14 14 ≤ 9216 then { s with rpcfg := Tab.set s.rpcfg ((off - 0x5000) / 16) (v.extractLsb' 0 28) } else s
    else if 0x8000 ≤ off ∧ off < 0x10000 then { s with rtab := Tab.set s.rtab ((off - 0x8000) / 8) (v.extractLsb' 0 36) }
    else if 0x100000 ≤ off ∧ off < 0x125000 then
      let n := (off - 0x100000) / 4096
      if off % 4096 = 0 && noCode v [1, 2, 3] then (if (link s n).busy then modLink s n fun l => { l with err := 7 } else linkCmdEnd s 0 n 1) else s
    else if 0x200000 ≤ off ∧ off < 0x300000 then jobRegWrite s ((off - 0x200000) / 4096) (off % 4096) v
    else if 0x300000 ≤ off ∧ off < 0x340000 then dbgRegWrite s ((off - 0x300000) / 4096) (off % 4096) v
    else s

/-- Whether the device serves the registers that answer before READY: power is on and nothing is frozen; for the capsule's registers, power is enough (R457, R460). -/
def recoveryOpen (s : State) : Bool := s.power && s.dev != .frozen && !((s.wave.map (·.hub)).getD false) && decide (s.dstate = 0)
def capsuleOpen (s : State) : Bool := s.power && decide (s.dstate = 0)

/-- REGISTER_WRITE: 64 bits written to a register that has no row of its own. A value of a command register that is no defined command of it comes here too. -/
def execRegisterWrite (fn off : Nat) (v : Word) (s : State) : Host.Outcome State Fault Refusal :=
  .next (if off % 8 ≠ 0 || decide (64 ≤ fn) then s
    else if off = 0x0038 then (if fn = 0 ∧ recoveryOpen s then { s with recaddr := BitVec.ofNat 64 (fieldOf v 6 46 * 64) } else s)
    else if off = 0x0040 then (if fn = 0 ∧ recoveryOpen s then { s with reclen := v.extractLsb' 0 24 } else s)
    else if 0x7000 ≤ off ∧ off < 0x7030 then (if capsuleOpen s then ownRegWrite s fn off v else s)
    else if !devReady s then s
    else if 0x2000 ≤ off ∧ off < 0x2028 then ownRegWrite s fn off v
    else if 0x1000000 ≤ off ∧ off < 0x2000000 then ctxRegWrite s fn ((off - 0x1000000) / 4096) (off % 4096) v
    else if 0x2000000 ≤ off ∧ off < 0x3000000 then queueRegWrite s fn ((off - 0x2000000) / 4096) (off % 4096) v
    else if 0x3000000 ≤ off ∧ off < 0x4000000 then barRegWrite s fn ((off - 0x3000000) / 4096) (off % 4096) v
    else if fn = 0 then pfRegWrite s off v
    else s)

/-- EVSTAT_WRITE: a one written to OVF clears it. -/
def execEvstatWrite (fn : Nat) (v : Word) (s : State) : Host.Outcome State Fault Refusal :=
  .next (if devReady s && v.getLsbD 0 then setFn s fn { fnOf s fn with ovf := false } else s)

/-! ## Resident pages (R347) -/

/-- RPZERO: the zeroing of units of a region starts, unless one runs on the die. -/
def execRpzero (fn die : Nat) (v : Word) (s : State) : Host.Outcome State Fault Refusal :=
  let first := fieldOf v 0 14
  let count := fieldOf v 14 14
  let r := Tab.get s.rpcfg die 0
  .next (if !devReady s || decide (fn ≠ 0) || decide (8 ≤ die) || (Tab.get? s.rpzero die).isSome || decide (first < fieldOf r 0 14)
      || decide (fieldOf r 0 14 + fieldOf r 14 14 < first + count) then s
    else { s with rpzero := Tab.set s.rpzero die (first, count) })

def execRpzeroComplete (die : Nat) (s : State) : Host.Outcome State Fault Refusal :=
  .next (match Tab.get? s.rpzero die with
    | some (first, count) => if devReady s then zeroRange { s with rpzero := Tab.erase s.rpzero die } (dieKey die (first * 65536)) (count * 65536) else s
    | none => s)

/-! ## Invalidations (R351-R353) -/

/-- PGICMD_START: an invalidation of PGIVA and PGILEN takes its place; a write with another code or a reserved bit is ignored. -/
def execPgicmdStart (fn c : Nat) (v : Word) (s : State) : Host.Outcome State Fault Refusal :=
  let x := ctx s c
  .next (if !devReady s || decide (Config.objects ≤ c) || !reachCtx s fn c || decide (v ≠ 1) then s
    else (queueInval s c x.pgiva.toNat x.pgilen.toNat false).1)

/-- Whether an invalidation's range holds a VA. -/
def invalHolds (i : Inval) (va : Nat) : Bool := decide (i.n = 0) || (decide (i.va ≤ va) && decide (va < i.va + i.n * 65536))

/-- Whether a group belongs to a context. -/
def groupIn (s : State) (c g : Nat) : Bool := (grp? s g).any fun x => decide (x.ctx = c)

/-- The circuits of a context's streams whose pages the range may hold. (Model: DEDUCED, safe: notes/assumptions 76) -/
def circuitsIn (s : State) (c : Nat) (i : Inval) : List (Nat × Nat × Nat × Nat) :=
  s.links.flatMap fun (_, l) => (l.holders.map (·.2)).filter fun (g, gi, tile, lane) =>
    groupIn s c g && (match ag? s g gi tile lane with
      | none => false
      | some a =>
        let f := agFrameOf a.frame
        let w : Int := (Ty.width f.ty / 8 : Nat)
        let (lo, hi) := agHull f
        decide (i.n = 0) || (decide ((f.base.toNat : Int) + lo * w < (i.va + i.n * 65536 : Nat)) && decide ((i.va : Int) < (f.base.toNat : Int) + hi * w + w)))

/-- Step 2: the streams of the range leave their circuits. -/
def leaveCircuits (s : State) (c : Nat) (i : Inval) : State :=
  (circuitsIn s c i).foldl (fun s (g, gi, tile, lane) => (circClose s g gi tile lane).getD s) s

/-- Whether a block has a checked store to gm in the range that has not issued. -/
def stalePages (i : Inval) (k : Block) : Bool := k.stores.any fun p => p.pages.any fun w => invalHolds i (w * 65536)

/-- Blocks with a checked store in the range that have performed nothing are discarded, with every younger block of their threads (R184). -/
def dropStale (s : State) (c : Nat) (i : Inval) : State :=
  s.groups.foldl (fun s (g, x) =>
    if x.ctx ≠ c then s
    else x.image.threads.foldl (fun s (th, t) =>
      match t.blocks.findIdx? fun k => stalePages i k && !k.perf with
      | none => s
      | some 0 => discardBlocks s g th
      | some n => discardYounger s g th n) s) s

/-- Whether a block with a checked store in the range stays until it commits or is discarded (R184). -/
def staleOut (s : State) (c : Nat) (i : Inval) : Bool :=
  s.groups.any fun (_, x) => decide (x.ctx = c) && x.image.threads.any fun (_, t) => t.blocks.any fun k => stalePages i k && k.perf

/-- Whether a group's stores may stand in pages of a context: it is the group's own, or, as the home of peer pages that name this package, one of the same job (R346). -/
def storesInto (s : State) (c g : Nat) : Bool :=
  (grp? s g).any fun x => decide (x.ctx = c) || ((ctx s c).ctxjob.getLsbD 32 && decide ((ctx s x.ctx).ctxjob = (ctx s c).ctxjob))

/-- Step 3: whether an access that used a dropped extent has still to perform. Stores in flight carry no VA, so every one of the context counts. (Model: DEDUCED, safe: notes/assumptions 75) -/
def invalOut (s : State) (c : Nat) (i : Inval) : Bool :=
  staleOut s c i || (s.clusters.any fun k => k.2.writeq.any fun e => !e.bytes.isEmpty && storesInto s c e.party.1)
    || (s.pcie.any fun r => match r with | .write _ p _ => groupIn s c p.1 | .read _ _ d | .atomic _ _ _ _ _ d => (destGroup d).any (groupIn s c))
    || (s.reqs.any fun r => decide (r.ptype ≠ 8) && (destGroup r.dest).any (groupIn s c) && invalHolds i r.pkt.va.toNat)
    || !(circuitsIn s c i).isEmpty

/-- A PGINV has its result. -/
def answerPginv (s : State) (c id : Nat) : State :=
  s.groups.foldl (fun s (g, x) =>
    if x.ctx ≠ c then s
    else x.image.threads.foldl (fun s (th, t) =>
      t.blocks.zipIdx.foldl (fun s (k, b) =>
        match k.waits.find? fun w => decide (w.2 = BWait.pginv id) with
        | some (slot, _) => let (t0, t1) := slotTargets k slot; deliver (wake (dropWait s g th b slot) g) g th b slot t0 t1 (.val (lane0 0))
        | none => s) s) s) s

/-- What a fault in the range had stopped walks again (R351 step 4): it goes on, or, when the walk fails, stops again with the new cause; a tile-move queue stops on cause 1 alone (R202). -/
def walkAgain (s : State) (c : Nat) (i : Inval) (g : Nat) (x : Group) : State :=
  let again (s : State) (va : Nat) (stop : Nat → State → State) : State :=
    if !invalHolds i va then s else match walk s c va with | .ok _ => s | .error e => stop e s
  let s' := modImage s g (restartImage (invalHolds i))
  let s' := x.image.threads.foldl (fun s (th, t) => t.stops.foldl (fun s (n, va, _, wr, _) =>
      again s va fun e s => if e = 1 then engStop s g th (if n = 0 then .ct else if n = 1 then .tm else if n = 2 then .mx else .cl) x va wr else raiseFreeze s g 0x25 0 va 0) s) s'
  x.image.graphs.foldl (fun s (gi, gr) => gr.tiles.foldl (fun s (tile, t) =>
      let s := [0, 1].foldl (fun s lane =>
        match (t.mt.bind fun m => if lane = 0 then m.ag0 else m.ag1).bind (·.stopped) with
        | some (va, _, wr, _) => again s va fun e s => agStop s g gi tile lane va e wr
        | none => s) s
      t.ce.toList.foldl (fun s ce => ce.waits.foldl (fun s w => w.pos.zipIdx.foldl (fun s (p, k) =>
        match p.stop with
        | some (va, _, wr, _) => again s va fun e s => stopPos s g gi tile w.frame w.slot k va e wr
        | none => s) s) s) s) s) s'

/-- Steps 4 and 5: what a fault in the range had stopped walks again, SAVED groups wake, and the invalidation completes. -/
def invalDone (s : State) (c : Nat) (i : Inval) : State :=
  let s := s.groups.foldl (fun s (g, x) => if x.ctx = c ∧ x.state ≠ .saved then walkAgain s c i g x else s) s
  let s := modCtx s c fun x => { x with invals := x.invals.drop 1, pgidone := if i.pginv.isNone then x.pgidone + 1 else x.pgidone }
  let s := wakeOn s fun _ c' w => match w with | .page va => decide (c' = c) && invalHolds i va | _ => false
  match i.pginv with
  | some id => answerPginv s c id
  | none => s

/-- INVALIDATION: the oldest invalidation of a context starts, and completes once what used its extents has performed. -/
def execInvalidation (c : Nat) (s : State) : Host.Outcome State Fault Refusal :=
  .next (match (ctx s c).invals with
    | [] => s
    | i :: _ =>
      if !devReady s then s
      else
        let s := if i.started then s
          else dropExtents (modCtx s c fun x => { x with invals := modAt x.invals 0 fun i => { i with started := true } }) c i.va i.n
        let s := leaveCircuits (dropStale s c i) c i
        if invalOut s c i then s else invalDone s c i)

end Sys2Proof.Machine
end

