-- ==== Sys2Proof/Machine/Links.lean ====
section
/-! DEFINITION. Links (R383-R392, R403): their commands, training, lanes and failure; flits, credits and replay; the packets that arrive (R346, R393-R397, R402, R413, R415), circuits at their
home (R388), and requests that have no answer (R398). -/

namespace Sys2Proof.Machine

/-! ## Link states (R386) -/

def linkStCode : LinkSt → Nat
  | .down => 0 | .training => 1 | .up => 2 | .attesting => 3 | .trusted => 4 | .failed => 5

/-- A link changes state, with its LNK STATE record. -/
def goLink (s : State) (n : Nat) (st : LinkSt) : State := devRecord (modLink s n fun l => { l with st := st }) 5 1 (n % 64 + linkStCode st * 2 ^ 8)

/-- A CLOSING job slot that holds no link any more is FREE, and its key is gone (R407). -/
def jobSettle (s : State) (j : Nat) : State :=
  let x := job s j
  if x.st == .closing && !(s.links.any fun p => p.2.heldBy && decide (p.2.jobSlot = j)) then
    jobCmdEnd (setJob s j { x with st := .free, key := none, entries := [], trusted := 0, reducers := 0 }) j 4 0
  else s

/-- An attestation ends (R409): its SEC ATTEST record, and the end of the job slot's command. -/
def attestEnd (s : State) (n j err : Nat) : State :=
  let s := modLink s n fun l => { l with attestJob := none }
  jobCmdEnd (devRecord s 6 1 (n % 2 ^ 8 + err % 2 ^ 8 * 2 ^ 8 + j % 2 ^ 8 * 2 ^ 16)) j 2 err

/-- A link's keys are gone with whatever held it: an attestation that runs fails, a revocation that waits is done. (Model: DEDUCED, unsafe: notes/assumptions 50) -/
def dropKeys (s : State) (n : Nat) : State :=
  let l := link s n
  let s := match l.attestJob with | some j => attestEnd s n j 6 | none => s
  let s := modLink s n fun l => { l with heldBy := false, peerKeys := false, ownKeys := false, revoking := false }
  if l.heldBy then
    let s := setJob s l.jobSlot { job s l.jobSlot with trusted := (job s l.jobSlot).trusted &&& ~~~(1#36 <<< n), reducers := (job s l.jobSlot).reducers &&& ~~~(1#36 <<< n) }
    let s := if l.revoking && (job s l.jobSlot).st == .opened then jobCmdEnd s l.jobSlot 3 0 else s
    jobSettle s l.jobSlot
  else s

/-! ## Outstanding requests (R394, R398) -/

def dropReq (s : State) (tag : Nat) : State := { s with reqs := s.reqs.filter fun r => decide (r.tag ≠ tag) }

/-- A request fails as unreachable: every member of a multicast that has not answered is marked failed. Members of a gang that know another one at its home abort (R326). -/
def failReq (s : State) (r : Req) : State :=
  let s := dropReq (unqueue s r) r.tag
  gangUnreachable (match r.dest with
  | .multicast g th j => if j % 128 = 64 then membersAnswer s g th (j / 128) r.pkt.flag.toNat (fun _ => true) else refuse s r.dest r.ptype r.pkt 6
  | d => refuse s d r.ptype r.pkt 6) fun p => decide (p = r.home)

/-- The requests of a link that no longer counts: one whose home another link still reaches moves there, the others fail. -/
def moveReqs (s : State) (n : Nat) : State :=
  s.reqs.foldl (fun s r =>
    if r.link ≠ n ∨ r.ptype = 8 then s
    else match (linksFor s r.home).head? with
      | some m => leave { s with reqs := s.reqs.map fun q => if q.tag = r.tag then { q with link := m } else q } m (classOf r.ptype) r.ptype r.pkt
      | none => failReq s r) s

/-- Whether a collective of this package that has its plan sends over a link (R417, R418). -/
def planUses (s : State) (n : Nat) : Bool :=
  s.meetings.any fun m =>
    m.plan.isSome && m.own.isSome && (List.range (headRank (Tab.get m.heads m.rank []))).any fun k =>
      decide (k ≠ m.rank) && decide ((linksFor s (headMember (Tab.get m.heads m.rank []) k % 4096)).head? = some n)

/-- Whether a link carries traffic: a bound circuit, an outstanding request, or a step of a planned collective. -/
def linkBusy (s : State) (n : Nat) : Bool := !(link s n).holders.isEmpty || (s.reqs.any fun r => decide (r.link = n)) || planUses s n

/-- A link leaves the states in which it carries traffic: its circuits are released and its requests move or fail. A TRUSTED link that goes FAILED under traffic raises LINK_LOST. (Model: DEDUCED, unsafe: notes/assumptions 51, 53) -/
def leaveLink (s : State) (n : Nat) (st : LinkSt) : State :=
  let l := link s n
  let lost := l.st == .trusted && st == .failed && linkBusy s n
  let s := goLink (dropKeys s n) n st
  let s := l.holders.foldl (fun s p => circLost s n p.1) s
  let s := { s with hcircs := s.hcircs.filter fun c => decide (c.link ≠ n) }
  let s := gangUnreachable (afterStores (moveReqs s n)) fun p => (linksFor s p).isEmpty
  if lost then raiseFatal s 0x41 none 0 else s

/-! ## Link commands (R384, R386) -/

/-- A command written to LCMD with one of the defined codes. (Model: DEDUCED, unsafe: notes/assumptions 49) -/
def linkCmd (s : State) (fn n code : Nat) (v : Word) (ok : LinkSt → Bool) (go : State → State) : State :=
  if !devReady s || decide (fn ≠ 0) || decide (36 < n) || decide (cmdCode v ≠ code) then s
  else if (link s n).busy then modLink s n fun l => { l with err := 7 }
  else if cmdReserved v then linkCmdEnd s fn n 1
  else if n = 36 || !ok (link s n).st then linkCmdEnd s fn n 2
  else go s

/-- Training begins. -/
def trainLink (s : State) (n : Nat) : State := modLink (goLink s n .training) n fun l => { l with busy := true, trainStart := s.dtime, lanes := 0 }

def execLcmdEnable (fn n : Nat) (v : Word) (s : State) : Host.Outcome State Fault Refusal :=
  .next (linkCmd s fn n 1 v (· == .down) fun s => trainLink s n)
def execLcmdDisable (fn n : Nat) (v : Word) (s : State) : Host.Outcome State Fault Refusal :=
  .next (linkCmd s fn n 2 v (· != .down) fun s => linkCmdEnd (modLink (leaveLink s n .down) n fun l => { l with lanes := 0 }) fn n 0)
def execLcmdRetrain (fn n : Nat) (v : Word) (s : State) : Host.Outcome State Fault Refusal :=
  .next (linkCmd s fn n 3 v (fun st => st == .up || st == .attesting || st == .trusted || st == .failed) fun s => trainLink (leaveLink s n .training) n)

/-- A lane group both of whose lanes work. -/
def fullGroup (lanes : BitVec 16) : Bool := (List.range 8).any fun g => lanes.getLsbD (2 * g) && lanes.getLsbD (2 * g + 1)

/-- The packet channel's lane groups: those of 6 and 7 with a working lane, or the highest circuit lane group with one (R392). -/
def packetGroupsOf (lanes : BitVec 16) : BitVec 8 :=
  let works (g : Nat) : Bool := lanes.getLsbD (2 * g) || lanes.getLsbD (2 * g + 1)
  if works 6 || works 7 then 0xC0
  else match ((List.range 6).filter works).getLast? with
    | some g => 1#8 <<< g
    | none => 0xC0

/-- LINK_TRAINED: the link is UP with its lanes, its peer and fresh counters; towards a domain that keeps DTIME, the package's first link takes that time (R457). (Model: DEDUCED, unsafe: notes/assumptions 56) -/
def execLinkTrained (n : Nat) (lanes : BitVec 16) (sw : Bool) (peer : BitVec 12) (domainTime : Option (BitVec 64)) (s : State) : Host.Outcome State Fault Refusal :=
  let l := link s n
  .next (if !devReady s || decide (36 ≤ n) || l.st != .training || decide (l.trainStart + 10000000 < s.dtime) || !fullGroup lanes then s
    else
      let s := match domainTime with
        | some t => if s.timeJoined then s else { s with dtime := t.toNat, clusters := Tab.mapVals s.clusters fun _ c => { c with lastTime := none } }
        | none => s
      let s := goLink { s with timeJoined := true } n .up
      let grant := (List.range 3).map Config.rxCredits
      let s := modLink s n fun l =>
        { l with lanes := lanes, peersw := sw, peer := peer, packetGroups := packetGroupsOf lanes, replayed := 0, crcFail := 0, resyncs := 0, seqs := [], granted := [0, 0, 0]
                 sent := [0, 0, 0], rgranted := grant, rcount := [0, 0, 0], accepted := 0, circuits := 0, holders := [] }
      if l.busy then linkCmdEnd s 0 n 0 else s)

/-- TRAINING_TIMEOUT: no lane group has trained within 10 ms. -/
def execTrainingTimeout (n : Nat) (s : State) : Host.Outcome State Fault Refusal :=
  let l := link s n
  .next (if !devReady s || l.st != .training || decide (s.dtime < l.trainStart + 10000000) then s
    else
      let s := goLink s n .down
      if l.busy then linkCmdEnd s 0 n 8 else modLink s n fun l => { l with err := 8 })

/-! ## Lanes and replay (R390, R392) -/

/-- LANE_FAIL: the link goes on with fewer lanes, or fails with its last one. A circuit without a lane is released; the packet channel moves when it has none. (Model: DEDUCED, safe: notes/assumptions 54) -/
def execLaneFail (n lane : Nat) (s : State) : Host.Outcome State Fault Refusal :=
  let l := link s n
  .next (if !devReady s || decide (36 ≤ n) || !linkCounts l || !l.lanes.getLsbD lane then s
    else
      let lanes := l.lanes &&& ~~~(1#16 <<< lane)
      let s := devRecord (modLink s n fun l => { l with lanes := lanes }) 5 2 (n % 64 + lanes.toNat * 2 ^ 16)
      if lanes = 0 then leaveLink s n .failed
      else
        let works (g : Nat) : Bool := lanes.getLsbD (2 * g) || lanes.getLsbD (2 * g + 1)
        let lostCircuit (s : State) (g : Nat) : State :=
          let s := if (link s n).circuits.getLsbD g then circLost s n g else s
          { s with hcircs := s.hcircs.filter fun c => !decide (c.link = n ∧ c.lg = g) }
        let g := lane / 2
        let s := if g < 6 && !works g then lostCircuit s g else s
        if (List.range 8).any fun g => l.packetGroups.getLsbD g && works g then s
        else match ((List.range 6).filter works).getLast? with
          | some g => modLink (lostCircuit s g) n fun l => { l with packetGroups := 1#8 <<< g }
          | none => s)

/-- Whether a flit of a link has been resent 8 times without acknowledgement. -/
def replaySpent (l : Link) : Bool := l.seqs.any fun q => q.2.replay.any fun f => decide (8 ≤ f.2)

def execReplayLimit (n : Nat) (s : State) : Host.Outcome State Fault Refusal :=
  .next (if devReady s && linkCounts (link s n) && replaySpent (link s n) then leaveLink s n .failed else s)

/-- Reads of LREPLAY and LRESYNC clear them. -/
def execLreplayRead (fn n : Nat) (s : State) : Host.Outcome State Fault Refusal :=
  .next (if readsServed s && decide (fn = 0) && decide (n < 36) then modLink s n fun l => { l with replayed := 0, crcFail := 0 } else s)
def execLresyncRead (fn n : Nat) (s : State) : Host.Outcome State Fault Refusal :=
  .next (if readsServed s && decide (fn = 0) && decide (n < 36) then modLink s n fun l => { l with resyncs := 0 } else s)

/-! ## The home side of accesses (R346) -/

/-- The live context whose ASID is a HASID. -/
def homeCtx (s : State) (hasid : Nat) : Option Nat := (s.contexts.find? fun p => ctxLive p.2 && decide (p.2.asid.toNat = hasid)).map (·.1)

/-- Whether an invalidation at the home holds an access back (R351 step 1). -/
def homeHeld (s : State) (hasid va : Nat) : Bool := (homeCtx s hasid).any fun c => invalBlocks s c va

/-- The storage keys of n bytes from a VA at this home, page by page; none when the home refuses. -/
def homeKeys (s : State) (hasid jobid : Nat) (need : Need) : Nat → Nat → Nat → State × Option (List Nat)
  | 0, _, _ => (s, none)
  | fuel + 1, va, n =>
    let first := min n (65536 - va % 65536)
    match homePlace s hasid jobid va need with
    | (s, some (.store k)) =>
      let l := (List.range first).map (k + ·)
      if n = first then (s, some l)
      else match homeKeys s hasid jobid need fuel (va + first) (n - first) with
        | (s, some r) => (s, some (l ++ r))
        | (s, none) => (s, none)
    | (s, _) => (s, none)

/-- Whether a byte with an uncorrectable error stands among keys, in HBM or in a die pad. -/
def badIn (s : State) (ks : List Nat) (hbm : Bool) : Bool := ks.any fun k => poisoned s k 1 && (decide (k < 2 ^ 60) == hbm)

/-! ## Packets that arrive (R393, R413) -/

/-- The flits of a packet are counted in its class, and their credits are granted again (R391); an invocation's come back when it is answered (R397). -/
def packetSeen (s : State) (n ptype : Nat) (p : Packet) : State :=
  let k := BitVec.ofNat 32 (flitsOf p (sealedPkt s ptype p))
  let c := classOf ptype
  let s := modLink s n fun l => { l with rcount := modAt l.rcount c (· + k), rgranted := if c = 2 then l.rgranted else modAt l.rgranted c (· + k) }
  if c = 2 then s else sendCredit s n

/-- Whether a nonce may still be accepted from a source (R413). -/
def nonceOk (seen : List Nat) (x : Nat) : Bool := !has seen x && decide (seen.foldl max 0 < x + 4096)

/-- A packet is taken, or dropped with a LNK PKTDROP record: it is for another package, its tag fails, or its nonce has passed. -/
def admitPkt (s : State) (ptype : Nat) (p : Packet) (bare : Bool) : Option State :=
  let key := pairKey p.jobid.toNat p.src.toNat
  let seen := Tab.get s.nonces key []
  if p.dst ≠ s.pkgid ∧ ¬(p.dst = 0xFFF ∧ ptype = 2) then none
  else if bare || decide (p.jobid = 0) then some s
  else if !p.tagOk || !nonceOk seen p.nonce.toNat then none
  else
    let top := max (seen.foldl max 0) p.nonce.toNat
    some { s with nonces := Tab.set s.nonces key ((p.nonce.toNat :: seen).filter fun x => decide (top < x + 4096)) }

/-- The credits of an invocation that is not kept. -/
def regrant (s : State) (n ptype : Nat) (p : Packet) : State :=
  if classOf ptype = 2 then grantInvocation s n p else s

/-- A packet with a reserved bit set is dropped and counted as a CRC failure, as one of a reserved PTYPE is (R393). (Model: DEDUCED, safe: notes/assumptions 122) -/
def dropIllegal (s : State) (n ptype : Nat) (p : Packet) : State := modLink (regrant s n ptype p) n fun l => { l with crcFail := l.crcFail + 1 }

/-- A packet has arrived whole. What it does may have to wait, for a credit or for an invalidation: the answer is then none. -/
def onPacket (s : State) (n ptype : Nat) (p : Packet) (bare : Bool) (go : State → Option State) : State :=
  if !devReady s || decide (36 ≤ n) || !linkCounts (link s n) then s
  else
    let s' := packetSeen s n ptype p
    if p.resv ≠ 0 then dropIllegal s' n ptype p
    else match admitPkt s' ptype p bare with
    | none => devRecord (regrant s' n ptype p) 5 3 (n % 64 + p.jobid.toNat * 2 ^ 32)
    | some s' => (go s').getD s

/-- A response leaves on the link by which its request came. (Model: DESIGN CHOICE, unsafe: notes/assumptions 43) -/
def respond (s : State) (n ptype : Nat) (p : Packet) (flag : Nat) (data : List Byte) : Option State :=
  txPacket s n 1 ptype { p with src := s.pkgid, dst := p.src, flag := BitVec.ofNat 21 flag, data := data }

/-- READ_REQUEST: the home reads, or refuses. -/
def execReadRequest (n : Nat) (p : Packet) (s : State) : Host.Outcome State Fault Refusal :=
  .next (onPacket s n 0 p false fun s =>
    let len := p.flag.toNat
    if homeHeld s p.hasid.toNat p.va.toNat then none
    else if len = 0 ∨ jobBytes < len then respond s n 1 p 1 []
    else match homeKeys s p.hasid.toNat p.jobid.toNat .read 2 p.va.toNat len with
      | (s, none) => respond s n 1 p 1 []
      | (s, some ks) =>
        if badIn s ks false then some (eccBytes s ks)
        else if badIn s ks true then respond s n 1 p 1 []
        else respond s n 1 p 0 (ks.map (rdByte s)))

/-- One member's write: its result, or a refusal. -/
def homeStore (s : State) (hasid jobid va : Nat) (l : List Byte) : State × Bool :=
  match homeKeys s hasid jobid .write 2 va l.length with
  | (s, some ks) => (putBytes s (ks.zip l), true)
  | (s, none) => (s, false)

/-- The members of a multicast that are this package, by their place in the list, with their HASIDs. -/
def membersHere (s : State) (p : Packet) : List (Nat × Nat) :=
  (List.range p.flag.toNat).filterMap fun m =>
    let w := natOfBytes ((p.data.drop (8 * m)).take 8)
    if w % 4096 = s.pkgid.toNat then some (m, w / 2 ^ 16 % 2 ^ 16) else none

/-- The writes of a multicast at this package, each with its acknowledgement, which names the member above its failure bit. -/
def multicastHere (n : Nat) (p : Packet) : List (Nat × Nat) → State → Option State
  | [], s => some s
  | (m, hasid) :: r, s =>
    let (s, ok) := homeStore s hasid p.jobid.toNat p.va.toNat (p.data.drop (8 * p.flag.toNat))
    (respond s n 3 p (boolBit (!ok) + 2 * m) []).bind (multicastHere n p r)

/-- WRITE_REQUEST: the home writes, or refuses, and acknowledges. -/
def execWriteRequest (n : Nat) (p : Packet) (s : State) : Host.Outcome State Fault Refusal :=
  .next (onPacket s n 2 p false fun s =>
    if p.dst = 0xFFF then
      let ms := membersHere s p
      if ms.any fun m => homeHeld s m.2 p.va.toNat then none
      else if ms = [] then some (devRecord s 5 3 (n % 64 + p.jobid.toNat * 2 ^ 32))
      else multicastHere n p ms s
    else if homeHeld s p.hasid.toNat p.va.toNat then none
    else
      let (s, ok) := homeStore s p.hasid.toNat p.jobid.toNat p.va.toNat p.data
      respond s n 3 p (boolBit !ok) [])

/-- The types that an atomic takes (R189). -/
def atomicAllows (op : AtomOp) (t : Ty) : Bool :=
  match op with
  | .add | .min | .max | .and | .or | .xor => t == .i32 || t == .n32 || t == .i64 || t == .n64
  | .xchg | .cas => t == .i32 || t == .n32 || t == .f32 || t == .i64 || t == .n64 || t == .f64
  | .fadd => t == .f32 || t == .f64

/-- ATOMIC_REQUEST: the home performs the atomic in one step and returns the old value. -/
def execAtomicRequest (n : Nat) (p : Packet) (s : State) : Host.Outcome State Fault Refusal :=
  .next (onPacket s n 4 p false fun s =>
    let op := atomOfCode (p.flag.toNat / 16)
    let t := tyOfCode (p.flag.toNat % 16)
    let w := Ty.width t / 8
    if homeHeld s p.hasid.toNat p.va.toNat then none
    else if 9 ≤ p.flag.toNat / 16 || !atomicAllows op t || decide (p.va.toNat % w ≠ 0) then respond s n 5 p 1 []
    else match homePlace s p.hasid.toNat p.jobid.toNat p.va.toNat .atomic with
      | (s, some (.store k)) =>
        if poisoned s k w then (if k < 2 ^ 60 then respond s n 5 p 1 [] else some (eccTouch s k w false))
        else
          let old := rdNum s k w
          respond (wrNum s k w (atomNew op t old (natOfBytes (p.data.take 8)) (natOfBytes ((p.data.drop 8).take 8)))) n 5 p 0 (bytesOf w old)
      | (s, _) => respond s n 5 p 1 [])

/-- INVOCATION: the argument waits at the MTINV that serves the address in the home's context, with the credit it holds; the home refuses what no MTINV serves. -/
def execInvocation (n : Nat) (p : Packet) (s : State) : Host.Outcome State Fault Refusal :=
  .next (onPacket s n 6 p false fun s =>
    let no (s : State) : Option State := respond (regrant s n 6 p) n 7 p 2 []
    match homeCtx s p.hasid.toNat with
    | none => no s
    | some c =>
      if invalBlocks s c p.va.toNat then none
      else if !((ctx s c).ctxjob.getLsbD 32 && decide (fieldOf (ctx s c).ctxjob 0 32 = p.jobid.toNat)) then no s
      else match homeTranslate s c p.va.toNat with
        | (s, .error _) => no s
        | (s, .ok (leaf, _)) =>
          let tile := fieldOf leaf 16 18
          match (if entryKind leaf = 2 then invTarget s c tile else none) with
          | none => no s
          | some (g, gi) => some (invoke s g gi tile .none 0 (some (n, p)) false (BitVec.ofNat 64 (natOfBytes (p.data.take 8)))))

/-! ## Responses (R393, R395) -/

/-- The request that a response answers. -/
def reqOf (s : State) (p : Packet) (ptype : Nat) : Option Req :=
  s.reqs.find? fun r => decide (r.tag = p.tag.toNat) && decide (r.ptype = ptype) && decide (r.home = p.src.toNat)

/-- A response ends its request: with its data, or as a refusal when the flag marks one. One that matches no request is ignored. -/
def onResponse (s : State) (n ptype : Nat) (p : Packet) (data : List Byte) (refused : Bool) : State :=
  onPacket s n ptype p false fun s =>
    some (match reqOf s p (ptype - 1) with
      | none => s
      | some r =>
        let s := dropReq (unqueue s r) r.tag
        afterStores (if refused then refuse s r.dest r.ptype r.pkt 6 else answer s r.dest data))

def execReadResponse (n : Nat) (p : Packet) (s : State) : Host.Outcome State Fault Refusal := .next (onResponse s n 1 p p.data (p.flag.getLsbD 0))
def execWriteAcknowledgement (n : Nat) (p : Packet) (s : State) : Host.Outcome State Fault Refusal := .next (onResponse s n 3 p [] (p.flag.getLsbD 0))
def execAtomicResponse (n : Nat) (p : Packet) (s : State) : Host.Outcome State Fault Refusal := .next (onResponse s n 5 p p.data (p.flag.getLsbD 0))
/-- INVOCATION_RESULT: a payload, EMPTY (flag 1), or a refusal (flag 2). -/
def execInvocationResult (n : Nat) (p : Packet) (s : State) : Host.Outcome State Fault Refusal :=
  .next (onResponse s n 7 p (if p.flag.getLsbD 0 then [] else p.data.take 8) (p.flag.getLsbD 1))

/-- MULTICAST_ACKNOWLEDGEMENT: the bitmap of the members that refused or were unreachable. -/
def execMulticastAcknowledgement (n : Nat) (p : Packet) (s : State) : Host.Outcome State Fault Refusal :=
  .next (onPacket s n 11 p false fun s =>
    some (match s.reqs.find? fun r => decide (r.tag = p.tag.toNat) && decide (r.home = 0xFFF) with
      | none => s
      | some r =>
        match r.dest with
        | .multicast g th j => if j % 128 = 64 then afterStores (membersAnswer (dropReq s r.tag) g th (j / 128) r.pkt.flag.toNat (natOfBytes (p.data.take 8)).testBit) else s
        | _ => s))

/-- REQUEST_TIMEOUT: a request without a response 1 ms after it was sent has failed as unreachable. A stream's circuit lasts as long as the stream. (Model: DEDUCED, unsafe: notes/assumptions 44) -/
def execRequestTimeout (tag : BitVec 20) (s : State) : Host.Outcome State Fault Refusal :=
  .next (match s.reqs.find? fun r => decide (r.tag = tag.toNat) with
    | none => s
    | some r => if devReady s && decide (r.ptype ≠ 8) && decide (r.sent + 1000000 ≤ s.dtime) then afterStores (failReq s r) else s)

/-! ## Circuits at their home (R388) -/

def sameCirc (c d : HomeCirc) : Bool := decide (c.link = d.link ∧ c.lg = d.lg)
def putCirc (s : State) (c : HomeCirc) : State := { s with hcircs := s.hcircs.map fun d => if sameCirc c d then c else d }
def dropCirc (s : State) (c : HomeCirc) : State := { s with hcircs := s.hcircs.filter fun d => !sameCirc c d }

/-- The completion of a stream: flag 1, or 3 when an element was refused, with the number of elements served. -/
def completeCirc (s : State) (c : HomeCirc) : State :=
  let p : Packet := { src := s.pkgid, dst := BitVec.ofNat 12 c.src, hasid := BitVec.ofNat 16 c.hasid, tag := BitVec.ofNat 20 c.tag, va := 0, jobid := BitVec.ofNat 32 c.jobid
                      flag := if c.bad then 3 else 1, data := bytesOf 8 c.count }
  match txPacket s c.link 1 8 p with
  | some s => dropCirc s c
  | none => putCirc s c

/-- One element of a write stream is written in its place. -/
def circWriteOne (s : State) (c : HomeCirc) (f : AgFrame) (w : Nat) : State × HomeCirc :=
  let (s, ok) := homeStore s c.hasid c.jobid (agAddr f (agOffset f c.i)) (c.buf.take w)
  if ok then (s, { c with buf := c.buf.drop w, count := c.count + 1, i := (agNext f c.i 4 0).1 }) else (s, { c with bad := true })

/-- One element of a read stream is read. -/
def circReadOne (s : State) (c : HomeCirc) (f : AgFrame) (w : Nat) : State × HomeCirc :=
  match homeKeys s c.hasid c.jobid .read 2 (agAddr f (agOffset f c.i)) w with
  | (s, none) => (s, { c with bad := true })
  | (s, some ks) =>
    if badIn s ks false then (eccBytes s ks, { c with bad := true })
    else if badIn s ks true then (s, { c with bad := true })
    else
      let (i, _, last) := agNext f c.i 4 0
      (s, { c with buf := c.buf ++ ks.map (rdByte s), count := c.count + 1, i := i, ended := last })

/-- A circuit's home serves elements in order while it can. An address at or above 2^57 is refused like a page that is absent. -/
def pumpCirc : Nat → State → HomeCirc → State
  | 0, s, c => putCirc s c
  | fuel + 1, s, c =>
    let f := agFrameOf c.frame
    let w := Ty.width f.ty / 8
    let held := homeHeld s c.hasid (agAddr f (agOffset f c.i))
    if f.wr then
      if c.bad then completeCirc s c
      else if c.buf.length < w then (if c.ended then completeCirc s c else putCirc s c)
      else if held then putCirc s c
      else let (s, c) := circWriteOne s c f w; pumpCirc fuel s c
    else if 120 ≤ c.buf.length ∨ ((c.ended ∨ c.bad) ∧ c.buf ≠ []) then
      if circRoom s c.link c.lg then pumpCirc fuel (circFlit s c.link c.lg (c.buf.take 120)) { c with buf := c.buf.drop 120 } else putCirc s c
    else if c.ended || c.bad then completeCirc s c
    else if held then putCirc s c
    else let (s, c) := circReadOne s c f w; pumpCirc fuel s c

/-- The steps that 256 flits can take. -/
def pumpSteps : Nat := 31000

/-- The circuits of a link go on, after acknowledgements or credits. -/
def pumpLink (s : State) (n : Nat) : State := s.hcircs.foldl (fun s c => if c.link = n then pumpCirc pumpSteps s c else s) s

/-- CIRCUIT_SETUP: the home takes a stream on the lane group that the packet names, or, at a release, ends it with what it has served. -/
def execCircuitSetup (n : Nat) (p : Packet) (s : State) : Host.Outcome State Fault Refusal :=
  .next (onPacket s n 8 p false fun s =>
    if p.flag = 2 then
      match s.hcircs.find? fun c => decide (c.link = n) && decide (c.src = p.src.toNat) && decide (c.tag = p.tag.toNat) with
      | none => some s
      | some c => (respond s n 8 p 1 (bytesOf 8 c.count)).map fun s => dropCirc s c
    else if p.flag ≠ 0 then none
    else
      let lg := natOfBytes ((p.data.drop 64).take 8)
      let i := (List.range 4).map fun d => natOfBytes ((p.data.drop (32 + 8 * d)).take 8)
      if 6 ≤ lg || s.hcircs.any (fun c => decide (c.link = n ∧ c.lg = lg)) then respond s n 8 p 3 (bytesOf 8 0)
      else
        let c : HomeCirc :=
          { link := n, lg := lg, frame := BitVec.ofNat 256 (natOfBytes (p.data.take 32)), src := p.src.toNat, hasid := p.hasid.toNat, jobid := p.jobid.toNat, tag := p.tag.toNat
            i := i, count := 0, buf := [], ended := false, bad := false }
        some (pumpCirc pumpSteps { s with hcircs := s.hcircs ++ [c] } c))

/-- The bytes that a stream has given to its circuit since it was bound, sent or not. -/
def circGiven (s : State) (n lg : Nat) (r : Req) (a : AgState) : List Byte :=
  let sent := s.outbox.filter fun p => decide (p.1 = n ∧ p.2.1 = 16 + lg)
  (sent.drop r.pkt.nonce.toNat).flatMap (fun p => p.2.2.data) ++ (if a.circuit.isSome then a.circBuf else [])

/-- The end of a circuit at the stream that held it: what a refusal left unserved goes on by packets, which meet the refusal one by one. (Model: DEDUCED, unsafe: notes/assumptions 93) -/
def circEnds (s : State) (r : Req) (failed : Bool) (count : Nat) : State :=
  match r.dest with
  | .ag g gi tile lane _ =>
    match ((link s r.link).holders.find? fun h => decide (h.2 = (g, gi, tile, lane))).map (·.1) with
    | none => dropReq s r.tag
    | some lg =>
      if failed then
        circDrop s r.link lg fun s _ _ _ _ a => (circGiven s r.link lg r a).drop (count * (Ty.width (agFrameOf a.frame).ty / 8))
      else
        modAg (circFree (dropReq s r.tag) r.link lg) g gi tile lane fun a =>
          { a with circuit := none, writesOwed := if (agFrameOf a.frame).wr && a.circuit.isNone then a.writesOwed - 1 else a.writesOwed }
  | _ => dropReq s r.tag

/-- CIRCUIT_COMPLETION: the home reports a stream's completion, in class 1 as a multicast acknowledgement is (R393). -/
def execCircuitCompletion (n : Nat) (p : Packet) (s : State) : Host.Outcome State Fault Refusal :=
  .next (onPacket s n 11 p false fun s =>
    if !p.flag.getLsbD 0 then none
    else some (match reqOf s p 8 with
      | none => s
      | some r => afterStores (circEnds s r (p.flag.getLsbD 1) (natOfBytes (p.data.take 8)))))

/-! ## Collective steps (R400, R415) -/

/-- The kind of a step. -/
def stepKind (p : Packet) : Nat := natOfBytes (p.data.take 8) / 2 ^ 40 % 256

def execCollectiveStep (n : Nat) (p : Packet) (s : State) : Host.Outcome State Fault Refusal :=
  .next (onPacket s n 10 p (stepBare s p) fun s => if stepKind p < 3 then some (stepArrives s p) else none)
def execPlanRequest (n : Nat) (p : Packet) (s : State) : Host.Outcome State Fault Refusal :=
  .next (onPacket s n 10 p false fun s => if stepKind p = 3 then some (stepArrives s p) else none)
def execPlan (n : Nat) (p : Packet) (s : State) : Host.Outcome State Fault Refusal :=
  .next (onPacket s n 10 p false fun s => if stepKind p = 4 then some (stepArrives s p) else none)

/-! ## Flits (R389-R391, R412) -/

/-- The counts that a resync flit carries. -/
def resyncData (l : Link) : List Byte := (l.rgranted ++ l.rcount).flatMap fun x => bytesOf 4 x.toNat

/-- A resync flit leaves. -/
def sendResync (s : State) (n : Nat) : State := linkFlit s n 32 0 (resyncData (link s n))

/-- A dropped flit is answered with NAK, and ACK names the last flit accepted (R390); what follows it out of order is not answered again. -/
def sendNak (s : State) (n q : Nat) (again : Bool) : State :=
  let x := seqOfLink (link s n) q
  let s := if x.nakOwed && !again then s else linkFlit s n 34 ((x.rxSeq - 1).toNat + 2 ^ 12 * q) []
  modLink s n fun l => { l with seqs := Tab.set l.seqs q { seqOfLink l q with nakOwed := true } }

/-- An acknowledgement frees the flits up to it; with NAK the rest are resent. -/
def ackFlits (l : Link) (q : Nat) (ack : BitVec 12) (nak : Bool) : Link :=
  let x := seqOfLink l q
  let left := x.replay.filter fun f => decide (2048 ≤ (ack - BitVec.ofNat 12 f.1).toNat)
  let left' := if nak then left.map fun f => (f.1, f.2 + 1) else left
  { l with seqs := Tab.set l.seqs q { x with replay := left' }, replayed := if nak then l.replayed + BitVec.ofNat 32 left.length else l.replayed }

/-- A flit of circuit words reaches the stream that reads it, or the home that writes it; one of fewer than 120 bytes ends a write stream. -/
def circData (s : State) (n lg : Nat) (data : List Byte) : State :=
  match s.hcircs.find? fun c => decide (c.link = n ∧ c.lg = lg) && (agFrameOf c.frame).wr with
  | some c => pumpCirc pumpSteps s { c with buf := c.buf ++ data, ended := c.ended || decide (data.length < 120) }
  | none =>
    match Tab.get? (link s n).holders lg with
    | some (g, gi, tile, lane) =>
      if (ag? s g gi tile lane).any fun a => decide (a.circuit = some (n, lg)) && !(agFrameOf a.frame).wr then
        modAg s g gi tile lane fun a => { a with circBuf := a.circBuf ++ data }
      else s
    | none => s

/-- FLIT: checked by CRC, type and reserved bits, then by SEQ; a dropped flit is answered with NAK. A block whose tag fails has lost the link's integrity. -/
def execFlit (n seqn : Nat) (f : FlitIn) (s : State) : Host.Outcome State Fault Refusal :=
  let l := link s n
  .next (if !devReady s || decide (36 ≤ n) || !linkCounts l || decide (6 < seqn) then s
    else if !f.crcOk || decide (5 ≤ f.ftype.toNat) || decide (f.resv ≠ 0) then
      sendNak (modLink s n fun l => { l with crcFail := l.crcFail + 1 }) n seqn true
    else
      let s := modLink s n fun l => ackFlits l seqn f.ack f.nak
      let x := seqOfLink (link s n) seqn
      if 2 ≤ f.ftype.toNat then pumpLink s n
      else if f.seq ≠ x.rxSeq then pumpLink (sendNak s n seqn false) n
      else
        let s := modLink s n fun l => { l with seqs := Tab.set l.seqs seqn { x with rxSeq := x.rxSeq + 1, nakOwed := false }, accepted := l.accepted + 1 }
        let s := if f.ftype = 1 ∧ seqn ≠ 0 then circData s n (seqn - 1) f.data else s
        let s := if (l.accepted + 1) % 1024 = 0 then sendResync s n else s
        let s := pumpLink s n
        if l.st == .trusted && !f.tagOk then raiseFatal (devRecord s 5 4 (n % 64)) 0x41 none 0 else s)

/-- The larger of two counts, by modular order. -/
def laterCount (a b : BitVec 32) : BitVec 32 := if (b - a).toNat < 2 ^ 31 then b else a

/-- CREDIT_FLIT: the sender takes the largest GRANTED that it has seen. -/
def execCreditFlit (n : Nat) (g0 g1 g2 : BitVec 32) (s : State) : Host.Outcome State Fault Refusal :=
  .next (if !devReady s || decide (36 ≤ n) || !linkCounts (link s n) then s
    else pumpLink (modLink s n fun l => { l with granted := l.granted.zipWith laterCount [g0, g1, g2] }) n)

/-- RESYNC_FLIT: GRANTED is taken, SENT is raised to the received count, and the same resync goes back. -/
def execResyncFlit (n : Nat) (g0 g1 g2 r0 r1 r2 : BitVec 32) (s : State) : Host.Outcome State Fault Refusal :=
  .next (if !devReady s || decide (36 ≤ n) || !linkCounts (link s n) then s
    else
      let new := (link s n).sent.zipWith laterCount [r0, r1, r2]
      let s := modLink s n fun l =>
        { l with granted := l.granted.zipWith laterCount [g0, g1, g2], resyncs := if new = l.sent then l.resyncs else l.resyncs + 1, sent := new }
      pumpLink (sendResync s n) n)

/-! ## The host link (R403) -/

/-- Every access that the PCIe link still holds ends. -/
def drainPcie : Nat → State → State
  | 0, s => s
  | fuel + 1, s => drainPcie fuel (pcieHead s false)

/-- HOST_LINK_FAIL: link 36 goes FAILED, and accesses to host memory end as a page that forbids the access. -/
def execHostLinkFail (s : State) : Host.Outcome State Fault Refusal :=
  .next (if !s.power || (link s 36).st == .failed then s
    else
      let s := goLink s 36 .failed
      if devReady s then afterStores (drainPcie s.pcie.length s) else s)

/-- HOST_LINK_UP: the PCIe link has trained. -/
def execHostLinkUp (s : State) : Host.Outcome State Fault Refusal :=
  .next (if !s.power || (link s 36).st == .up then s else goLink s 36 .up)

end Sys2Proof.Machine
end

