-- ==== Sys2Proof/Machine/Trust.lean ====
section
/-! DEFINITION. Trust domains (R405-R419): job slots, the key blob and the manifest, attestation in both directions, revocation, and the host's stream keys. -/

namespace Sys2Proof.Machine

/-! ## Job-slot commands (R405-R407) -/

/-- LINK of JCMD, for ATTEST and REVOKE. -/
def jcmdLink (v : Word) : Nat := fieldOf v 8 8

/-- Reserved bits of JCMD: LINK is reserved for the commands that name no link, and takes 0 to 35. (Model: DEDUCED, unsafe: notes/assumptions 57) -/
def jcmdReserved (v : Word) (links : Bool) : Bool :=
  decide (fieldOf v 4 4 ≠ 0) || decide (fieldOf v 16 48 ≠ 0) || (if links then decide (36 ≤ jcmdLink v) else decide (jcmdLink v ≠ 0))

/-- A command written to JCMD with one of the defined codes. -/
def jobCmd (s : State) (fn j code : Nat) (v : Word) (links : Bool) (ok : JobSt → Bool) (go : State → State) : State :=
  let x := job s j
  if !devReady s || decide (fn ≠ 0) || decide (256 ≤ j) || decide (cmdCode v ≠ code) then s
  else if x.busy then setJob s j { x with err := 7 }
  else if jcmdReserved v links then jobCmdEnd s j code 1
  else if !ok x.st then jobCmdEnd s j code 2
  else go s

/-- Bytes at a physical address; none where the host does not answer or a word cannot be read. -/
def physBytes (s : State) (pa n : Nat) : Option (List Byte) :=
  if (2 ^ 40 ≤ pa && !hostUp s) || poisoned s (physKey pa) n then none else some (rdBytes s (physKey pa) n)

def numAt (l : List Byte) (at_ n : Nat) : Nat := natOfBytes ((l.drop at_).take n)

/-- The entries of a manifest: reference digest, SWITCH, REDUCE; none when a reserved bit is set (R408). -/
def manifestEntries (l : List Byte) (n : Nat) : Option (List (BitVec 512 × Bool × Bool)) :=
  let es := (List.range n).map fun i => (l.drop (2608 + 80 * i)).take 80
  if es.any fun e => decide (4 ≤ numAt e 64 1) || decide (numAt e 65 15 ≠ 0) then none
  else some (es.map fun e => (BitVec.ofNat 512 (numAt e 0 64), (numAt e 64 1).testBit 0, (numAt e 64 1).testBit 1))

/-- The checks of a manifest (R408); the signer's key is the one whose digest the key blob holds. -/
def manifestOf (s : State) (x : Job) (signer : BitVec 512) : Option (List (BitVec 512 × Bool × Bool)) :=
  let len := x.manlen.toNat
  match physBytes s x.manbase.toNat len with
  | none => none
  | some l =>
    let n := numAt l 12 4
    let key := (l.drop 16).take 2592
    if len < 7235 || decide (numAt l 0 4 ≠ 0x464E414D) || decide (numAt l 4 4 ≠ x.jobid.toNat) || decide (numAt l 8 4 ≠ 0) || decide (n < 1) || decide (1024 < n)
        || decide (len ≠ 7235 + 80 * n) then none
    else if sha3 key ≠ signer then none
    else if !Config.mldsaVerify key (l.take (2608 + 80 * n)) ((l.drop (2608 + 80 * n)).take 4627) then none
    else manifestEntries l n

/-- What OPEN finds: the job key and the entries, or its ERR. (Model: DEDUCED, unsafe: notes/assumptions 121) -/
def openJob (s : State) (j : Nat) : Except Nat (BitVec 256 × List (BitVec 512 × Bool × Bool)) :=
  let x := job s j
  if x.jobid = 0 || s.jobs.any (fun p => decide (p.1 ≠ j) && p.2.st != .free && decide (p.2.jobid = x.jobid)) then .error 3
  else match physBytes s x.keyblob.toNat 1688 with
    | none => .error 4
    | some l =>
      if numAt l 0 4 ≠ 0x4B424A48 ∨ numAt l 4 4 ≠ x.jobid.toNat then .error 4
      else match Config.openKeyBlob l with
        | none => .error 4
        | some key =>
          match manifestOf s x (BitVec.ofNat 512 (numAt l 1576 64)) with
          | none => .error 5
          | some es => .ok (key, es)

/-- The counts of packets under a job's pair keys start again with its key (R408). -/
def freshPairs (s : State) (jobid : Nat) : State :=
  { s with pairCounts := s.pairCounts.filter (fun p => decide (p.1 / 4096 ≠ jobid)), nonces := s.nonces.filter fun p => decide (p.1 / 4096 ≠ jobid) }

def execJcmdOpen (fn j : Nat) (v : Word) (s : State) : Host.Outcome State Fault Refusal :=
  .next (jobCmd s fn j 1 v false (· == .free) fun s =>
    match openJob s j with
    | .error e => jobCmdEnd s j 1 e
    | .ok (key, es) =>
      let x := job s j
      jobCmdEnd (setJob (freshPairs s x.jobid.toNat) j { x with st := .opened, key := some key, entries := es, trusted := 0, reducers := 0 }) j 1 0)

/-! ## Attestation (R409, R410) -/

/-- ATTEST: the exchange with the link's peer begins. -/
def execJcmdAttest (fn j : Nat) (v : Word) (s : State) : Host.Outcome State Fault Refusal :=
  .next (jobCmd s fn j 2 v true (· == .opened) fun s =>
    let n := jcmdLink v
    if (link s n).st != .up || (link s n).heldBy then jobCmdEnd s j 2 0x0A
    else
      let s := setJob s j { job s j with busy := true }
      modLink (goLink s n .attesting) n fun l => { l with attestJob := some j, attestStart := s.dtime, ownKeys := false })

/-- An attestation fails: its keys are gone and the link is UP again. -/
def attestFails (s : State) (n j err : Nat) : State := attestEnd (goLink (modLink s n fun l => { l with ownKeys := false, peerKeys := false }) n .up) n j err

/-- A link becomes TRUSTED for a job. -/
def trustLink (s : State) (n j : Nat) : State :=
  let s := modLink (goLink s n .trusted) n fun l => { l with epoch := l.epoch + 1, heldBy := true, jobSlot := j }
  attestEnd (setJob s j { job s j with trusted := (job s j).trusted ||| (1#36 <<< n) }) n j 0

/-- SPDM_RESPONSE: the peer has answered. Its measurements must match an entry of the manifest; its keys are then delivered, and the link is TRUSTED, towards a package once that has
attested this device too. (Model: DESIGN CHOICE, safe: notes/assumptions 59) -/
def execSpdmResponse (n : Nat) (ok : Bool) (digest : BitVec 512) (s : State) : Host.Outcome State Fault Refusal :=
  let l := link s n
  .next (match l.attestJob with
    | none => s
    | some j =>
      if !devReady s || l.st != .attesting || l.ownKeys then s
      else if !ok then attestFails s n j 6
      else match (job s j).entries.find? fun e => decide (e.1 = digest) && e.2.1 == l.peersw with
        | none => attestFails s n j 9
        | some (_, sw, reduce) =>
          let s := if sw && reduce then setJob s j { job s j with reducers := (job s j).reducers ||| (1#36 <<< n) } else s
          let s := modLink s n fun l => { l with ownKeys := true }
          if l.peersw || l.peerKeys then trustLink s n j else s)

/-- SPDM_TIMEOUT: no answer within 200 ms. (Model: DEDUCED, unsafe: notes/assumptions 60) -/
def execSpdmTimeout (n : Nat) (s : State) : Host.Outcome State Fault Refusal :=
  let l := link s n
  .next (match l.attestJob with
    | some j => if devReady s && l.st == .attesting && !l.ownKeys && decide (l.attestStart + 200000000 ≤ s.dtime) then attestFails s n j 6 else s
    | none => s)

/-- PEER_ATTESTATION_REQUEST: the peer package runs the steps towards this device; `ok` when they succeed so far, `keys` once its keys have been delivered. -/
def execPeerAttestationRequest (n : Nat) (ok keys : Bool) (s : State) : Host.Outcome State Fault Refusal :=
  let l := link s n
  .next (if !devReady s || decide (36 ≤ n) || l.peersw || !(l.st == .up || l.st == .attesting) then s
    else if !ok then
      match l.attestJob with
      | some j => attestFails s n j 6
      | none => modLink s n fun l => { l with peerKeys := false }
    else if !keys then s
    else
      let s := modLink s n fun l => { l with peerKeys := true }
      match l.attestJob with
      | some j => if l.ownKeys then trustLink s n j else s
      | none => s)

/-! ## Revocation (R417) -/

/-- REVOKE: new flows, circuits and plans keep off the link from now on. -/
def execJcmdRevoke (fn j : Nat) (v : Word) (s : State) : Host.Outcome State Fault Refusal :=
  .next (jobCmd s fn j 3 v true (· == .opened) fun s =>
    let n := jcmdLink v
    if !(link s n).heldBy || decide ((link s n).jobSlot ≠ j) then jobCmdEnd s j 3 0x0A
    else modLink (setJob s j { job s j with busy := true }) n fun l => { l with revoking := true })

/-- CLOSE: every link that the job holds is revoked. -/
def execJcmdClose (fn j : Nat) (v : Word) (s : State) : Host.Outcome State Fault Refusal :=
  .next (jobCmd s fn j 4 v false (· == .opened) fun s =>
    let x := job s j
    if s.contexts.any fun p => ctxLive p.2 && p.2.ctxjob.getLsbD 32 && decide (fieldOf p.2.ctxjob 0 32 = x.jobid.toNat) then jobCmdEnd s j 4 2
    else
      let s := setJob s j { x with st := .closing, busy := true }
      jobSettle { s with links := Tab.mapVals s.links fun _ l => if l.heldBy && decide (l.jobSlot = j) then { l with revoking := true } else l } j)

/-- Circuits of a revoked link are closed as their streams move off it. -/
def leaveHolders (s : State) (n : Nat) : State :=
  (link s n).holders.foldl (fun s (_, g, gi, tile, lane) => (circClose s g gi tile lane).getD s) s

/-- REVOKE_COMPLETE: once nothing travels on the link any more, its keys are destroyed and it trains again. -/
def execRevokeComplete (n : Nat) (s : State) : Host.Outcome State Fault Refusal :=
  .next (if !devReady s || !(link s n).revoking then s
    else
      let s := leaveHolders s n
      if linkBusy s n then s
      else modLink (leaveLink s n .training) n fun l => { l with trainStart := s.dtime, lanes := 0 })

/-! ## The host's session (R272, R419) -/

/-- SPDM_REQUEST: within the host's session, IDE_KM sets or ends a selective stream that covers some functions. -/
def execSpdmRequest (ide : Bool) (fns : List Nat) (s : State) : Host.Outcome State Fault Refusal :=
  .next (if devReady s then (fns.filter (· < 64)).foldl (fun s f => setFn s f { fnOf s f with ide := ide }) s else s)

end Sys2Proof.Machine
end

