-- ==== Sys2Proof/Machine/Debug.lean ====
section
/-! DEFINITION. Debug units (R444-R448), the freeze wave (R430-R432), the crash capsule and its views (R433-R438), and error injection (R449, R450). -/

namespace Sys2Proof.Machine

/-! ## Debug units (R444, R445) -/

/-- A command written to DBGCMD with one of the defined codes. -/
def dbgCmd (s : State) (fn u code : Nat) (v : Word) (ok : DbgSt → Bool) (go : State → State) : State :=
  if !devReady s || decide (fn ≠ 0) || decide (64 ≤ u) || decide (cmdCode v ≠ code) then s
  else if cmdReserved v then dbgCmdEnd s u 1
  else if !ok (dbg s u).st then dbgCmdEnd s u 2
  else go s

/-- Tokens that have entered a port of a group, named by the consumer's logical work name and a local sink. -/
def portEntered (x : Group) (work sink : Nat) : Nat :=
  (x.image.graphs.map fun (_, gr) =>
    if ((Tab.get? gr.tiles (work % 2 ^ 18)).map (·.stage)) = some (work / 2 ^ 18) then
      match sinkNode? gr (work % 2 ^ 18) sink with
      | some (i, j) => (((gr.chans[i]?).bind fun c => c.nodes[j]?).map (·.entered)).getD 0
      | none => 0
    else 0).foldl max 0

/-- A token breakpoint that is armed when its port has counted its n tokens sets PASSED (R446). -/
def markPassed (s : State) (u : Nat) : State :=
  let d := dbg s u
  match grp? s (fieldOf d.grp 0 16) with
  | none => s
  | some x =>
    (List.range 4).foldl (fun s t =>
      let c := Tab.get d.tbcfg t 0
      let n := Tab.get d.tbcnt t 0
      if c.getLsbD 63 && decide (fieldOf n 0 32 ≤ portEntered x (fieldOf c 0 24) (fieldOf c 24 3)) then
        setDbg s u { dbg s u with tbcnt := Tab.set (dbg s u).tbcnt t (setField n 32 1 1) }
      else s) s

/-- The group that a unit names, when it lives in the context that it names. -/
def dbgGroup (s : State) (d : Dbg) : Option Group :=
  match grp? s (fieldOf d.grp 0 16) with
  | some x => if x.ctx = fieldOf d.grp 16 12 ∧ x.ending = none ∧ x.state ≠ .admitted then some x else none
  | none => none

/-- ATTACH: a live group of a context whose tenant allows it, without another unit. -/
def execDbgcmdAttach (fn u : Nat) (v : Word) (s : State) : Host.Outcome State Fault Refusal :=
  .next (dbgCmd s fn u 1 v (· == .free) fun s =>
    let d := dbg s u
    match dbgGroup s d with
    | none => dbgCmdEnd s u 3
    | some x =>
      if (ctx s x.ctx).conf || !(ctx s x.ctx).dbgcons.getLsbD 1 then dbgCmdEnd s u 5
      else if (unitOf s (fieldOf d.grp 0 16)).isSome then dbgCmdEnd s u 6
      else dbgCmdEnd (markPassed (setDbg s u { d with st := .attached }) u) u 0)

/-- A STOPPED group runs again, with its DRESUME record; a group whose context is being switched is cut for that. -/
def debugResume (s : State) (g : Nat) : State :=
  match grp? s g with
  | none => s
  | some x =>
    if x.state ≠ .stopped then s
    else
      let s := schRecord s g 8 (g % 2 ^ 16 + x.cutNo % 2 ^ 32 * 2 ^ 16)
      let s := letGo s g
      if (ctx s x.ctx).st == .switching then modGrp s g fun x => { x with cutWhy := some .suspend } else bindAll s g

/-- The members of a group's gang on this package that are stopped. -/
def gangStopped (s : State) (g : Nat) : List Nat :=
  match (grp? s g).bind (·.gang) with
  | none => []
  | some y => (s.groups.filter fun p => p.1 ≠ g && (p.2.gang.map (·.id)) == some y.id && p.2.state == .stopped).map (·.1)

/-- DETACH: the unit is disarmed and its group runs. -/
def execDbgcmdDetach (fn u : Nat) (v : Word) (s : State) : Host.Outcome State Fault Refusal :=
  .next (dbgCmd s fn u 2 v (· != .free) fun s =>
    let g := fieldOf (dbg s u).grp 0 16
    dbgCmdEnd (freeUnit (letGo (debugResume s g) g) u) u 0)

/-- STOP: a debugger cut begins. -/
def execDbgcmdStop (fn u : Nat) (v : Word) (s : State) : Host.Outcome State Fault Refusal :=
  .next (dbgCmd s fn u 3 v (· == .attached) fun s => dbgCmdEnd (trigger s u 0 0 noWork 0) u 0)

/-- RESUME: the group runs, and with it every member of its gang. -/
def execDbgcmdResume (fn u : Nat) (v : Word) (s : State) : Host.Outcome State Fault Refusal :=
  .next (dbgCmd s fn u 4 v (· == .stopped) fun s =>
    let g := fieldOf (dbg s u).grp 0 16
    let hs := gangStopped s g
    let s := (g :: hs).foldl debugResume s
    let back (d : Dbg) : Dbg := if d.st == .stopped && has (g :: hs) (fieldOf d.grp 0 16) then { d with st := .attached } else d
    dbgCmdEnd { s with dbgs := Tab.mapVals s.dbgs fun _ d => back d } u 0)

/-! ## Records as a view shows them (R427, R436) -/

def recTime (r : BitVec 128) : Nat := fieldOf r 96 32
def recCtx (r : BitVec 128) : Nat := fieldOf r 84 12
def recClass (r : BitVec 128) : Nat := fieldOf r 80 4
def recCode (r : BitVec 128) : Nat := fieldOf r 72 8

/-- Whether a record is a ring's TIME record. -/
def isTime (r : BitVec 128) : Bool := decide (recClass r = 0) && decide (recCode r = 1)

/-- The DTIME of the last TIME record of a list, or a value before it. -/
def anchorOf (before : Nat) (l : List (BitVec 128)) : Nat := l.foldl (fun a r => if isTime r then fieldOf r 0 64 else a) before

/-- The full time of a record, from the TIME record that rules it (R427). -/
def fullTime (anchor : Nat) (r : BitVec 128) : Nat := anchor / 2 ^ 32 * 2 ^ 32 + recTime r

/-- Whether a view shows a record: `tenant` none is the full view; the table gives n64 0 and CTIME of a context. -/
def shows (tenant : Option Nat) (tab : Nat → Nat × Nat) (time : Nat) (r : BitVec 128) : Bool :=
  match recClass r with
  | 0 | 5 | 7 => true
  | 6 => tenant.isNone
  | _ =>
    let (w, ctime) := tab (recCtx r)
    decide (ctime ≤ time) && (match tenant with
      | none => !w.testBit 18
      | some t => decide (w % 4096 = t))

/-- A redacted record keeps TLOW and CLASS. -/
def redact (r : BitVec 128) : BitVec 128 := BitVec.ofNat 128 (recTime r * 2 ^ 96 + recClass r * 2 ^ 80)

/-- A ring as SEC or a debug unit reads it: a word that fails ECC reads as a DAMAGED record (R429, R433). (Model: DESIGN CHOICE, unsafe: notes/assumptions 79) -/
def ringRead (time : Nat) (k : Cluster) : List (BitVec 128) :=
  k.ring.zipIdx.map fun (r, i) => if has k.hurt (k.ringBase + i) then mkRecord time 0 4 0 0 ((k.ringBase + i) % Config.ringRecords) else r

/-- The context table's entry of a context (R434). -/
def tableEntry (x : Context) : Nat × Nat := (x.tenant.toNat + x.owner.toNat * 2 ^ 12 + boolBit x.conf * 2 ^ 18 + boolBit (ctxLive x) * 2 ^ 19, x.ctime)

/-! ## READ (R448) -/

/-- The pad word that DBGSEL names, if it names one. -/
def dbgPad (x : Group) (sel : Word) : Option Nat :=
  match fieldOf sel 58 2 with
  | 0 => padKey x .up (physCluster x (fieldOf sel 49 9)) 8 (fieldOf sel 0 32)
  | 1 => padKey x .cp (physCluster x (fieldOf sel 49 9)) 8 (fieldOf sel 0 32)
  | 2 => padKey x .dp (physCluster x (fieldOf sel 49 9)) 8 (fieldOf sel 0 32)
  | _ => none

/-- What READ loads: the value, or none where DBGSEL names nothing. The flag tells of an uncorrectable error met on the way. (Model: DEDUCED, unsafe: notes/assumptions 65) -/
def dbgRead (s : State) (g : Nat) (x : Group) (sel : Word) : Option Nat × Bool :=
  let rankOk (r : Nat) : Bool := decide (r < x.ncl)
  let tileOk (t kind : Nat) : Bool := namesTile t && decide (logicalCluster t < x.ncl) && rowOkFor kind (tileRow t)
  let tagView (l : List Token) (i : Nat) (wide : Bool) : Nat :=
    match l[i]? with
    | some t => t.tag.toNat + 2 ^ 8 + (if wide then l.length % 2 ^ 16 * 2 ^ 16 else l.length % 32 * 2 ^ 9)
    | none => if wide then l.length % 2 ^ 16 * 2 ^ 16 else l.length % 32 * 2 ^ 9
  let payload (l : List Token) (i : Nat) : Nat := ((l[i]?).map (·.payload.toNat)).getD 0
  match fieldOf sel 60 4 with
  | 0 =>
    let r := fieldOf sel 49 9
    if !rankOk r then (none, false)
    else
      match dbgPad x sel with
        | some k => (some (rdNum s k 8), poisoned s k 8)
        | none => (some 0, false)
  | 1 =>
    let t := fieldOf sel 0 18
    if !tileOk t 4 then (none, false) else (some (accGet x t (fieldOf sel 18 3) (fieldOf sel 21 5) (fieldOf sel 26 5)).toNat, false)
  | 2 =>
    let t := fieldOf sel 0 18
    if !tileOk t 1 then (none, false)
    else
      let l := ((x.image.graphs.findSome? fun (_, gr) => (Tab.get? gr.tiles t).bind (·.ce)).bind fun c => c.frames[fieldOf sel 18 3]?).map fun f =>
        Tab.get f.entries (4 * fieldOf sel 21 4 + fieldOf sel 25 2) []
      let l := l.getD []
      (some (if sel.getLsbD 38 then tagView l (fieldOf sel 28 4) false else payload l (fieldOf sel 28 4)), false)
  | 3 =>
    let r := fieldOf sel 2 9
    if !rankOk r then (none, false)
    else match Tab.get? x.image.threads (4 * r + fieldOf sel 0 2) with
      | none => (some 0, false)
      | some t =>
        let w := if sel.getLsbD 20 then t.trapWindow else t.window
        (some (((w[fieldOf sel 11 5]?).map fun v => (lane v (fieldOf sel 16 4)).toNat).getD 0), false)
  | 4 =>
    let t := fieldOf sel 0 18
    if !(namesTile t && decide (logicalCluster t < x.ncl)) then (none, false)
    else
      let l := ((x.image.graphs.find? fun (_, gr) => ((Tab.get? gr.tiles t).map (·.stage)) = some (fieldOf sel 18 6)).map fun p => portTokens p.2 t (fieldOf sel 24 3)).getD []
      (some (if sel.getLsbD 38 then tagView l (fieldOf sel 27 11) true else payload l (fieldOf sel 27 11)), false)
  | 5 =>
    let r := fieldOf sel 2 9
    if !rankOk r then (none, false) else (some (srValue s g (4 * r + fieldOf sel 0 2) (fieldOf sel 11 8)), false)
  | 6 =>
    let r := fieldOf sel 0 9
    if !rankOk r then (none, false)
    else
      let k := cluster s (physCluster x r)
      let l := ringRead s.dtime k ++ k.ringq
      let age := fieldOf sel 9 14
      match (if age < l.length then l[l.length - 1 - age]? else none) with
      | none => (some 0, false)
      | some rec_ =>
        let time := fullTime (anchorOf 0 (l.take (l.length - age))) rec_
        let shown := if shows none (fun c => tableEntry (ctx s c)) time rec_ then rec_ else redact rec_
        (some (if sel.getLsbD 23 then fieldOf shown 64 64 else fieldOf shown 0 64), false)
  | _ => (some 0, false)

/-- READ: one item of the stopped group. -/
def execDbgcmdRead (fn u : Nat) (v : Word) (s : State) : Host.Outcome State Fault Refusal :=
  .next (dbgCmd s fn u 5 v (· == .stopped) fun s =>
    let d := dbg s u
    let g := fieldOf d.grp 0 16
    match grp? s g with
    | none => dbgCmdEnd s u 3
    | some x =>
      match dbgRead s g x d.sel with
      | (none, _) => dbgCmdEnd (setDbg s u { d with data := 0 }) u 8
      | (some n, bad) =>
        let s := dbgCmdEnd (setDbg s u { d with data := BitVec.ofNat 64 n }) u 0
        if bad then (match dbgPad x d.sel with | some k => eccTouch s k 8 false | none => s) else s)

/-! ## Fatal faults that SEC detects (R373) -/

/-- SEC_WDOG: the SEC watchdog expires. -/
def execSecWdog (s : State) : Host.Outcome State Fault Refusal :=
  .next (if coreUp s then raiseFatal (devRecord { s with fresh := s.fresh + 1 } 6 4 (Config.secDetail s.fresh).toNat) 0x43 none 0 else s)

/-- SECURITY_VIOLATION: SEC detects a violation, by a cluster, or outside every cluster. -/
def execSecurityViolation (cl : Nat) (detail : BitVec 16) (s : State) : Host.Outcome State Fault Refusal :=
  .next (if coreUp s then raiseFatal (devRecord s 6 3 detail.toNat) 0x42 (if s.present.getLsbD cl then some cl else none) 0 else s)

/-! ## The freeze wave (R430-R432) -/

/-- A cluster stops: what it has queued, then its FREEZE record, the ring's last. -/
def freezeCluster (s : State) (w : Wave) (cl skid : Nat) : State :=
  let origin := w.origin.getD 0x1FF
  modCluster s cl fun k =>
    let k := ringFlush s.dtime (ringFlush s.dtime k)
    let k := recordAt s.dtime 0 2 0 0 (w.next % 2 ^ 16 + skid % 64 * 2 ^ 16 + w.code % 256 * 2 ^ 24 + origin % 512 * 2 ^ 32) k
    { ringPush k with frozen := some (w.next, skid) }

/-- The wave has reached its end: the module is FROZEN, and SEC begins to seal, unless it holds a capsule. (Model: DEDUCED, unsafe: notes/assumptions 71) -/
def waveEnds (s : State) : State :=
  let c := s.capsule
  { s with dev := .frozen
           capsule := if c.held then { c with lost := if c.lost = BitVec.allOnes 16 then c.lost else c.lost + 1 } else { c with sealing := true } }

/-! ## The capsule (R433-R436) -/

/-- Records of a section: the newest 4,096, with ANCHOR. -/
def sectionOf (time : Nat) (k : Cluster) : List (BitVec 128) × Nat × Nat × Nat :=
  let r := ringRead time k
  let n := r.length - 4096
  let l := r.drop n
  let anchor := anchorOf 0 (r.take (n + 1))
  (l, anchor, (k.frozen.map (·.1)).getD 0, (k.frozen.map (·.2)).getD 0)

/-- CAUSE of the header. -/
def causeOf (w : Wave) : Nat := w.code % 256 + boolBit w.origin.isNone * 2 ^ 8 + w.origin.getD 0 % 512 * 2 ^ 9 + w.work % 2 ^ 24 * 2 ^ 18

/-- SEC has sealed: the reserve holds the capsule. -/
def sealNow (s : State) (w : Wave) : State :=
  let c := s.capsule
  { s with capsule :=
      { held := true, sealing := false, cseq := c.cseq + 1, cause := BitVec.ofNat 64 (causeOf w), ftime := w.time, stime := s.dtime, presentMap := s.present
        sections := (presentClusters s).map fun k => (k, sectionOf s.dtime (cluster s k))
        contexts := s.contexts.map fun (n, x) => (n, tableEntry x)
        lost := c.lost, resetPending := c.resetPending } }

/-- A byte string of zeros. -/
def zeros (n : Nat) : List Byte := List.replicate n 0

/-- Labels of the derived keys (R435), by their bytes. -/
def labelSalt : Nat := natOfBytes [0x48, 0x46, 0x53, 0x41, 0x4C, 0x54]

/-- H of R435. -/
def hash (l : List Byte) : List Byte := bytesOf 64 (sha3 l).toNat

/-- The salt of entry i of cluster n; 0 from COUNT on. -/
def saltOf (c : Capsule) (n i count : Nat) : List Byte :=
  if i < count then bytesOf 32 (Config.kmac256 (Config.saltKey c.cseq.toNat) (bytesOf 2 n ++ bytesOf 2 i) labelSalt).toNat else zeros 32

def leafOf (c : Capsule) (n i : Nat) (l : List (BitVec 128)) : List Byte :=
  hash ([0x00] ++ saltOf c n i l.length ++ bytesOf 16 ((l[i]?).getD 0).toNat)

/-- The tree of node() of a depth over leaves from number i on. -/
def treeOf (leaf : Nat → List Byte) : Nat → Nat → List Byte
  | 0, i => leaf i
  | d + 1, i => hash ([0x01] ++ treeOf leaf d (2 * i) ++ treeOf leaf d (2 * i + 1))

/-- Records, ANCHOR, sequence number and skid of a cluster's section; empty for one that is not present. -/
def sectionAt (c : Capsule) (n : Nat) : List (BitVec 128) × Nat × Nat × Nat := Tab.get c.sections n ([], 0, 0, 0)

/-- A section's 64-byte header. -/
def sectionHeader (c : Capsule) (n : Nat) : List Byte :=
  let (l, anchor, seq, skid) := sectionAt c n
  bytesOf 2 n ++ bytesOf 1 (boolBit (c.presentMap.getLsbD n)) ++ bytesOf 1 0 ++ bytesOf 2 l.length ++ bytesOf 2 0 ++ bytesOf 8 anchor ++ bytesOf 2 seq ++ bytesOf 1 skid ++ zeros 45

def treeT (c : Capsule) (n : Nat) : List Byte :=
  if c.presentMap.getLsbD n then treeOf (fun i => leafOf c n i (sectionAt c n).1) 12 0 else zeros 64

def treeC (c : Capsule) (n : Nat) : List Byte := if n < 288 then hash ([0x02] ++ sectionHeader c n ++ treeT c n) else zeros 64

/-- ROOT: 288 clusters and 224 blocks of zeros. -/
def rootOf (c : Capsule) : List Byte := treeOf (treeC c) 9 0

/-- The header of a view; ROOT is given. -/
def viewHeader (c : Capsule) (tenant : Option Nat) (root : List Byte) : List Byte :=
  bytesOf 4 0x53504143 ++ bytesOf 2 0x0100 ++ bytesOf 2 (boolBit tenant.isSome) ++ bytesOf 2 (tenant.getD 0 % 4096) ++ zeros 6 ++ bytesOf 4 c.cseq.toNat
    ++ bytesOf 4 ((List.range 288).filter fun k => c.presentMap.getLsbD k).length ++ bytesOf 8 c.cause.toNat ++ bytesOf 8 c.ftime ++ bytesOf 8 c.stime
    ++ bytesOf 36 c.presentMap.toNat ++ zeros 12 ++ bytesOf 64 Config.serialDigest.toNat ++ root ++ zeros 32

def contextTable (c : Capsule) : List Byte := (List.range 4096).flatMap fun n => let (w, t) := Tab.get c.contexts n (0, 0); bytesOf 8 w ++ bytesOf 8 t

/-- The signature covers the header, with bytes 6 to 15 as zero, and the context table. -/
def signatureOf (c : Capsule) (root : List Byte) : List Byte :=
  let h := viewHeader c none root
  (Config.capsuleSign (h.take 6 ++ zeros 10 ++ h.drop 16 ++ contextTable c) ++ zeros 4864).take 4627 ++ zeros 237

/-- The entry of record i of a section, as a view shows it. -/
def viewEntry (c : Capsule) (tenant : Option Nat) (n i : Nat) : List Byte :=
  let (l, anchor, _, _) := sectionAt c n
  match l[i]? with
  | none => zeros 96
  | some r =>
    let time := fullTime (anchorOf anchor (l.take (i + 1))) r
    if shows tenant (fun k => Tab.get c.contexts k (0, 0)) time r then bytesOf 16 r.toNat ++ [0] ++ zeros 15 ++ saltOf c n i l.length ++ zeros 32
    else bytesOf 16 (redact r).toNat ++ [1] ++ zeros 15 ++ leafOf c n i l

/-- A view, whole. -/
def viewBytes' (c : Capsule) (tenant : Option Nat) : List Byte :=
  let root := rootOf c
  viewHeader c tenant root ++ contextTable c ++ signatureOf c root
    ++ (List.range 288).flatMap fun n => sectionHeader c n ++ (List.range 4096).flatMap (viewEntry c tenant n)

/-- The size of a view. -/
def viewSize : Nat := 113335296

/-! ## Capsule commands (R437) -/

/-- A command written to CAPCMD with one of the defined codes; a field of the other command counts as reserved. -/
def capCmd (s : State) (fn code : Nat) (v : Word) (go : State → State) : State :=
  let x := fnOf s fn
  if !capsuleOpen s || decide (64 ≤ fn) || decide (cmdCode v ≠ code) then s
  else if x.capBusy then setFn s fn { x with capErr := 7 }
  else if fieldOf v 17 15 ≠ 0 ∨ (if code = 1 then fieldOf v 32 32 ≠ 0 else fieldOf v 4 13 ≠ 0) then capCmdEnd s fn 1
  else go s

/-- Whether a function may export a view to a destination. -/
def mayExport (s : State) (fn : Nat) (full : Bool) (tenant dest : Nat) : Bool :=
  decide (fn = 0) || (!full && decide (2 ^ 40 ≤ dest) && s.capsule.contexts.any fun p => decide (p.2.1 % 4096 = tenant) && decide (p.2.1 / 4096 % 64 = fn))

/-- EXPORT: one view is being written to CAPBUF. (Model: DEDUCED, safe, DEDUCED, unsafe: notes/assumptions 58, 61) -/
def execCapcmdExport (fn : Nat) (v : Word) (s : State) : Host.Outcome State Fault Refusal :=
  .next (capCmd s fn 1 v fun s =>
    let x := fnOf s fn
    let full := v.getLsbD 16
    let tenant := fieldOf v 4 12
    if !s.capsule.held then capCmdEnd s fn 2
    else if x.caplen.toNat < viewSize then capCmdEnd s fn 4
    else if !mayExport s fn full tenant x.capbuf.toNat then capCmdEnd s fn 5
    else setFn s fn { x with capBusy := true, exportWhat := some (full, tenant, x.capbuf.toNat) })

/-- EXPORT_COMPLETE: the view stands at its destination, or a write of it failed. (Model: DESIGN CHOICE, unsafe: notes/assumptions 62) -/
def execExportComplete (fn : Nat) (ok : Bool) (s : State) : Host.Outcome State Fault Refusal :=
  .next (match (fnOf s fn).exportWhat with
    | none => s
    | some (full, tenant, dest) =>
      if !capsuleOpen s then s
      else
        let view := viewBytes' s.capsule (if full then none else some tenant)
        let ok := ok && (decide (dest < 2 ^ 40) || hostUp s) && s.capsule.held
        let k := if ok then viewSize else Config.exportWrote s.fresh % viewSize
        let s := wrBytes { s with fresh := s.fresh + 1 } (physKey dest) (view.take k)
        capCmdEnd (setFn s fn { fnOf s fn with exportWhat := none, capdone := BitVec.ofNat 32 k }) fn (if ok then 0 else 8))

/-- ACK: the physical function has kept the capsule, and the reserve is free. -/
def execCapcmdAck (fn : Nat) (v : Word) (s : State) : Host.Outcome State Fault Refusal :=
  .next (capCmd s fn 2 v fun s =>
    if fn ≠ 0 then capCmdEnd s fn 5
    else if !s.capsule.held then capCmdEnd s fn 2
    else if fieldOf v 32 32 ≠ s.capsule.cseq.toNat then capCmdEnd s fn 6
    else capCmdEnd { s with capsule := { Capsule.empty with cseq := s.capsule.cseq, sealing := s.capsule.sealing, resetPending := s.capsule.resetPending } } fn 0)

/-! ## Error injection (R449, R450) -/

/-- FLIP: data bits 0 and 1 of one word, with its check bits left as they were; a second FLIP of the word restores it. -/
def execEinjcmdFlip (fn : Nat) (v : Word) (s : State) : Host.Outcome State Fault Refusal :=
  let cl := fieldOf v 4 9
  let sp := fieldOf v 13 2
  let o := s.einjoff.toNat
  .next (if !devReady s || decide (fn ≠ 0) || decide (cmdCode v ≠ 1) then s
    else if fieldOf v 15 49 ≠ 0 ∨ sp = 3 ∨ (sp < 2 ∧ 2 ^ 23 ≤ o) then einjCmdEnd s 1
    else if !s.present.getLsbD cl then einjCmdEnd s 2
    else if s.groups.any fun p => placed p.2 && has (clustersOf p.2) cl && (ctx s p.2.ctx).conf then einjCmdEnd s 5
    else
      let k := if sp = 0 then upKey cl o else if sp = 1 then cpKey cl o else bsKey cl o
      let s := { s with mem := cellWrite s.mem k (cellRead s.mem k ^^^ 3#8), poison := if has s.poison (k / 8) then s.poison.filter (· ≠ k / 8) else (k / 8) :: s.poison, einjcount := s.einjcount + 1 }
      einjCmdEnd (record s cl 6 5 0 0 (o % 2 ^ 25 + sp * 2 ^ 25 + cl * 2 ^ 32)) 0)

end Sys2Proof.Machine
end

