-- ==== Sys2Proof/Machine/Float.lean ====
section
/-! DEFINITION. The floating-point instructions (R155-R158). -/

namespace Sys2Proof.Machine

/-- A floating-point result delivered under R142, with the flags of signalling inputs (R50). -/
def fpDeliver (f : GFields) (sn : FlagSet) (r : Ex × FlagSet) (u : BitVec 32) : Nat × FlagSet :=
  let (y, fl) := deliverF f.ty f.rnd f.sat u r.1
  (y, sn ||| r.2 ||| fl)

/-- A function of one operand (R155, R156). -/
def fp1 (f : GFields) (op : Ex → Ex × FlagSet) : Nat → Nat → Nat → BitVec 32 → Nat × FlagSet := fun a _ _ u =>
  fpDeliver f (snanFlag f.ty a) (op (decodeF f.ty a)) u

/-- A function of two operands. -/
def fp2 (f : GFields) (op : Ex → Ex → Ex × FlagSet) : Nat → Nat → Nat → BitVec 32 → Nat × FlagSet := fun a b _ u =>
  fpDeliver f (snanFlag f.ty a ||| snanFlag f.ty b) (op (decodeF f.ty a) (decodeF f.ty b)) u

/-- The exact a × b + c, rounded once (R155). (Model: DEDUCED, unsafe: notes/assumptions 124) -/
def exFma (mode : Rnd) (a b c : Ex) : Ex × FlagSet :=
  let (p, f1) := exMul a b
  let (r, f2) := exAdd mode p c
  (r, f1 ||| f2)

/-- 1 / √a (R156). -/
def exRsq (x : Ex) : Ex × FlagSet :=
  match x with
  | .nan => (.nan, 0)
  | .inf neg => if neg then (.nan, flagIV) else (.fin false 0 1, 0)
  | .fin neg n d => if n = 0 then (.inf neg, flagDZ) else if neg then (.nan, flagIV) else exSqrt (.fin false d n)

/-- FABS (R157): the sign cleared; a NaN is canonical. -/
def fabsElem (t : Ty) (a : Nat) : Nat × FlagSet :=
  match decodeF t a with
  | .nan => (canonNaN t, snanFlag t a)
  | _ => (a % 2 ^ signBit t, 0)

/-- FRINT (R157). -/
def frintElem (t : Ty) (mode : Rnd) (u : BitVec 32) (a : Nat) : Nat × FlagSet :=
  match decodeF t a with
  | .nan => (canonNaN t, snanFlag t a)
  | .inf _ => (a % 2 ^ (signBit t + 1), 0)
  | .fin neg n d =>
    let (m, inexact, _) := roundTo mode neg n d 0 u
    ((roundF t .rne 0 (.fin neg m 1)).1, if inexact then flagNX else 0)

def execFadd (f : GFields) (s : State) : Host.Outcome State Fault Refusal :=
  .next (elemOp s f 20 true false true (fp2 f (exAdd f.rnd)))

def execFsub (f : GFields) (s : State) : Host.Outcome State Fault Refusal :=
  .next (elemOp s f 20 true false true (fp2 f fun a b => exAdd f.rnd a (exNeg b)))

def execFmul (f : GFields) (s : State) : Host.Outcome State Fault Refusal :=
  .next (elemOp s f 20 true false true (fp2 f exMul))

def execFma (f : GFields) (s : State) : Host.Outcome State Fault Refusal :=
  .next (elemOp s f 20 true true true fun a b c u =>
    fpDeliver f (snanFlag f.ty a ||| snanFlag f.ty b ||| snanFlag f.ty c) (exFma f.rnd (decodeF f.ty a) (decodeF f.ty b) (decodeF f.ty c)) u)

def execFdiv (f : GFields) (s : State) : Host.Outcome State Fault Refusal :=
  .next (elemOp s f 20 true false true (fp2 f exDiv))

def execFsqrt (f : GFields) (s : State) : Host.Outcome State Fault Refusal :=
  .next (elemOp s f 20 false false true (fp1 f exSqrt))

def execFrcp (f : GFields) (s : State) : Host.Outcome State Fault Refusal :=
  .next (elemOp s f 20 false false true (fp1 f (exDiv (.fin false 1 1))))

def execFrsq (f : GFields) (s : State) : Host.Outcome State Fault Refusal :=
  .next (elemOp s f 20 false false true (fp1 f exRsq))

def execFexp2 (f : GFields) (s : State) : Host.Outcome State Fault Refusal :=
  .next (elemOp s f 20 false false true (fp1 f exExp2))

def execFlog2 (f : GFields) (s : State) : Host.Outcome State Fault Refusal :=
  .next (elemOp s f 20 false false true (fp1 f exLog2))

def execFsin (f : GFields) (s : State) : Host.Outcome State Fault Refusal :=
  .next (elemOp s f 20 false false true (fp1 f exSinPi))

def execFcos (f : GFields) (s : State) : Host.Outcome State Fault Refusal :=
  .next (elemOp s f 20 false false true (fp1 f exCosPi))

def execFtanh (f : GFields) (s : State) : Host.Outcome State Fault Refusal :=
  .next (elemOp s f 20 false false true (fp1 f exTanh))

def execFsigm (f : GFields) (s : State) : Host.Outcome State Fault Refusal :=
  .next (elemOp s f 20 false false true (fp1 f exSigm))

def execFscale (f : GFields) (s : State) : Host.Outcome State Fault Refusal :=
  .next (elemOp s f 20 true false true (fp2 f exScale))

def execFmin (f : GFields) (s : State) : Host.Outcome State Fault Refusal :=
  .next (elemOp s f 20 true false false fun a b _ _ => minMaxF f.ty false a b)

def execFmax (f : GFields) (s : State) : Host.Outcome State Fault Refusal :=
  .next (elemOp s f 20 true false false fun a b _ _ => minMaxF f.ty true a b)

def execFabs (f : GFields) (s : State) : Host.Outcome State Fault Refusal :=
  .next (elemOp s f 20 false false false fun a _ _ _ => fabsElem f.ty a)

def execFrint (f : GFields) (s : State) : Host.Outcome State Fault Refusal :=
  .next (elemOp s f 20 false false true fun a _ _ u => frintElem f.ty f.rnd u a)

def execFcmp (f : GFields) (cc : Fcc) (s : State) : Host.Outcome State Fault Refusal :=
  .next (elemOp s f 16 true false false fun a b _ _ =>
    let (r, fl) := fcmpRel f.ty cc a b
    (onesIf (Ty.width f.ty) r, fl))

def execFclass (f : GFields) (s : State) : Host.Outcome State Fault Refusal :=
  .next (elemOp s f 20 false false false fun a _ _ _ => (2 ^ classBit f.ty a, 0))

end Sys2Proof.Machine
end

