-- ==== Sys2Proof/Machine/Lanes.lean ====
section
/-! DEFINITION. The conversion, lane, bit and mask instructions (R159-R168). -/

namespace Sys2Proof.Machine

/-! ## Element-wise rows -/

/-- CVT on one lane (R159). -/
def cvtLane (f : GFields) (src : Ty) : LaneFn := fun a _ _ l =>
  let ws := Ty.width src
  let wt := Ty.width f.ty
  let m := min (64 / ws) (64 / wt)
  let (xs, fl, l') := mapElems (f.rnd == .rsr && convertRounds src f.ty) (fun k u => convert src f.ty f.rnd f.sat u (elem a ws k)) (List.range m) l
  (packList 64 wt xs, fl, l')

/-- The type of half the width and the same signedness. -/
def halfTy (t : Ty) : Ty :=
  match t with
  | .i16 => .i8 | .n16 => .n8 | .i32 => .i16 | .n32 => .n16 | .i64 => .i32 | _ => .n32

/-- PACK on one lane (R163). -/
def packLane (f : GFields) : LaneFn := fun a b _ l =>
  let w := Ty.width f.ty
  let b := if f.i then immLane f 20 else b
  let narrow (x : Nat) : Nat := deliverI (halfTy f.ty) f.sat (decodeI f.ty x)
  let q := List.range (64 / w)
  (packList 64 (w / 2) (q.map (fun k => narrow (elem a w k)) ++ q.map fun k => narrow (elem b w k)), 0, l)

/-- UNPK on one lane (R163). -/
def unpkLane (f : GFields) : LaneFn := fun a b _ l =>
  let w := Ty.width f.ty
  let b := if f.i then immLane f 20 else b
  let h := elem b w 0 % 2
  (packList 64 w ((List.range (64 / w)).map fun k => lowNat w (decodeI (halfTy f.ty) (elem a (w / 2) (h * (64 / w) + k)))), 0, l)

/-- CLMUL on one lane (R165): products of twice the width at the even elements. -/
def clmulLane (f : GFields) : LaneFn := fun a b _ l =>
  let w := Ty.width f.ty
  let b := if f.i then immLane f 20 else b
  (packList 64 (2 * w) ((List.range (32 / w)).map fun j => clmulNat w (elem a w (2 * j)) (elem b w (2 * j))), 0, l)

def execCvt (f : GFields) (src : Ty) (s : State) : Host.Outcome State Fault Refusal :=
  .next (elementWise s f.pr true false false f.t0 f.t1 (cvtLane f src))

def execPack (f : GFields) (s : State) : Host.Outcome State Fault Refusal :=
  .next (elementWise s f.pr true (!f.i) false f.t0 f.t1 (packLane f))

def execUnpk (f : GFields) (s : State) : Host.Outcome State Fault Refusal :=
  .next (elementWise s f.pr true (!f.i) false f.t0 f.t1 (unpkLane f))

def execClmul (f : GFields) (s : State) : Host.Outcome State Fault Refusal :=
  .next (elementWise s f.pr true (!f.i) false f.t0 f.t1 (clmulLane f))

def execPopc (f : GFields) (s : State) : Host.Outcome State Fault Refusal :=
  .next (elemOp s f 20 false false false (bitElem f fun w a _ _ => popCount w a))

def execClz (f : GFields) (s : State) : Host.Outcome State Fault Refusal :=
  .next (elemOp s f 20 false false false (bitElem f fun w a _ _ => leadingZeros w a))

def execCtz (f : GFields) (s : State) : Host.Outcome State Fault Refusal :=
  .next (elemOp s f 20 false false false (bitElem f fun w a _ _ => lowestBit w a))

def execBrev (f : GFields) (s : State) : Host.Outcome State Fault Refusal :=
  .next (elemOp s f 20 false false false (bitElem f fun w a _ _ => reverseBits w a))

/-! ## Across-lane rows (R144) -/

/-- The immediate in every element of a value. -/
def immValue (f : GFields) : Option Value := if f.i then some (splat (immLane f 20)) else none

/-- Elements of a value by index. -/
def elemsOf (t : Ty) (v : Value) : List Nat := (List.range (Ty.count t)).map fun j => elemTy t v j

/-- Whether element j of an entry is present: its lane is (R144). -/
def present (t : Ty) (l : List Bool) (j : Nat) : Bool := (l[j * Ty.width t / 64]?).getD false

/-- Elements, with the identity in the place of those that are not present (R61, R144). -/
def elemsOr (t : Ty) (v : Value) (pres : List Bool) (ident : Nat) : List Nat :=
  (List.range (Ty.count t)).map fun j => if present t pres j then elemTy t v j else ident

/-- CMPR of R164: the selected elements, in order. -/
def cmprElems (t : Ty) (a b : Value) : List Nat :=
  (List.range (Ty.count t)).filterMap fun j => if elemTy t b j ≠ 0 then some (elemTy t a j) else none

/-- EXPD of R164. -/
def expdElems (t : Ty) (a b : Value) : Nat → List Nat → List Nat
  | _, [] => []
  | m, j :: r => if elemTy t b j ≠ 0 then elemTy t a m :: expdElems t a b (m + 1) r else 0 :: expdElems t a b m r

/-- MSKOP's r (R166). -/
def mskResult (op : MskOp) (n m : Nat) : Nat :=
  match op with
  | .any => boolBit (decide (m ≠ 0))
  | .all => boolBit (decide (m = 2 ^ n - 1))
  | .none => boolBit (decide (m = 0))
  | .cnt => popCount n m
  | .first => if m = 0 then 2 ^ 64 - 1 else lowestBit n m
  | .last => if m = 0 then 2 ^ 64 - 1 else Nat.log2 m

def execShuf (f : GFields) (s : State) : Host.Outcome State Fault Refusal :=
  let w := Ty.width f.ty
  let n := Ty.count f.ty
  .next (acrossLanes s f.pr true (!f.i) f.t0 f.t1 16 (immValue f)
    (fun li l => (packList 1024 w ((elemsOf f.ty li.b).map fun i => elemTy f.ty li.a (i % n)), 0, l)) (fun _ na _ v => valTokens v na))

def execBcast (f : GFields) (s : State) : Host.Outcome State Fault Refusal :=
  let w := Ty.width f.ty
  let n := Ty.count f.ty
  .next (acrossLanes s f.pr true (!f.i) f.t0 f.t1 16 (immValue f)
    (fun li l => (packList 1024 w (List.replicate n (elemTy f.ty li.a (elemTy f.ty li.b 0 % n))), 0, l)) (fun _ na _ v => valTokens v na))

/-- LRED of R162: every element of the result holds the reduction. -/
def execLred (f : GFields) (op : RedOp) (s : State) : Host.Outcome State Fault Refusal :=
  let w := Ty.width f.ty
  .next (acrossLanes s f.pr true false f.t0 f.t1 16 none
    (fun li l =>
      let (r, fl, l') := reduceTree (f.rnd == .rsr) (redStep f.ty f.rnd f.sat op) (Nat.log2 (Ty.count f.ty)) (elemsOr f.ty li.a li.presA (redIdentity f.ty op)) l
      (splat (splatLane w r), fl, l'))
    (fun _ _ _ v => valTokens v 1))

/-- LSCAN of R162. -/
def execLscan (f : GFields) (op : RedOp) (s : State) : Host.Outcome State Fault Refusal :=
  .next (acrossLanes s f.pr true false f.t0 f.t1 16 none
    (fun li l =>
      match elemsOr f.ty li.a li.presA (redIdentity f.ty op) with
      | [] => (0, 0, l)
      | x :: r =>
        let (ys, fl, l') := scanElems (f.rnd == .rsr) (redStep f.ty f.rnd f.sat op) x r l
        (packList 1024 (Ty.width f.ty) (x :: ys), fl, l'))
    (fun _ na _ v => valTokens v na))

def execCmpr (f : GFields) (s : State) : Host.Outcome State Fault Refusal :=
  let w := Ty.width f.ty
  .next (acrossLanes s f.pr true true f.t0 f.t1 16 none
    (fun li l => (packList 1024 w (cmprElems f.ty li.a li.b), 0, l))
    (fun li _ _ v => valTokens v (((cmprElems f.ty li.a li.b).length * w + 63) / 64)))

def execExpd (f : GFields) (s : State) : Host.Outcome State Fault Refusal :=
  let w := Ty.width f.ty
  .next (acrossLanes s f.pr true true f.t0 f.t1 16 none
    (fun li l => (packList 1024 w (expdElems f.ty li.a li.b 0 (List.range (Ty.count f.ty))), 0, l)) (fun _ _ nb v => valTokens v nb))

/-- MKMSK of R166: bit j is element j's. -/
def execMkmsk (f : GFields) (s : State) : Host.Outcome State Fault Refusal :=
  let w := Ty.width f.ty
  .next (acrossLanes s f.pr true false f.t0 f.t1 16 none
    (fun li l => (packList 1024 1 ((elemsOf f.ty li.a).map fun x => boolBit (decide (x ≠ 0))), 0, l))
    (fun _ na _ v => valTokens v ((na * (64 / w) + 63) / 64)))

def execMskop (f : GFields) (op : MskOp) (s : State) : Host.Outcome State Fault Refusal :=
  let n := Ty.count f.ty
  .next (acrossLanes s f.pr true false f.t0 f.t1 ((n + 63) / 64) none
    (fun li l => (splat (BitVec.ofNat 64 (mskResult op n (fieldOf li.a 0 n))), 0, l)) (fun _ _ _ v => valTokens v 1))

/-- LANEID of R167. -/
def execLaneid (f : GFields) (s : State) : Host.Outcome State Fault Refusal :=
  let v : Value := packList 1024 (Ty.width f.ty) (List.range (Ty.count f.ty))
  .next (match s.site with
    | .block g th b slot => fireBlock s g th b slot f.pr false false false f.t0 f.t1 fun _ _ _ l => (v, 0, l)
    | .ce g gi tile fr slot => perIteration s g gi tile fr slot f.pr f.t0 f.t1 (valTokens v 16)
    | _ => s)

/-! ## MX conversion (R168) -/

/-- emax of an MX element type. -/
def mxEmax (t : Ty) : Nat := match t with | .e4 => 8 | .e5 => 15 | _ => 2

/-- |x| of an exact finite value compared: the larger of two magnitudes as ratios. -/
def maxMag (x : Nat × Nat) (y : Ex) : Nat × Nat :=
  match y with
  | .fin _ n d => if x.1 * d < n * x.2 then (n, d) else x
  | _ => x

/-- qnt: the scale. -/
def mxScale (t : Ty) (xs : List Ex) : Nat :=
  if xs.any fun x => match x with | .fin _ _ _ => false | _ => true then 0xFF
  else
    let (n, d) := xs.foldl maxMag (0, 1)
    if n = 0 then 0 else (min (max (log2Ratio n d - mxEmax t + 127) 0) 254).toNat

/-- qnt: block form of 32 f32 elements. (Model: DEDUCED, unsafe: notes/assumptions 125) -/
def mxQuantise (f : GFields) (a : Value) (l : BitVec 32) : Value × FlagSet × BitVec 32 :=
  let bits := (List.range 32).map fun k => elem a 32 k
  let xs := bits.map (decodeF .f32)
  let scale := mxScale f.ty xs
  let sn := bits.foldl (fun fl b => fl ||| snanFlag .f32 b) 0
  let one (k : Nat) (u : BitVec 32) : Nat × FlagSet :=
    if scale = 0xFF then (0, 0) else deliverF f.ty f.rnd f.sat u (exMul ((xs[k]?).getD .nan) (exPow2 (127 - scale))).1
  let (ys, fl, l') := mapElems (f.rnd == .rsr) one (List.range 32) l
  (packList 1024 (Ty.width f.ty) ys ||| BitVec.ofNat 1024 (scale * 2 ^ 960), sn ||| fl, l')

/-- dq: 32 f32 elements of a block with a scale. -/
def mxDequantise (f : GFields) (scale : Nat) (v : Value) (l : BitVec 32) : Value × FlagSet × BitVec 32 :=
  let w := Ty.width f.ty
  let one (k : Nat) (u : BitVec 32) : Nat × FlagSet :=
    let sn := snanFlag f.ty (elem v w k)
    if scale = 0xFF then (canonNaN .f32, sn)
    else
      let (y, fl) := roundF .f32 f.rnd u (exMul (decodeF f.ty (elem v w k)) (exPow2 ((scale : Int) - 127))).1
      (y, sn ||| fl)
  let (ys, fl, l') := mapElems (f.rnd == .rsr) one (List.range 32) l
  (packList 1024 32 ys, fl, l')

/-- dq on one stream-form block (R168): a SCALE and its VAL tokens in A. -/
def fireDequantise (s : State) (g gi tile fr slot : Nat) (f : GFields) : State :=
  match ceFiring? s g gi tile fr slot with
  | none => s
  | some (gr, c) =>
    let usesP : List Opnd := .a :: (if f.pr = .always then [] else [.p])
    let n := 1 + 32 * Ty.width f.ty / 64
    if usesP.any fun o => entryClosed gr c tile fr slot o then ceSettle (ceMark s g gi tile fr slot false) g gi tile
    else
      let a := (entryTokens gr c tile fr slot .a).take n
      let p := if f.pr = .always then [] else valueOf n (entryTokens gr c tile fr slot .p)
      let ends (l : List Token) : Bool := (l.getLast?.map isControl).getD false
      let pReady := f.pr = .always || decide (p.length = n) || ends p
      match a with
      | [] => s
      | h :: body =>
        if ceLowerReady gr c tile slot || !outRoom gr c tile f.t0 f.t1 || !pReady then s
        else if (h :: p).any badToken then elemFreeze s g gi tile TOKEN_BAD
        else if kindOf h = kindSCALE then
          if levelOf h ≠ 0 then elemFreeze s g gi tile TOKEN_BAD
          else if body.any badToken then elemFreeze s g gi tile TOKEN_BAD
          else if body.any isControl || ends p then elemFreeze s g gi tile TOKEN_ALIGN
          else if a.length < n then s
          else
            match grp? s g with
            | none => s
            | some x =>
              let fails := testFails f.pr p.head?
              let (v, fl, l) := mxDequantise f (fieldOf h.payload 0 8) (valueOfTokens body) (lfsrOf x tile)
              let out := if fails then [] else (valTokens v 16).map (heir h)
              let s := consumeEntry s g gi tile fr slot .a n
              let s := if f.pr = .always then s else consumeEntry s g gi tile fr slot .p p.length
              let s := sinkAll s g gi tile (if fails then h :: (body ++ p) else body ++ p)
              let s := if fails then s else setLfsr s g tile l
              let s := ceMark (ceDeliver s g gi tile fr slot f.t0 f.t1 out) g gi tile fr slot (!out.isEmpty)
              ceSettle (if fails then s else graphFlags s g gi tile fl) g gi tile
        else if isControl h then
          if f.pr = .always || (match p with | [t] => sameControl t h | _ => false) then
            let s := consumeEntry s g gi tile fr slot .a 1
            let s := if f.pr = .always then s else sinkAll (consumeEntry s g gi tile fr slot .p 1) g gi tile p
            ceSettle (ceMark (ceDeliver s g gi tile fr slot f.t0 f.t1 [h]) g gi tile fr slot true) g gi tile
          else elemFreeze s g gi tile TOKEN_ALIGN
        else elemFreeze s g gi tile TOKEN_ALIGN

/-- CVTMX (R168). -/
def execCvtmx (f : GFields) (op : MxOp) (s : State) : Host.Outcome State Fault Refusal :=
  .next (match op with
    | .qnt =>
      acrossLanes s f.pr true false f.t0 f.t1 16 none (fun li l => mxQuantise f li.a l)
        (fun _ _ _ v => tok kindSCALE 0 (fieldOf v 960 8) :: valTokens v (32 * Ty.width f.ty / 64))
    | .dq =>
      match s.site with
      | .block g th b slot =>
        fireBlock s g th b slot f.pr true false false f.t0 f.t1 fun a _ _ l => mxDequantise f (fieldOf a 960 8) a l
      | .ce g gi tile fr slot => fireDequantise s g gi tile fr slot f
      | _ => s)

end Sys2Proof.Machine
end

