-- ==== Sys2Proof/Machine/Power.lean ====
section
/-! DEFINITION. The freeze wave's steps and the seal (R430-R433), resets, bring-up, power and temperature (R457-R464), the management controller (R466), and what BAR0 reads (R269). -/

namespace Sys2Proof.Machine

/-! ## What BAR0 reads -/

def devStCode : DevSt → Nat
  | .booting => 0 | .ready => 1 | .recovery => 2 | .frozen => 3 | .failed => 4

/-- DEVSTAT (R458). -/
def devstat (s : State) : Word :=
  BitVec.ofNat 64 (devStCode s.dev + s.bootStep % 8 * 2 ^ 4 + s.booterr.toNat * 2 ^ 8 + s.fatal.toNat * 2 ^ 16 + s.dstate % 4 * 2 ^ 24)

/-- CLPRESENTi: bring-up writes the map at its last step. (Model: DEDUCED, unsafe: notes/assumptions 80) -/
def clpresent (s : State) (i : Nat) : Word := if s.dev == .ready || s.dev == .frozen then BitVec.ofNat 64 (fieldOf s.present (64 * i) 64) else 0

def clgated (s : State) (i : Nat) : Word := BitVec.ofNat 64 (fieldOf s.gated (64 * i) 64)

/-- CAPSTAT of a function (R437). -/
def capstat (s : State) (fn : Nat) : Word :=
  let x := fnOf s fn
  BitVec.ofNat 64 (boolBit s.capsule.held + boolBit x.capBusy * 2 ^ 3 + x.capErr.toNat * 2 ^ 8 + (if s.capsule.held then s.capsule.cseq.toNat else 0) * 2 ^ 32)

def pwrstat (s : State) : Word := BitVec.ofNat 64 (s.watts.toNat + s.junction.toNat * 2 ^ 16 + s.level % 4 * 2 ^ 24)

/-- The capsule that CAPSUM describes, with its ROOT: the one held, or the one that SEC is sealing, whose ROOT and STIME are zero until it has (R437). (Model: DEDUCED, unsafe: notes/assumptions 155) -/
def capsumOf (s : State) : Option (Capsule × List Byte) :=
  if s.capsule.held then some (s.capsule, rootOf s.capsule)
  else if s.capsule.sealing then s.wave.map fun w => ({ (sealNow s w).capsule with stime := 0 }, zeros 64)
  else none

/-- CAPSUM (R437): the full view's header, then a word for each cluster. -/
def capsum (s : State) (off : Nat) : Word :=
  match capsumOf s with
  | none => 0
  | some (c, root) =>
  if off < 256 then BitVec.ofNat 64 (natOfBytes (((viewHeader c none root).drop off).take 8))
  else
    let k := (off - 256) / 8
    let (l, _, seq, skid) := sectionAt c k
    if k < 288 ∧ c.presentMap.getLsbD k then BitVec.ofNat 64 (seq % 2 ^ 16 + skid % 64 * 2 ^ 16 + 2 ^ 22 + ((l.getLast?.map recTime).getD 0) * 2 ^ 32) else 0

/-- What a page fault has stopped in a context: order of arrival, VA, cause, write, group (R355, R368). -/
def stoppedIn (s : State) (c : Nat) : List (Nat × Nat × Nat × Bool × Nat) :=
  s.groups.flatMap fun (g, x) =>
    if x.ctx ≠ c then []
    else
      let named (t : Nat × Nat × Bool × Nat) : Nat × Nat × Nat × Bool × Nat := (t.2.2.2, t.1, t.2.1, t.2.2.1, g)
      (x.image.threads.flatMap fun (_, t) => t.stops.map fun q => named q.2)
        ++ x.image.graphs.flatMap fun (_, gr) => gr.tiles.flatMap fun (_, t) =>
          ([t.mt.bind (·.ag0), t.mt.bind (·.ag1)].filterMap fun a => (a.bind (·.stopped)).map named)
            ++ ((t.ce.map fun c => c.waits.flatMap fun w => w.pos.filterMap fun p => p.stop.map named).getD [])

/-- PGFLT0 and PGFLT1: the oldest of them, and how many there are. -/
def pgflt (s : State) (c : Nat) : Nat × Nat :=
  let l := stoppedIn s c
  match l.find? fun t => l.all fun u => decide (t.1 ≤ u.1) with
  | some (_, va, cause, wr, g) => (va % 2 ^ 57, cause % 256 + boolBit wr * 2 ^ 8 + g % 2 ^ 16 * 2 ^ 16 + l.length % 2 ^ 32 * 2 ^ 32)
  | none => (0, 0)

def ctxStCode : CtxSt → Nat
  | .free => 0 | .opened => 1 | .active => 2 | .switching => 3 | .suspended => 4 | .closing => 5

/-- A register of a context window (R268, R270, R279, R355, R404). -/
def ctxRegRead (s : State) (fn c r : Nat) : Nat :=
  let x := ctx s c
  if r = 0x208 ∧ (fn = 0 ∨ ownerOf s c = fn) then ctxStCode x.st + boolBit x.busy * 2 ^ 3 + x.err.toNat * 2 ^ 8
  else if r = 0x210 ∧ (fn = 0 ∨ ownerOf s c = fn) then x.owner.toNat + x.tenant.toNat * 2 ^ 6
  else if ownerOf s c ≠ fn then 0
  else match r with
    | 0x000 => c
    | 0x008 => x.tenant.toNat
    | 0x010 => x.asid.toNat
    | 0x018 => boolBit x.conf + x.owner.toNat * 2
    | 0x030 => s.dtime % 2 ^ 64
    | 0x090 => stallcycOf x.stallcyc
    | 0x098 => x.samprate.toNat
    | 0x0A0 => x.dbgcons.toNat
    | 0x218 => x.asid.toNat + boolBit x.conf * 2 ^ 16 + x.maxcl.toNat * 2 ^ 17 + x.maxdp.toNat * 2 ^ 26
    | 0x220 => x.csabase.toNat
    | 0x228 => x.csasize.toNat
    | 0x230 => x.ptroot.toNat
    | 0x238 => x.pgiva.toNat
    | 0x240 => x.pgilen.toNat
    | 0x250 => boolBit (x.invals.any fun i => i.pginv.isNone) + x.pgidone.toNat * 2 ^ 32
    | 0x258 => (pgflt s c).1
    | 0x260 => (pgflt s c).2
    | 0x268 => x.ctxjob.toNat
    | _ => 0

def queueStCode : QueueSt → Nat
  | .free => 0 | .idle => 1 | .active => 2 | .stalled => 3 | .resetting => 4

/-- A register of a queue window (R282). -/
def queueRegRead (s : State) (fn q r : Nat) : Nat :=
  let x := queue s q
  if !(if x.st == .free then decide (fn = 0) else decide (ownerOf s (queueCtx x) = fn)) then 0
  else match r with
    | 0x008 => queueStCode x.st + boolBit (x.st == .resetting) * 2 ^ 3 + x.err.toNat * 2 ^ 8
    | 0x010 => x.cfg.toNat
    | 0x018 => x.qbase.toNat
    | 0x020 => x.cqbase.toNat
    | 0x028 => x.pidx.toNat
    | 0x030 => x.cidx.toNat
    | _ => 0

/-- A register of a barrier window (R329). -/
def barRegRead (s : State) (fn b r : Nat) : Nat :=
  let x := barrier s b
  if !(if x.st == .free then decide (fn = 0) else decide (ownerOf s (barCtx x) = fn)) then 0
  else match r with
    | 0x008 => (match x.st with | .free => 0 | .opened => 1 | .broken => 2) + boolBit x.cmd.isSome * 2 ^ 3 + x.err.toNat * 2 ^ 8
    | 0x010 => x.cfg.toNat
    | 0x018 => x.tmo.toNat
    | 0x020 => x.phase.toNat + x.arrived % 2 ^ 32 * 2 ^ 32
    | 0x028 => x.extdrop.toNat
    | _ => 0

/-- A register of a link window (R384, R405). Link 36 shows no counters (R403). -/
def linkRegRead (s : State) (n r : Nat) : Nat :=
  let l := link s n
  match r with
  | 0x008 => linkStCode l.st + boolBit l.busy * 2 ^ 3 + l.err.toNat * 2 ^ 8 + l.lanes.toNat * 2 ^ 16 + boolBit l.peersw * 2 ^ 32 + boolBit (l.atomok && n == 36) * 2 ^ 33
  | 0x010 => if l.peersw then 0 else l.peer.toNat
  | 0x018 => if n = 36 then 0 else l.replayed.toNat + l.crcFail.toNat * 2 ^ 32
  | 0x020 => if n = 36 then 0 else ((l.rgranted[0]?).getD 0).toNat + ((l.granted[0]?).getD 0).toNat * 2 ^ 32
  | 0x028 => if n = 36 then 0 else l.resyncs.toNat
  | 0x030 => l.circuits.toNat
  | 0x038 => if n = 36 then 0 else l.jobSlot % 256 + boolBit l.heldBy * 2 ^ 8 + l.epoch.toNat * 2 ^ 16
  | _ => 0

/-- A register of a job-slot window (R405). -/
def jobRegRead (s : State) (j r : Nat) : Nat :=
  let x := job s j
  match r with
  | 0x008 => (match x.st with | .free => 0 | .opened => 1 | .closing => 2) + boolBit x.busy * 2 ^ 3 + x.err.toNat * 2 ^ 8 + x.trusted.toNat * 2 ^ 16
  | 0x010 => x.jobid.toNat
  | 0x018 => x.keyblob.toNat
  | 0x020 => x.manbase.toNat
  | 0x028 => x.manlen.toNat
  | _ => 0

/-- A register of a debug-unit window (R444). -/
def dbgRegRead (s : State) (u r : Nat) : Nat :=
  let x := dbg s u
  if r = 0x008 then
    (match x.st with | .free => 0 | .attached => 1 | .stopping => 2 | .stopped => 3) + x.err.toNat * 2 ^ 8 + x.why % 8 * 2 ^ 16 + x.trigIdx % 16 * 2 ^ 19
      + x.trigWork % 2 ^ 24 * 2 ^ 24
  else if r = 0x010 then x.grp.toNat
  else if r = 0x018 then x.sel.toNat
  else if r = 0x020 then x.data.toNat
  else if r = 0x028 then x.hit.toNat
  else if r = 0x030 then x.cutNo.toNat
  else if 0x040 ≤ r ∧ r < 0x0C0 then (Tab.get (if r % 16 = 0 then x.wpcfg else x.wpaddr) ((r - 0x040) / 16) 0).toNat
  else if r = 0x0C0 then x.brkid.toNat
  else if r = 0x0C8 then x.brken.toNat
  else if 0x0D0 ≤ r ∧ r < 0x110 then (Tab.get (if r % 16 = 0 then x.tbcfg else x.tbcnt) ((r - 0x0D0) / 16) 0).toNat
  else 0

/-- The registers that only the physical function reads. -/
def pfRegRead (s : State) (off : Nat) : Nat :=
  if off = 0x0050 then s.pcap.toNat
  else if off = 0x0058 then (pwrstat s).toNat
  else if off = 0x0068 then s.gateErr.toNat * 2 ^ 8
  else if 0x0070 ≤ off ∧ off < 0x0098 then (clgated s ((off - 0x0070) / 8)).toNat
  else if off = 0x3000 then s.ccbase.toNat
  else if off = 0x3008 then s.ccsize.toNat
  else if off = 0x3010 then ccUsed s
  else if off = 0x4000 then s.prbase.toNat
  else if off = 0x4008 then s.prsize.toNat
  else if off = 0x4010 then savedUnits s
  else if off = 0x4018 then
    ((presentClusters s).filter fun c => usable s c && !has (heldClusters s) c).length % 2 ^ 9 + (s.groups.filter fun p => p.2.state == .admitted).length % 2 ^ 13 * 2 ^ 9
      + (s.groups.filter fun p => p.2.state == .saved).length % 2 ^ 13 * 2 ^ 22
  else if 0x4020 ≤ off ∧ off < 0x4040 then ((s.clscfg[(off - 0x4020) / 8]?).getD 0).toNat
  else if 0x5000 ≤ off ∧ off < 0x5080 ∧ off % 16 = 0 then (Tab.get s.rpcfg ((off - 0x5000) / 16) 0).toNat
  else if off = 0x5080 then (s.rpzero.map fun p => 2 ^ p.1).foldl (· + ·) 0
  else if off = 0x6000 then s.pkgid.toNat
  else if off = 0x7088 then s.einjoff.toNat
  else if off = 0x7090 then s.einjerr.toNat * 2 ^ 8 + s.einjcount.toNat * 2 ^ 32
  else if 0x8000 ≤ off ∧ off < 0x10000 then (Tab.get s.rtab ((off - 0x8000) / 8) 0).toNat
  else if 0x100000 ≤ off ∧ off < 0x125000 then linkRegRead s ((off - 0x100000) / 4096) (off % 4096)
  else if 0x200000 ≤ off ∧ off < 0x300000 then jobRegRead s ((off - 0x200000) / 4096) (off % 4096)
  else if 0x300000 ≤ off ∧ off < 0x340000 then dbgRegRead s ((off - 0x300000) / 4096) (off % 4096)
  else 0

/-- What a 64-bit read of BAR0 by a function returns (R269, R457); the two registers that a read clears have rows of their own. (Model: DEDUCED, unsafe: notes/assumptions 117) -/
def regRead (s : State) (fn off : Nat) : Word :=
  let x := fnOf s fn
  if !s.power || decide (off % 8 ≠ 0) then 0
  else if off = 0 then devstat s
  else if off < 0x30 then clpresent s ((off - 8) / 8)
  else if off < 0x50 then (if fn ≠ 0 then 0 else if off = 0x38 then s.recaddr else if off = 0x40 then BitVec.ofNat 64 s.reclen.toNat else 0)
  else if off = 0x7008 then capstat s fn
  else if off = 0x7010 then x.capbuf
  else if off = 0x7018 then BitVec.ofNat 64 x.caplen.toNat
  else if off = 0x7020 then BitVec.ofNat 64 x.capdone.toNat
  else if off = 0x7028 then BitVec.ofNat 64 s.capsule.lost.toNat
  else if 0x10000 ≤ off ∧ off < 0x11000 then (if fn = 0 then capsum s (off - 0x10000) else 0)
  else if !readsServed s then 0
  else if off = 0x2000 then x.evbase
  else if off = 0x2008 then BitVec.ofNat 64 x.evsize.toNat
  else if off = 0x2010 then BitVec.ofNat 64 x.evprod.toNat
  else if off = 0x2018 then BitVec.ofNat 64 x.evcons.toNat
  else if off = 0x2020 then BitVec.ofNat 64 (boolBit x.ovf)
  else if 0x1000000 ≤ off ∧ off < 0x2000000 then BitVec.ofNat 64 (ctxRegRead s fn ((off - 0x1000000) / 4096) (off % 4096))
  else if 0x2000000 ≤ off ∧ off < 0x3000000 then BitVec.ofNat 64 (queueRegRead s fn ((off - 0x2000000) / 4096) (off % 4096))
  else if 0x3000000 ≤ off ∧ off < 0x4000000 then BitVec.ofNat 64 (barRegRead s fn ((off - 0x3000000) / 4096) (off % 4096))
  else if fn = 0 then BitVec.ofNat 64 (pfRegRead s off)
  else 0

/-- What a read of the external-arrive page of a barrier returns: PHASE and the barrier's state, to an 8-byte read at its start by the function that owns the barrier's context (R338). -/
def pageRead (s : State) (fn b off size : Nat) : Word :=
  let x := barrier s b
  if !readsServed s || x.st == .free || !barExt x || decide (ownerOf s (barCtx x) ≠ fn) || decide (off ≠ 0) || decide (size ≠ 8) then 0
  else BitVec.ofNat 64 (x.phase.toNat + (if x.st == .broken then 2 ^ 33 else 0))

/-- What a read of the BAR2 page of a queue returns (R283). -/
def doorbellRead (_s : State) (_fn _q _off _size : Nat) : Word := 0

/-! ## Resets (R438, R460) -/

/-- Host memory outlives the module's resets. -/
def hostMem (s : State) : List Host.Cell := s.mem.filter fun c => decide (2 ^ 64 ≤ c.1)

/-- A warm reset: everything goes but the capsule with CAPSUM, CAPLOST and SEC's count, and DTIME; bring-up starts again. The PCIe link and the sensors stay as they are. (Model: DEDUCED, unsafe: notes/assumptions 66) -/
def warmReset (s : State) : State :=
  { State.reset with
    agenda := s.agenda, site := s.site, fresh := s.fresh, cycle := s.cycle, dtime := s.dtime, mem := hostMem s, watts := s.watts, junction := s.junction
    capsule := { s.capsule with sealing := false, resetPending := false }, timeJoined := true
    links := (s.links.filter fun p => decide (p.1 = 36)).map fun p => (36, { Link.reset with st := p.2.st, lanes := p.2.lanes }) }

/-- A warm reset is requested: while the freeze wave runs and while SEC seals, it waits for the end of sealing. A device that has FAILED stays so until power is removed. (Model: DEDUCED, safe: notes/assumptions 67) -/
def askReset (s : State) : State :=
  if !s.power || s.dev == .failed then s
  else if s.capsule.sealing || s.wave.any (fun w => !w.todo.isEmpty) then { s with capsule := { s.capsule with resetPending := true } }
  else warmReset s

/-- RSTCMD WARM; a write with another code or a reserved bit is ignored. -/
def execRstcmdWarm (fn : Nat) (v : Word) (s : State) : Host.Outcome State Fault Refusal :=
  .next (if fn = 0 ∧ v = 1 ∧ s.dstate = 0 then askReset s else s)

/-- A function's live contexts are destroyed. (Model: DEDUCED, unsafe: notes/assumptions 68) -/
def destroyOwned (s : State) (fn : Nat) : State :=
  s.contexts.foldl (fun s (c, x) =>
    if !ctxLive x || decide (x.owner.toNat ≠ fn) || x.st == .closing then s
    else if x.st == .switching then ctxSettle (modCtx s c fun x => { x with destroyDuringSwitch := true, busy := false }) c false
    else destroyCtx (modCtx s c fun x => { x with busy := false }) c) s

/-- FUNCTION_LEVEL_RESET: of the physical function while the device is FROZEN, a warm reset; otherwise the function's contexts are destroyed. -/
def execFunctionLevelReset (fn : Nat) (s : State) : Host.Outcome State Fault Refusal :=
  .next (if fn = 0 ∧ (s.dev = .frozen ∨ hubStopped s = true) then askReset s
    else if devReady s && decide (fn < 64) then destroyOwned s fn
    else s)

/-! ## The freeze wave and the seal (R430-R433) -/

/-- FREEZE_WAVE: the wave reaches the next cluster, or H-die 0 (288). -/
def execFreezeWave (cl : Nat) (skid : BitVec 6) (s : State) : Host.Outcome State Fault Refusal :=
  .next (match s.wave with
    | none => s
    | some w =>
      match w.todo with
      | [] => s
      | c :: rest =>
        if !s.power || c ≠ cl then s
        else
          let s := if c = 288 then { s with wave := some { w with todo := rest, hub := true } }
            else freezeCluster { s with wave := some { w with todo := rest, next := w.next + 1 } } w c skid.toNat
          if rest ≠ [] then s
          else
            let s := waveEnds s
            if !s.capsule.sealing && s.capsule.resetPending then warmReset s else s)

/-- CAPSULE_SEAL: sealing ends; a reset that was requested meanwhile takes effect. -/
def execCapsuleSeal (s : State) : Host.Outcome State Fault Refusal :=
  .next (match s.wave with
    | none => s
    | some w =>
      if !s.power || !s.capsule.sealing || !w.todo.isEmpty then s
      else
        let s := sealNow s w
        if s.capsule.resetPending then warmReset s else s)

/-! ## Bring-up (R457, R459) -/

/-- Power is gone, and with it everything but SEC's count of capsules. -/
def losePower (s : State) : State :=
  { State.reset with
    agenda := s.agenda, site := s.site, fresh := s.fresh, cycle := s.cycle, mem := hostMem s, power := false, dstate := 3
    capsule := { Capsule.empty with cseq := s.capsule.cseq } }

/-- POWER_GOOD: DTIME starts from 0 and bring-up begins. -/
def execPowerGood (s : State) : Host.Outcome State Fault Refusal :=
  .next (if s.power then s else { losePower s with power := true, dstate := 0 })

def execPowerLoss (s : State) : Host.Outcome State Fault Refusal := .next (if s.power then losePower s else s)

/-- Each ring starts with its TIME record. -/
def initRings (s : State) : State :=
  { s with clusters := (presentClusters s).map fun c => (c, { Cluster.reset with ring := [mkRecord s.dtime 0 1 0 0 s.dtime], lastTime := some s.dtime }) }

/-- BRINGUP_STEP: the step in progress ends. `failed` names the clusters that fail their self-test at step 2, `atomok` an AtomicOp completer found at step 5. -/
def execBringupStep (ok : Bool) (failed : List Nat) (atomok : Bool) (s : State) : Host.Outcome State Fault Refusal :=
  .next (if !s.power || s.dev != .booting then s
    else match s.bootStep with
      | 1 => if ok then { s with bootStep := 2 } else { s with dev := .recovery, booterr := 1 }
      | 2 => { s with bootStep := 3, present := clusterMask ((List.range 288).filter fun c => !has failed c) }
      | 3 => if ok then { s with bootStep := 4 } else { s with dev := .failed, booterr := 3 }
      | 4 =>
        if ok then initRings { s with bootStep := 5, mem := s.mem.filter fun c => decide (c.1 < 2 ^ 60) || decide (2 ^ 64 ≤ c.1), poison := s.poison.filter fun w => decide (8 * w < 2 ^ 60) }
        else { s with dev := .failed, booterr := 4 }
      | _ => modLink { s with bootStep := 0, dev := .ready } 36 fun l => { l with atomok := atomok })

/-- RECCMD LOAD in RECOVERY: `ok` tells that the image verified. (Model: DEDUCED, unsafe: notes/assumptions 73) -/
def execReccmdLoad (fn : Nat) (ok : Bool) (s : State) : Host.Outcome State Fault Refusal :=
  .next (if !s.power || decide (fn ≠ 0) || s.dev != .recovery then s
    else if ok && hostUp s && decide (s.reclen.toNat ≤ 8388608) then { s with dev := .booting, bootStep := 2 }
    else { s with booterr := 2 })

/-! ## Clocks and temperature (R15, R461, R462) -/

/-- SUPPLY_SAG: a cycle of a cluster is stretched by n/32 of its period, at most 8/32. (Model: DESIGN CHOICE, safe: notes/assumptions 72) -/
def execSupplySag (cl : Nat) (amount : BitVec 4) (s : State) : Host.Outcome State Fault Refusal :=
  let n := min amount.toNat 8
  .next (if !coreUp s || !s.present.getLsbD cl || stoppedCl s cl || decide (n = 0) then s
    else modCluster s cl fun k => { k with droopCycles := k.droopCycles + 1, droopMax := max k.droopMax n, droopNow := n, droopClean := s.cycle })

/-- DROOP_EPISODE_END: 64 clean cycles have passed. -/
def execDroopEpisodeEnd (cl : Nat) (s : State) : Host.Outcome State Fault Refusal :=
  let k := cluster s cl
  .next (if !coreUp s || stoppedCl s cl || decide (k.droopCycles = 0) || decide (s.cycle < k.droopClean + 64) then s
    else
      let pct := if k.droopMax = 8 then 25 else Config.droopPercent k.droopMax % 256
      let s := record s cl 7 1 0 0 (k.droopCycles % 2 ^ 32 + pct * 2 ^ 32)
      modCluster s cl fun k => { k with droopCycles := 0, droopMax := 0, droopNow := 0, droopClean := 0 })

/-- LEVEL changes, with its THERM record. -/
def goLevel (s : State) (n : Nat) : State := if s.level = n then s else devRecord { s with level := n } 7 3 (s.junction.toNat + n * 2 ^ 8)

/-- Whether power or temperature is over a limit that throttles. -/
def overLimit (s : State) : Bool := decide (s.pcap.toNat < s.watts.toNat) || decide (105 ≤ s.junction.toNat)

/-- THERMAL: module power over 1 ms and the hottest junction. At 125 °C the board removes power. -/
def execThermal (watts : BitVec 13) (temp : BitVec 8) (s : State) : Host.Outcome State Fault Refusal :=
  .next (if !s.power then s
    else if 125 ≤ temp.toNat then losePower s
    else
      let s := { s with watts := watts, junction := temp }
      let over_ := overLimit s
      let s := { s with clearSince := if over_ then none else if s.level = 0 then none else some (s.clearSince.getD s.dtime) }
      if 115 ≤ temp.toNat then goLevel s 2 else if over_ || decide (s.level = 2) then goLevel s 1 else s)

/-- THROTTLE_CLEAR: both conditions have been clear for 1 ms. -/
def execThrottleClear (s : State) : Host.Outcome State Fault Refusal :=
  .next (match s.clearSince with
    | some t => if s.power && decide (s.level ≠ 0) && !overLimit s && decide (t + 1000000 ≤ s.dtime) then goLevel { s with clearSince := none } 0 else s
    | none => s)

/-! ## Power gates and D-states (R463, R464) -/

/-- A cluster's gate changes, with its GATE record; a gated cluster loses its pads and B-store. -/
def setGate (s : State) (cl : Nat) (on : Bool) : State :=
  let s := { s with gated := if on then s.gated ||| (1#288 <<< cl) else s.gated &&& ~~~(1#288 <<< cl) }
  let s := if on then zeroRange (zeroRange (zeroRange s (upKey cl 0) (2 ^ 23)) (cpKey cl 0) (2 ^ 23)) (bsKey cl 0) (2 ^ 25) else s
  record s cl 7 2 0 0 (boolBit on)

/-- A command written to GATECMD with one of the defined codes. -/
def gateCmd (s : State) (fn code : Nat) (v : Word) (on : Bool) : State :=
  let cl := fieldOf v 4 9
  if !devReady s || decide (fn ≠ 0) || decide (cmdCode v ≠ code) then s
  else if fieldOf v 13 51 ≠ 0 then gateCmdEnd s 1
  else if !s.present.getLsbD cl || has (heldClusters s) cl then gateCmdEnd s 2
  else gateCmdEnd (setGate s cl on) 0

def execGatecmdGate (fn : Nat) (v : Word) (s : State) : Host.Outcome State Fault Refusal := .next (gateCmd s fn 1 v true)
def execGatecmdUngate (fn : Nat) (v : Word) (s : State) : Host.Outcome State Fault Refusal := .next (gateCmd s fn 2 v false)

/-- A D-state change, with its DSTATE record. (Model: PRESUMED, unsafe: notes/assumptions 69) -/
def goDstate (s : State) (n : Nat) (sealedFirst : Bool) : State := devRecord { s with dstate := n } 7 4 (n % 4 + boolBit sealedFirst * 2 ^ 8)

/-- Step 1 of entry to D3hot: placed groups with room in the pool are cut, the others discarded; debug units detach and trace sessions are cut short. (Model: DEDUCED, unsafe: notes/assumptions 70) -/
def leaveClusters (s : State) : State :=
  let s := s.dbgs.foldl (fun s (u, d) => if d.st == .free then s else freeUnit (letGo (debugResume s (fieldOf d.grp 0 16)) (fieldOf d.grp 0 16)) u) s
  let s := s.contexts.foldl (fun s (c, _) => traceClose s c true) s
  s.groups.foldl (fun s (g, x) =>
    if !placed x || x.ending.isSome then s
    else if x.cutWhy == some .preempt || x.cutWhy == some .suspend then s
    else if x.gang.isNone && decide (areaUnits x ≤ poolRoom s) then modGrp s g fun y => { y with cutWhy := some .preempt, poolUnits := areaUnits y }
    else endGroup s g 3 0) s

/-- D3HOT: entry begins, and ends once no group holds clusters, or, after a fatal fault, once SEC has sealed. -/
def execD3hot (s : State) : Host.Outcome State Fault Refusal :=
  let gateAll (s : State) : State := (presentClusters s).foldl (fun s c => if s.gated.getLsbD c then s else setGate s c true) s
  .next (if !s.power || decide (s.dstate ≠ 0) then s
    else if s.wave.isSome then
      if s.capsule.sealing || s.wave.any (fun w => !w.todo.isEmpty) then { s with d3Pending := true }
      else goDstate { gateAll s with d3Pending := false } 3 s.capsule.held
    else
      let s := if s.dev == .ready && !s.d3Pending then leaveClusters { s with d3Pending := true } else s
      if s.groups.any fun p => placed p.2 then s else goDstate { gateAll s with d3Pending := false } 3 false)

/-- D0: the clusters are ungated, and SAVED groups may be placed again. -/
def execD0 (s : State) : Host.Outcome State Fault Refusal :=
  .next (if !s.power then s
    else if s.dstate = 0 then { s with d3Pending := false }
    else goDstate ((presentClusters s).foldl (fun s c => if s.gated.getLsbD c then setGate s c false else s) s) 0 false)

/-! ## The management controller (R466) -/

/-- A response to the management controller. -/
def reply (s : State) (l : List Word) : State := if s.power then { s with mctpReply := l } else s

def execGetstat (s : State) : Host.Outcome State Fault Refusal := .next (reply s [devstat s, capstat s 0, pwrstat s])
def execGetpres (s : State) : Host.Outcome State Fault Refusal := .next (reply s ((List.range 5).map (clpresent s) ++ (List.range 5).map (clgated s)))
def execSetpcap (watts : BitVec 13) (s : State) : Host.Outcome State Fault Refusal :=
  .next (if s.power then let s := setPcap s watts; reply s [BitVec.ofNat 64 s.pcap.toNat] else s)
def execWarmrst (s : State) : Host.Outcome State Fault Refusal := .next (reply (askReset s) [])
/-- MCTP_CONTROL: an MCTP control message is answered; it changes nothing that the manual names. (Model: DESIGN CHOICE, safe: notes/assumptions 81) -/
def execMctpControl (s : State) : Host.Outcome State Fault Refusal := .next (reply s [])

end Sys2Proof.Machine
end

