-- ==== Sys2Proof/Machine/Dispatch.lean ====
section
/-! DEFINITION. One arm per constructor of `Instr`: the meaning of each step of the part. -/

namespace Sys2Proof.Machine

def exec (i : Instr) (s : State) : Host.Outcome State Fault Refusal :=
  match i with
  | .add f => Sys2Proof.Machine.execAdd f s
  | .sub f => Sys2Proof.Machine.execSub f s
  | .mul f => Sys2Proof.Machine.execMul f s
  | .mulh f => Sys2Proof.Machine.execMulh f s
  | .div f => Sys2Proof.Machine.execDiv f s
  | .rem f => Sys2Proof.Machine.execRem f s
  | .min f => Sys2Proof.Machine.execMin f s
  | .max f => Sys2Proof.Machine.execMax f s
  | .abs f => Sys2Proof.Machine.execAbs f s
  | .mad f => Sys2Proof.Machine.execMad f s
  | .and f => Sys2Proof.Machine.execAnd f s
  | .or f => Sys2Proof.Machine.execOr f s
  | .xor f => Sys2Proof.Machine.execXor f s
  | .not f => Sys2Proof.Machine.execNot f s
  | .andn f => Sys2Proof.Machine.execAndn f s
  | .shl f => Sys2Proof.Machine.execShl f s
  | .shr f => Sys2Proof.Machine.execShr f s
  | .sra f => Sys2Proof.Machine.execSra f s
  | .rol f => Sys2Proof.Machine.execRol f s
  | .ror f => Sys2Proof.Machine.execRor f s
  | .bfx f => Sys2Proof.Machine.execBfx f s
  | .bfi f => Sys2Proof.Machine.execBfi f s
  | .cmp f cc => Sys2Proof.Machine.execCmp f cc s
  | .sel f => Sys2Proof.Machine.execSel f s
  | .adda f => Sys2Proof.Machine.execAdda f s
  | .movk f => Sys2Proof.Machine.execMovk f s
  | .movkh f => Sys2Proof.Machine.execMovkh f s
  | .fadd f => Sys2Proof.Machine.execFadd f s
  | .fsub f => Sys2Proof.Machine.execFsub f s
  | .fmul f => Sys2Proof.Machine.execFmul f s
  | .fma f => Sys2Proof.Machine.execFma f s
  | .fdiv f => Sys2Proof.Machine.execFdiv f s
  | .fsqrt f => Sys2Proof.Machine.execFsqrt f s
  | .frcp f => Sys2Proof.Machine.execFrcp f s
  | .frsq f => Sys2Proof.Machine.execFrsq f s
  | .fexp2 f => Sys2Proof.Machine.execFexp2 f s
  | .flog2 f => Sys2Proof.Machine.execFlog2 f s
  | .fsin f => Sys2Proof.Machine.execFsin f s
  | .fcos f => Sys2Proof.Machine.execFcos f s
  | .ftanh f => Sys2Proof.Machine.execFtanh f s
  | .fsigm f => Sys2Proof.Machine.execFsigm f s
  | .fscale f => Sys2Proof.Machine.execFscale f s
  | .fmin f => Sys2Proof.Machine.execFmin f s
  | .fmax f => Sys2Proof.Machine.execFmax f s
  | .fabs f => Sys2Proof.Machine.execFabs f s
  | .frint f => Sys2Proof.Machine.execFrint f s
  | .fcmp f cc => Sys2Proof.Machine.execFcmp f cc s
  | .fclass f => Sys2Proof.Machine.execFclass f s
  | .shuf f => Sys2Proof.Machine.execShuf f s
  | .bcast f => Sys2Proof.Machine.execBcast f s
  | .lred f op => Sys2Proof.Machine.execLred f op s
  | .lscan f op => Sys2Proof.Machine.execLscan f op s
  | .pack f => Sys2Proof.Machine.execPack f s
  | .unpk f => Sys2Proof.Machine.execUnpk f s
  | .cmpr f => Sys2Proof.Machine.execCmpr f s
  | .expd f => Sys2Proof.Machine.execExpd f s
  | .clmul f => Sys2Proof.Machine.execClmul f s
  | .popc f => Sys2Proof.Machine.execPopc f s
  | .clz f => Sys2Proof.Machine.execClz f s
  | .ctz f => Sys2Proof.Machine.execCtz f s
  | .brev f => Sys2Proof.Machine.execBrev f s
  | .mkmsk f => Sys2Proof.Machine.execMkmsk f s
  | .mskop f op => Sys2Proof.Machine.execMskop f op s
  | .laneid f => Sys2Proof.Machine.execLaneid f s
  | .cvt f src => Sys2Proof.Machine.execCvt f src s
  | .cvtmx f op => Sys2Proof.Machine.execCvtmx f op s
  | .br f => Sys2Proof.Machine.execBr f s
  | .bri f => Sys2Proof.Machine.execBri f s
  | .call f => Sys2Proof.Machine.execCall f s
  | .calli f => Sys2Proof.Machine.execCalli f s
  | .ret f => Sys2Proof.Machine.execRet f s
  | .halt f => Sys2Proof.Machine.execHalt f s
  | .read f => Sys2Proof.Machine.execRead f s
  | .write f => Sys2Proof.Machine.execWrite f s
  | .null f form => Sys2Proof.Machine.execNull f form s
  | .mov f => Sys2Proof.Machine.execMov f s
  | .krd f => Sys2Proof.Machine.execKrd f s
  | .ld f => Sys2Proof.Machine.execLd f s
  | .st f => Sys2Proof.Machine.execSt f s
  | .ldx f => Sys2Proof.Machine.execLdx f s
  | .stx f => Sys2Proof.Machine.execStx f s
  | .aadd f => Sys2Proof.Machine.execAadd f s
  | .amin f => Sys2Proof.Machine.execAmin f s
  | .amax f => Sys2Proof.Machine.execAmax f s
  | .aand f => Sys2Proof.Machine.execAand f s
  | .aor f => Sys2Proof.Machine.execAor f s
  | .axor f => Sys2Proof.Machine.execAxor f s
  | .axchg f => Sys2Proof.Machine.execAxchg f s
  | .acas f => Sys2Proof.Machine.execAcas f s
  | .afadd f => Sys2Proof.Machine.execAfadd f s
  | .lde f => Sys2Proof.Machine.execLde f s
  | .ldf f => Sys2Proof.Machine.execLdf f s
  | .stf f => Sys2Proof.Machine.execStf f s
  | .fence f => Sys2Proof.Machine.execFence f s
  | .tmov f e => Sys2Proof.Machine.execTmov f e s
  | .tmovt f e => Sys2Proof.Machine.execTmovt f e s
  | .tmovc f e => Sys2Proof.Machine.execTmovc f e s
  | .tmove f e => Sys2Proof.Machine.execTmove f e s
  | .mgo f cfg last => Sys2Proof.Machine.execMgo f cfg last s
  | .accrd f e => Sys2Proof.Machine.execAccrd f e s
  | .accwr f e => Sys2Proof.Machine.execAccwr f e s
  | .accclr f region acc afmt => Sys2Proof.Machine.execAccclr f region acc afmt s
  | .rld f lsp => Sys2Proof.Machine.execRld f lsp s
  | .rst f lsp => Sys2Proof.Machine.execRst f lsp s
  | .ratom f op lsp => Sys2Proof.Machine.execRatom f op lsp s
  | .rmst f lsp => Sys2Proof.Machine.execRmst f lsp s
  | .rinv f lsp => Sys2Proof.Machine.execRinv f lsp s
  | .rfence f => Sys2Proof.Machine.execRfence f s
  | .cred f op => Sys2Proof.Machine.execCred f op s
  | .cgath f => Sys2Proof.Machine.execCgath f s
  | .ca2a f => Sys2Proof.Machine.execCa2a f s
  | .cbcast f => Sys2Proof.Machine.execCbcast f s
  | .enop f q => Sys2Proof.Machine.execEnop f q s
  | .barv f => Sys2Proof.Machine.execBarv f s
  | .barw f => Sys2Proof.Machine.execBarw f s
  | .baraw f => Sys2Proof.Machine.execBaraw f s
  | .bart f => Sys2Proof.Machine.execBart f s
  | .bari f => Sys2Proof.Machine.execBari f s
  | .qput f => Sys2Proof.Machine.execQput f s
  | .qputw f => Sys2Proof.Machine.execQputw f s
  | .launch f => Sys2Proof.Machine.execLaunch f s
  | .spawn f => Sys2Proof.Machine.execSpawn f s
  | .getsr f => Sys2Proof.Machine.execGetsr f s
  | .setsr f => Sys2Proof.Machine.execSetsr f s
  | .trap f => Sys2Proof.Machine.execTrap f s
  | .tret f => Sys2Proof.Machine.execTret f s
  | .brk f => Sys2Proof.Machine.execBrk f s
  | .mcut f => Sys2Proof.Machine.execMcut f s
  | .evt f => Sys2Proof.Machine.execEvt f s
  | .pginv f => Sys2Proof.Machine.execPginv f s
  | .pgprobe f => Sys2Proof.Machine.execPgprobe f s
  | .scanc f => Sys2Proof.Machine.execScanc f s
  | .scanb f => Sys2Proof.Machine.execScanb f s
  | .scand f => Sys2Proof.Machine.execScand f s
  | .scanl f => Sys2Proof.Machine.execScanl f s
  | .skip g gi tile => Sys2Proof.Machine.execSkip g gi tile s
  | .isect f => Sys2Proof.Machine.execIsect f s
  | .union f => Sys2Proof.Machine.execUnion f s
  | .merge f => Sys2Proof.Machine.execMerge f s
  | .gate f => Sys2Proof.Machine.execGate f s
  | .repeatOp f => Sys2Proof.Machine.execRepeatOp f s
  | .reduce f => Sys2Proof.Machine.execReduce f s
  | .filter f => Sys2Proof.Machine.execFilter f s
  | .split f => Sys2Proof.Machine.execSplit f s
  | .lwrc f => Sys2Proof.Machine.execLwrc f s
  | .lwrb f => Sys2Proof.Machine.execLwrb f s
  | .lwrd f => Sys2Proof.Machine.execLwrd f s
  | .mark g gi tile port => Sys2Proof.Machine.execMark g gi tile port s
  | .joinCompare g gi tile upper => Sys2Proof.Machine.execJoinCompare g gi tile upper s
  | .frameAssign g gi tile => Sys2Proof.Machine.execFrameAssign g gi tile s
  | .aglin f => Sys2Proof.Machine.execAglin f s
  | .agnd f => Sys2Proof.Machine.execAgnd f s
  | .aggath f => Sys2Proof.Machine.execAggath f s
  | .agscat f => Sys2Proof.Machine.execAgscat f s
  | .agrange f => Sys2Proof.Machine.execAgrange f s
  | .completionToken g gi tile lane => Sys2Proof.Machine.execCompletionToken g gi tile lane s
  | .mtcmpr f => Sys2Proof.Machine.execMtcmpr f s
  | .mtexpd f => Sys2Proof.Machine.execMtexpd f s
  | .mtown f => Sys2Proof.Machine.execMtown f s
  | .mtsync f => Sys2Proof.Machine.execMtsync f s
  | .mtinv f => Sys2Proof.Machine.execMtinv f s
  | .parkedReaderServed g gi tile => Sys2Proof.Machine.execParkedReaderServed g gi tile s
  | .sweep g gi tile => Sys2Proof.Machine.execSweep g gi tile s
  | .mma f => Sys2Proof.Machine.execMma f s
  | .mmas f => Sys2Proof.Machine.execMmas f s
  | .mdrain f => Sys2Proof.Machine.execMdrain f s
  | .mzero f => Sys2Proof.Machine.execMzero f s
  | .mpass f => Sys2Proof.Machine.execMpass f s
  | .kblockAccumulate g gi tile => Sys2Proof.Machine.execKblockAccumulate g gi tile s
  | .blockMap g th exit => Sys2Proof.Machine.execBlockMap g th exit s
  | .blockCommit g th => Sys2Proof.Machine.execBlockCommit g th s
  | .blockIncomplete g th => Sys2Proof.Machine.execBlockIncomplete g th s
  | .faultReport g th => Sys2Proof.Machine.execFaultReport g th s
  | .engineIssue g th q => Sys2Proof.Machine.execEngineIssue g th q s
  | .engineRetire g th q => Sys2Proof.Machine.execEngineRetire g th q s
  | .engineStall g th => Sys2Proof.Machine.execEngineStall g th s
  | .graphStall g gi => Sys2Proof.Machine.execGraphStall g gi s
  | .servingPointArrival cl k => Sys2Proof.Machine.execServingPointArrival cl k s
  | .pcieCompletion ok => Sys2Proof.Machine.execPcieCompletion ok s
  | .doorbell fn q off size v => Sys2Proof.Machine.execDoorbell fn q off size v s
  | .packetRead q => Sys2Proof.Machine.execPacketRead q s
  | .repoll q => Sys2Proof.Machine.execRepoll q s
  | .commandStart q => Sys2Proof.Machine.execCommandStart q s
  | .nop q => Sys2Proof.Machine.execNop q s
  | .launchCommand q => Sys2Proof.Machine.execLaunchCommand q s
  | .bararv q => Sys2Proof.Machine.execBararv q s
  | .barwt q => Sys2Proof.Machine.execBarwt q s
  | .kload q => Sys2Proof.Machine.execKload q s
  | .kevict q => Sys2Proof.Machine.execKevict q s
  | .tstamp q => Sys2Proof.Machine.execTstamp q s
  | .traceon q => Sys2Proof.Machine.execTraceon q s
  | .traceoff q => Sys2Proof.Machine.execTraceoff q s
  | .qcmdCreate fn q v => Sys2Proof.Machine.execQcmdCreate fn q v s
  | .qcmdReset fn q v => Sys2Proof.Machine.execQcmdReset fn q v s
  | .qcmdResume fn q v => Sys2Proof.Machine.execQcmdResume fn q v s
  | .qcmdDestroy fn q v => Sys2Proof.Machine.execQcmdDestroy fn q v s
  | .ctxcmdCreate fn c v => Sys2Proof.Machine.execCtxcmdCreate fn c v s
  | .ctxcmdSuspend fn c v => Sys2Proof.Machine.execCtxcmdSuspend fn c v s
  | .ctxcmdResume fn c v => Sys2Proof.Machine.execCtxcmdResume fn c v s
  | .ctxcmdDestroy fn c v => Sys2Proof.Machine.execCtxcmdDestroy fn c v s
  | .teardownComplete c => Sys2Proof.Machine.execTeardownComplete c s
  | .bcmdCreate fn b v => Sys2Proof.Machine.execBcmdCreate fn b v s
  | .bcmdReset fn b v => Sys2Proof.Machine.execBcmdReset fn b v s
  | .bcmdDestroy fn b v => Sys2Proof.Machine.execBcmdDestroy fn b v s
  | .barrierTimeout b => Sys2Proof.Machine.execBarrierTimeout b s
  | .externalArrival fn b off size v relaxed => Sys2Proof.Machine.execExternalArrival fn b off size v relaxed s
  | .bextdropRead fn b => Sys2Proof.Machine.execBextdropRead fn b s
  | .sluiceDecision g place victims => Sys2Proof.Machine.execSluiceDecision g place victims s
  | .groupStart g => Sys2Proof.Machine.execGroupStart g s
  | .cut g => Sys2Proof.Machine.execCut g s
  | .quiescent g => Sys2Proof.Machine.execQuiescent g s
  | .cutComplete g => Sys2Proof.Machine.execCutComplete g s
  | .saveComplete g => Sys2Proof.Machine.execSaveComplete g s
  | .configDrain g => Sys2Proof.Machine.execConfigDrain g s
  | .groupComplete g => Sys2Proof.Machine.execGroupComplete g s
  | .groupPark g => Sys2Proof.Machine.execGroupPark g s
  | .promote g => Sys2Proof.Machine.execPromote g s
  | .clusterHold g => Sys2Proof.Machine.execClusterHold g s
  | .budget g => Sys2Proof.Machine.execBudget g s
  | .deadline g => Sys2Proof.Machine.execDeadline g s
  | .gangArm gang midx nmem gto => Sys2Proof.Machine.execGangArm gang midx nmem gto s
  | .gangGo gang => Sys2Proof.Machine.execGangGo gang s
  | .gangGoack gang midx => Sys2Proof.Machine.execGangGoack gang midx s
  | .gangAllgo gang => Sys2Proof.Machine.execGangAllgo gang s
  | .gangAbort gang => Sys2Proof.Machine.execGangAbort gang s
  | .gangDone gang midx => Sys2Proof.Machine.execGangDone gang midx s
  | .gangdone gang => Sys2Proof.Machine.execGangdone gang s
  | .gangTimeout g => Sys2Proof.Machine.execGangTimeout g s
  | .freezeLine g => Sys2Proof.Machine.execFreezeLine g s
  | .pgicmdStart fn c v => Sys2Proof.Machine.execPgicmdStart fn c v s
  | .invalidation c => Sys2Proof.Machine.execInvalidation c s
  | .rpzero fn die v => Sys2Proof.Machine.execRpzero fn die v s
  | .rpzeroComplete die => Sys2Proof.Machine.execRpzeroComplete die s
  | .evstatWrite fn v => Sys2Proof.Machine.execEvstatWrite fn v s
  | .registerWrite fn off v => Sys2Proof.Machine.execRegisterWrite fn off v s
  | .lcmdEnable fn n v => Sys2Proof.Machine.execLcmdEnable fn n v s
  | .lcmdDisable fn n v => Sys2Proof.Machine.execLcmdDisable fn n v s
  | .lcmdRetrain fn n v => Sys2Proof.Machine.execLcmdRetrain fn n v s
  | .linkTrained n lanes sw peer domainTime => Sys2Proof.Machine.execLinkTrained n lanes sw peer domainTime s
  | .trainingTimeout n => Sys2Proof.Machine.execTrainingTimeout n s
  | .laneFail n lane => Sys2Proof.Machine.execLaneFail n lane s
  | .replayLimit n => Sys2Proof.Machine.execReplayLimit n s
  | .lreplayRead fn n => Sys2Proof.Machine.execLreplayRead fn n s
  | .lresyncRead fn n => Sys2Proof.Machine.execLresyncRead fn n s
  | .flit n seqn f => Sys2Proof.Machine.execFlit n seqn f s
  | .creditFlit n g0 g1 g2 => Sys2Proof.Machine.execCreditFlit n g0 g1 g2 s
  | .resyncFlit n g0 g1 g2 r0 r1 r2 => Sys2Proof.Machine.execResyncFlit n g0 g1 g2 r0 r1 r2 s
  | .readRequest n p => Sys2Proof.Machine.execReadRequest n p s
  | .readResponse n p => Sys2Proof.Machine.execReadResponse n p s
  | .writeRequest n p => Sys2Proof.Machine.execWriteRequest n p s
  | .writeAcknowledgement n p => Sys2Proof.Machine.execWriteAcknowledgement n p s
  | .atomicRequest n p => Sys2Proof.Machine.execAtomicRequest n p s
  | .atomicResponse n p => Sys2Proof.Machine.execAtomicResponse n p s
  | .invocation n p => Sys2Proof.Machine.execInvocation n p s
  | .invocationResult n p => Sys2Proof.Machine.execInvocationResult n p s
  | .circuitSetup n p => Sys2Proof.Machine.execCircuitSetup n p s
  | .circuitCompletion n p => Sys2Proof.Machine.execCircuitCompletion n p s
  | .collectiveStep n p => Sys2Proof.Machine.execCollectiveStep n p s
  | .planRequest n p => Sys2Proof.Machine.execPlanRequest n p s
  | .plan n p => Sys2Proof.Machine.execPlan n p s
  | .multicastAcknowledgement n p => Sys2Proof.Machine.execMulticastAcknowledgement n p s
  | .requestTimeout tag => Sys2Proof.Machine.execRequestTimeout tag s
  | .jcmdOpen fn j v => Sys2Proof.Machine.execJcmdOpen fn j v s
  | .jcmdAttest fn j v => Sys2Proof.Machine.execJcmdAttest fn j v s
  | .jcmdRevoke fn j v => Sys2Proof.Machine.execJcmdRevoke fn j v s
  | .jcmdClose fn j v => Sys2Proof.Machine.execJcmdClose fn j v s
  | .spdmResponse n ok digest => Sys2Proof.Machine.execSpdmResponse n ok digest s
  | .spdmTimeout n => Sys2Proof.Machine.execSpdmTimeout n s
  | .revokeComplete n => Sys2Proof.Machine.execRevokeComplete n s
  | .spdmRequest ide fns => Sys2Proof.Machine.execSpdmRequest ide fns s
  | .hostLinkFail => Sys2Proof.Machine.execHostLinkFail s
  | .dbgcmdAttach fn u v => Sys2Proof.Machine.execDbgcmdAttach fn u v s
  | .dbgcmdDetach fn u v => Sys2Proof.Machine.execDbgcmdDetach fn u v s
  | .dbgcmdStop fn u v => Sys2Proof.Machine.execDbgcmdStop fn u v s
  | .dbgcmdResume fn u v => Sys2Proof.Machine.execDbgcmdResume fn u v s
  | .dbgcmdRead fn u v => Sys2Proof.Machine.execDbgcmdRead fn u v s
  | .secWdog => Sys2Proof.Machine.execSecWdog s
  | .freezeWave cl skid => Sys2Proof.Machine.execFreezeWave cl skid s
  | .capsuleSeal => Sys2Proof.Machine.execCapsuleSeal s
  | .capcmdExport fn v => Sys2Proof.Machine.execCapcmdExport fn v s
  | .exportComplete fn ok => Sys2Proof.Machine.execExportComplete fn ok s
  | .capcmdAck fn v => Sys2Proof.Machine.execCapcmdAck fn v s
  | .einjcmdFlip fn v => Sys2Proof.Machine.execEinjcmdFlip fn v s
  | .rstcmdWarm fn v => Sys2Proof.Machine.execRstcmdWarm fn v s
  | .reccmdLoad fn ok => Sys2Proof.Machine.execReccmdLoad fn ok s
  | .functionLevelReset fn => Sys2Proof.Machine.execFunctionLevelReset fn s
  | .powerGood => Sys2Proof.Machine.execPowerGood s
  | .bringupStep ok failed atomok => Sys2Proof.Machine.execBringupStep ok failed atomok s
  | .powerLoss => Sys2Proof.Machine.execPowerLoss s
  | .supplySag cl amount => Sys2Proof.Machine.execSupplySag cl amount s
  | .droopEpisodeEnd cl => Sys2Proof.Machine.execDroopEpisodeEnd cl s
  | .thermal watts temp => Sys2Proof.Machine.execThermal watts temp s
  | .throttleClear => Sys2Proof.Machine.execThrottleClear s
  | .gatecmdGate fn v => Sys2Proof.Machine.execGatecmdGate fn v s
  | .gatecmdUngate fn v => Sys2Proof.Machine.execGatecmdUngate fn v s
  | .d3hot => Sys2Proof.Machine.execD3hot s
  | .d0 => Sys2Proof.Machine.execD0 s
  | .getstat => Sys2Proof.Machine.execGetstat s
  | .getpres => Sys2Proof.Machine.execGetpres s
  | .setpcap watts => Sys2Proof.Machine.execSetpcap watts s
  | .warmrst => Sys2Proof.Machine.execWarmrst s
  | .mctpControl => Sys2Proof.Machine.execMctpControl s
  | .beat g gi ch node => Sys2Proof.Machine.execBeat g gi ch node s
  | .kernelLoadEnd c kid => Sys2Proof.Machine.execKernelLoadEnd c kid s
  | .peerAttestationRequest n ok keys => Sys2Proof.Machine.execPeerAttestationRequest n ok keys s
  | .hostLinkUp => Sys2Proof.Machine.execHostLinkUp s
  | .securityViolation cl detail => Sys2Proof.Machine.execSecurityViolation cl detail s

end Sys2Proof.Machine
end

