-- ==== Sys2Proof/Machine/Place.lean ====
section
/-! DEFINITION. Placing one word or frame where the next step fetches it, for `State.withFetchWord`: a running group on an otherwise ready part, with one
thread, one block or one element that holds it. -/

namespace Sys2Proof.Machine

/-- A part that takes steps: power, READY, D0, no freeze wave. -/
def readyPart (s : State) : State := { s with power := true, dev := .ready, dstate := 0, wave := none }

/-- The agenda's head fetches at a site. -/
def fetchAt (s : State) (site : Site) : State := { s with agenda := { ns := 0, cycles := 0, site := site, act := .fire } :: s.agenda }

/-- Group 0 becomes a running group with an image, on cluster 0. -/
def placeImage (s : State) (im : Image) : State :=
  let s := readyPart s
  { s with groups := Tab.set s.groups 0 (freshGroup im), clusters := Tab.set s.clusters 0 Cluster.reset }

/-- A block of one word whose entries all hold zero. -/
def oneBlock (w : Word) : Block :=
  { freshBlock 0 [w] with entries := (List.range 4).map fun i => (i, BEntry.val 0) }

/-- A graph of one tile, without channels. -/
def oneGraph (t : Nat) (x : Tile) : Graph :=
  { dir := 0, inst := 0, tiles := [(t, x)], chans := [], regions := [], enables := 0, lastMove := 0, stalled := false }

def emptyTile : Tile := { stage := 0, ce := none, su := none, mt := none, mc := none }

/-- A CE with one enabled slot that holds a word, in its one live iteration. -/
def oneCe (w : Word) : Ce :=
  let c := freshCe (w :: List.replicate 15 0) 0 0 0
  { c with sloten := 1, frames := { freshCeFrame with live := true, ks := [0, 0, 0, 0] } :: List.replicate 7 freshCeFrame, nextIter := 1, lastFrame := 0 }

/-- The word of an instruction, where the next step fetches it: slot 0 of a block, or, for an opcode without mode B, slot 0 of a CE. -/
def placeWord (s : State) (w : Word) : State :=
  let inB := ((rowOf (opOfWord w)).map (·.inB)).getD true
  if inB then
    fetchAt (placeImage s { Image.empty with threads := [(0, { freshThread 0 with blocks := [oneBlock w] })] }) (.block 0 0 0 0)
  else
    fetchAt (placeImage s { Image.empty with graphs := [(0, oneGraph 128 { emptyTile with ce := some (oneCe w) })] }) (.ce 0 0 128 0 0)

/-- A frame, where the next step fetches it: the element of a tile of its kind. -/
def placeFrame (s : State) (f : Frame) : State :=
  let put (t lane : Nat) (x : Tile) : State := fetchAt (placeImage s { Image.empty with graphs := [(0, oneGraph t x)] }) (.elem 0 0 t lane)
  match kindOfOp (fieldOf f 0 10) with
  | .su => put 64 0 { emptyTile with su := some (freshSu f) }
  | .mc => put 192 0 { emptyTile with mc := some { freshMc [some f, none, none, none] with pass := some (0, false) } }
  | .ag => put 0 0 { emptyTile with mt := some { fn := none, ag0 := some (freshAg f), ag1 := none } }
  | .mtf => put 0 2 { emptyTile with mt := some { fn := some (freshMtFn f), ag0 := none, ag1 := none } }

/-- A table word, placed. -/
def placeTableWord (s : State) (nbits w : Nat) : State :=
  let bits := w % 2 ^ nbits
  if isFrameBits nbits bits then placeFrame s (BitVec.ofNat 256 bits) else placeWord s (BitVec.ofNat 64 bits)

end Sys2Proof.Machine
end

