-- ==== Sys2Proof/Machine/Step.lean ====
section
/-! DEFINITION. One step of the part: the head of the agenda says which agent moves next, and when. -/

namespace Sys2Proof.Machine

/-- One step: the instruction or frame fetched at a site, an event, or a soft error. With an empty agenda one cycle passes. (Model: DESIGN CHOICE, safe: notes/assumptions 1) -/
def step (s : State) : Host.Outcome State Fault Refusal :=
  match s.agenda with
  | [] => .next (passTime (ownerSettle s) 0 1)
  | a :: rest =>
    let t := breakOverdue (begin_ s a rest)
    match a.act with
    | .event i => if Instr.isEvent i then exec i t else .next t
    | .upset u => .next (upset t u)
    | .fire =>
      match siteInstr t with
      | some i => exec i t
      | none => .next t

/-- The state with one instruction where the next step fetches it. (Model: DESIGN CHOICE, safe: notes/assumptions 2) -/
def State.withFetchWord (s : State) (nbits w : Nat) : State := placeTableWord s nbits w

end Sys2Proof.Machine
end

