-- ==== Sys2Proof/Safety.lean ====
section
/-! DEFINITION. What counts as a safe state and a safe run. -/

namespace Sys2Proof.Safety

/-- The storage keeps its canonical form, and DTIME stays a 64-bit counter. -/
def Safe (s : Machine.State) : Prop := Machine.Memory.wf s.mem = true ∧ s.dtime < 2 ^ 64

/-- A step that neither faults nor refuses. -/
def Goes (s : Machine.State) : Prop := ∃ t, Machine.step s = .next t

end Sys2Proof.Safety
end

