-- ==== Sys2Proof/Certificates/Slice0/Obligations.lean ====
section
/-! DEFINITION. The statements for the provers.  The first part names what the statements share; each `def Obligations.<Name> : Prop` after it is one statement.
Every rule number is a rule of spec/. -/

namespace Sys2Proof.Claims

open Sys2Proof.Machine

/-! ## A slot of a block that fires -/

/-- A slot of a block whose used entries all hold values, whose predicate lets it fire, and whose CE has no lower slot ready (R53, R171, R172). -/
def BlockGo (s : State) (g th b slot : Nat) (pr : Pred) (ua ub uc : Bool) (x : Group) (k : Block) (va vb vc : Value) : Prop :=
  s.site = .block g th b slot ∧ grp? s g = some x ∧ firing? s g th b slot = some k
    ∧ takeEntries k slot pr ua ub uc = .go va vb vc ∧ lowerReady s g th k slot = false

/-- A block's slot has fired with a value, flags, and its CE's LFSR at `l` (R53, R57, R142, R171). -/
def firedWith (s : State) (g th b slot : Nat) (x : Group) (k : Block) (t0 t1 : Option Target) (v : Value) (fl : FlagSet) (l : BitVec 32) : State :=
  let s := markFired s g th b slot
  let s := if l = lfsrOf x (ceTile k th slot) then s else setLfsr s g (ceTile k th slot) l
  blockFlags (deliver s g th b slot t0 t1 (.val v)) g th b slot fl

/-- The LFSR after n steps (R53). -/
def lfsrAfter : Nat → BitVec 32 → BitVec 32
  | 0, l => l
  | n + 1, l => lfsrAfter n (lfsrStep l)

/-- The LFSR's value that element j draws: its (j+1)-th step under RSR, no step in any other mode (R53). -/
def drawOf (rsr : Bool) (l : BitVec 32) (j : Nat) : BitVec 32 := if rsr then lfsrAfter (j + 1) l else l

/-- Element j of an operand, its sign bit inverted where the instruction says so (R141). -/
def opElem (t : Ty) (neg : Bool) (v : Value) (j : Nat) : Nat :=
  if neg then elemTy t v j ^^^ 2 ^ signBit t else elemTy t v j

/-- The immediate element, its sign bit inverted where the instruction says so (R68, R141). -/
def opImm (t : Ty) (neg : Bool) (n : Nat) (imm : BitVec 20) : Nat :=
  if neg then immElem t n imm.toNat % 2 ^ Ty.width t ^^^ 2 ^ signBit t else immElem t n imm.toNat % 2 ^ Ty.width t

/-- A row of the element-wise tables of chapter 8: its fields, the width of its immediate, whether it uses B and C, whether its result is rounded under RND, and what
one element becomes, with the flags that it raises, from the elements of A, B and C and the LFSR's draw. -/
structure ElemRow where
  f : GFields
  imm : Nat
  ub : Bool
  uc : Bool
  rounds : Bool
  out : Nat → Nat → Nat → BitVec 32 → Nat × FlagSet

/-- A row that raises no flag and rounds nothing. -/
def plainRow (f : GFields) (imm : Nat) (ub uc : Bool) (out : Nat → Nat → Nat → Nat) : ElemRow :=
  { f := f, imm := imm, ub := ub, uc := uc, rounds := false, out := fun a b c _ => (out a b c, 0) }

/-- Element j of operand B of a row: the immediate where I is set (R141). -/
def rowB (r : ElemRow) (vb : Value) (j : Nat) : Nat := if r.f.i then opImm r.f.ty r.f.nb r.imm r.f.imm else opElem r.f.ty r.f.nb vb j

/-- What a row gives for element j of its operands. -/
def rowOut (r : ElemRow) (va vb vc : Value) (l : BitVec 32) (j : Nat) : Nat × FlagSet :=
  r.out (opElem r.f.ty r.f.na va j) (rowB r vb j) (opElem r.f.ty r.f.nc vc j) (drawOf (r.rounds && r.f.rnd == .rsr) l j)

/-- An instruction completes at a block's slot as its row says: every element of the value is the row's, every flag is raised, the LFSR steps once an element under RSR, and the
value reaches both targets (R53, R142, R143). -/
def RowCompletes (i : Instr) (r : ElemRow) : Prop :=
  ∀ (s : State) (g th b slot : Nat) (x : Group) (k : Block) (va vb vc : Value),
    BlockGo s g th b slot r.f.pr true (r.ub && !r.f.i) r.uc x k va vb vc →
      ∃ v : Value,
        exec i s = .next (firedWith s g th b slot x k r.f.t0 r.f.t1 v
          ((List.range (Ty.count r.f.ty)).foldl (fun fl j => fl ||| (rowOut r va vb vc (lfsrOf x (ceTile k th slot)) j).2) 0)
          (if r.rounds && r.f.rnd == .rsr then lfsrAfter (Ty.count r.f.ty) (lfsrOf x (ceTile k th slot)) else lfsrOf x (ceTile k th slot)))
        ∧ ∀ j, j < Ty.count r.f.ty →
            elem v (Ty.width r.f.ty) j = (rowOut r va vb vc (lfsrOf x (ceTile k th slot)) j).1 % 2 ^ Ty.width r.f.ty

/-! ## The rows of R148 to R158 and R165 -/

/-- The integer arithmetic of R148 and R149: e by row, delivered under R142. -/
def arithRow : Instr → Option ElemRow
  | .add f => some (plainRow f 20 true false fun a b _ => deliverI f.ty f.sat (decodeI f.ty a + decodeI f.ty b))
  | .sub f => some (plainRow f 20 true false fun a b _ => deliverI f.ty f.sat (decodeI f.ty a - decodeI f.ty b))
  | .mul f => some (plainRow f 20 true false fun a b _ => deliverI f.ty f.sat (decodeI f.ty a * decodeI f.ty b))
  | .mulh f => some (plainRow f 20 true false fun a b _ => lowNat (Ty.width f.ty) (Int.fdiv (decodeI f.ty a * decodeI f.ty b) (2 ^ Ty.width f.ty)))
  | .div f => some (plainRow f 20 true false fun a b _ =>
      if decodeI f.ty b = 0 then 2 ^ Ty.width f.ty - 1 else deliverI f.ty f.sat ((decodeI f.ty a).tdiv (decodeI f.ty b)))
  | .rem f => some (plainRow f 20 true false fun a b _ =>
      if decodeI f.ty b = 0 then a
      else lowNat (Ty.width f.ty) (decodeI f.ty a - decodeI f.ty b * (decodeI f.ty a).tdiv (decodeI f.ty b)))
  | .min f => some (plainRow f 20 true false fun a b _ => if decodeI f.ty a ≤ decodeI f.ty b then a else b)
  | .max f => some (plainRow f 20 true false fun a b _ => if decodeI f.ty a ≤ decodeI f.ty b then b else a)
  | .abs f => some (plainRow f 20 false false fun a _ _ => deliverI f.ty f.sat |decodeI f.ty a|)
  | .mad f => some (plainRow f 20 true true fun a b c => deliverI f.ty f.sat (decodeI f.ty a * decodeI f.ty b + decodeI f.ty c))
  | _ => none

/-- The logical and shift rows of R150; s is the shift amount read as unsigned. -/
def logicRow : Instr → Option ElemRow
  | .and f => some (plainRow f 20 true false fun a b _ => a &&& b)
  | .or f => some (plainRow f 20 true false fun a b _ => a ||| b)
  | .xor f => some (plainRow f 20 true false fun a b _ => a ^^^ b)
  | .not f => some (plainRow f 20 false false fun a _ _ => (2 ^ Ty.width f.ty - 1) ^^^ a)
  | .andn f => some (plainRow f 20 true false fun a b _ => a &&& ((2 ^ Ty.width f.ty - 1) ^^^ b))
  | .shl f => some (plainRow f 20 true false fun a b _ => deliverI f.ty f.sat (decodeI f.ty a * 2 ^ b))
  | .shr f => some (plainRow f 20 true false fun a b _ => a / 2 ^ b)
  | .sra f => some (plainRow f 20 true false fun a b _ => lowNat (Ty.width f.ty) (Int.fdiv (sext a (Ty.width f.ty)) (2 ^ b)))
  | .rol f => some (plainRow f 20 true false fun a b _ => a * 2 ^ (b % Ty.width f.ty) + a / 2 ^ (Ty.width f.ty - b % Ty.width f.ty))
  | .ror f => some (plainRow f 20 true false fun a b _ => a / 2 ^ (b % Ty.width f.ty) + a * 2 ^ (Ty.width f.ty - b % Ty.width f.ty))
  | _ => none

/-- The field, comparison, selection and address rows of R151, R152 and R153. -/
def fieldRow : Instr → Option ElemRow
  | .bfx f => some (plainRow f 20 true false fun a b _ =>
      let pos := b % 256
      let len := b / 256 % 256
      let e := Int.emod (Int.fdiv (decodeI f.ty a) (2 ^ pos)) (2 ^ len)
      if len = 0 then 0 else lowNat (Ty.width f.ty) (if Ty.isSigned f.ty ∧ 2 ^ (len - 1) ≤ e then e - 2 ^ len else e))
  | .bfi f => some (plainRow f 20 true true fun a b c =>
      let w := Ty.width f.ty
      let pos := b % 256
      let len := b / 256 % 256
      let n := if w ≤ pos then 0 else min len (w - pos)
      let m := (2 ^ n - 1) * 2 ^ pos
      (a &&& ((2 ^ w - 1) ^^^ m)) ||| (c * 2 ^ pos &&& m))
  | .cmp f cc => some (plainRow f 16 true false fun a b _ =>
      let x := decodeI f.ty a
      let y := decodeI f.ty b
      let holds := match cc with
        | .eq => decide (x = y) | .ne => decide (x ≠ y) | .lt => decide (x < y) | .le => decide (x ≤ y) | .gt => decide (y < x) | .ge => decide (y ≤ x)
      if holds then 2 ^ Ty.width f.ty - 1 else 0)
  | .sel f => some (plainRow f 20 true true fun a b c => if c = 0 then b else a)
  | .adda f => some (plainRow f 20 true false fun a b _ => ((((a % 2 ^ 57 : Nat) : Int) + sext b 64) % 2 ^ 57).toNat)
  | _ => none

/-- A floating-point row: x exact, delivered under R142, with IV for a signalling input (R50). -/
def fpRow (f : GFields) (ub uc : Bool) (sn : Nat → Nat → Nat → FlagSet) (x : Nat → Nat → Nat → Ex × FlagSet) : ElemRow :=
  { f := f, imm := 20, ub := ub, uc := uc, rounds := true, out := fun a b c u =>
      let d := deliverF f.ty f.rnd f.sat u (x a b c).1
      (d.1, sn a b c ||| (x a b c).2 ||| d.2) }

/-- The floating-point arithmetic of R155. -/
def floatRow : Instr → Option ElemRow
  | .fadd f => some (fpRow f true false (fun a b _ => snanFlag f.ty a ||| snanFlag f.ty b) fun a b _ => exAdd f.rnd (decodeF f.ty a) (decodeF f.ty b))
  | .fsub f => some (fpRow f true false (fun a b _ => snanFlag f.ty a ||| snanFlag f.ty b) fun a b _ => exAdd f.rnd (decodeF f.ty a) (exNeg (decodeF f.ty b)))
  | .fmul f => some (fpRow f true false (fun a b _ => snanFlag f.ty a ||| snanFlag f.ty b) fun a b _ => exMul (decodeF f.ty a) (decodeF f.ty b))
  | .fma f => some (fpRow f true true (fun a b c => snanFlag f.ty a ||| snanFlag f.ty b ||| snanFlag f.ty c) fun a b c =>
      let p := exMul (decodeF f.ty a) (decodeF f.ty b)
      let r := exAdd f.rnd p.1 (decodeF f.ty c)
      (r.1, p.2 ||| r.2))
  | .fdiv f => some (fpRow f true false (fun a b _ => snanFlag f.ty a ||| snanFlag f.ty b) fun a b _ => exDiv (decodeF f.ty a) (decodeF f.ty b))
  | .fsqrt f => some (fpRow f false false (fun a _ _ => snanFlag f.ty a) fun a _ _ => exSqrt (decodeF f.ty a))
  | .frcp f => some (fpRow f false false (fun a _ _ => snanFlag f.ty a) fun a _ _ => exDiv (.fin false 1 1) (decodeF f.ty a))
  | .fscale f => some (fpRow f true false (fun a b _ => snanFlag f.ty a ||| snanFlag f.ty b) fun a b _ => exScale (decodeF f.ty a) (decodeF f.ty b))
  | _ => none

/-- The functions of R155 and R156, each exact before it is delivered. -/
def functionRow : Instr → Option ElemRow
  | .frsq f => some (fpRow f false false (fun a _ _ => snanFlag f.ty a) fun a _ _ => exRsq (decodeF f.ty a))
  | .fexp2 f => some (fpRow f false false (fun a _ _ => snanFlag f.ty a) fun a _ _ => exExp2 (decodeF f.ty a))
  | .flog2 f => some (fpRow f false false (fun a _ _ => snanFlag f.ty a) fun a _ _ => exLog2 (decodeF f.ty a))
  | .fsin f => some (fpRow f false false (fun a _ _ => snanFlag f.ty a) fun a _ _ => exSinPi (decodeF f.ty a))
  | .fcos f => some (fpRow f false false (fun a _ _ => snanFlag f.ty a) fun a _ _ => exCosPi (decodeF f.ty a))
  | .ftanh f => some (fpRow f false false (fun a _ _ => snanFlag f.ty a) fun a _ _ => exTanh (decodeF f.ty a))
  | .fsigm f => some (fpRow f false false (fun a _ _ => snanFlag f.ty a) fun a _ _ => exSigm (decodeF f.ty a))
  | _ => none

/-- The selecting, sign, integral-value, comparison and class rows of R157 and R158. -/
def fpSelectRow : Instr → Option ElemRow
  | .fmin f => some { f := f, imm := 20, ub := true, uc := false, rounds := false, out := fun a b _ _ => minMaxF f.ty false a b }
  | .fmax f => some { f := f, imm := 20, ub := true, uc := false, rounds := false, out := fun a b _ _ => minMaxF f.ty true a b }
  | .fabs f => some { f := f, imm := 20, ub := false, uc := false, rounds := false, out := fun a _ _ _ =>
      if (decodeF f.ty a = Ex.nan) then (canonNaN f.ty, snanFlag f.ty a) else (a % 2 ^ signBit f.ty, 0) }
  | .frint f => some { f := f, imm := 20, ub := false, uc := false, rounds := true, out := fun a _ _ u =>
      (match decodeF f.ty a with
      | .nan => (canonNaN f.ty, snanFlag f.ty a)
      | .inf _ => (a % 2 ^ (signBit f.ty + 1), 0)
      | .fin neg n d =>
        let m := roundTo f.rnd neg n d 0 u
        ((roundF f.ty .rne 0 (.fin neg m.1 1)).1, if m.2.1 then flagNX else 0)) }
  | .fcmp f cc => some { f := f, imm := 16, ub := true, uc := false, rounds := false, out := fun a b _ _ =>
      (if (fcmpRel f.ty cc a b).1 then 2 ^ Ty.width f.ty - 1 else 0, (fcmpRel f.ty cc a b).2) }
  | .fclass f => some (plainRow f 20 false false fun a _ _ => 2 ^ classBit f.ty a)
  | _ => none

/-- The bit rows of R165 that act on one element. -/
def bitRow : Instr → Option ElemRow
  | .popc f => some (plainRow f 20 false false fun a _ _ => ((List.range (Ty.width f.ty)).filter fun i => a.testBit i).length)
  | .clz f => some (plainRow f 20 false false fun a _ _ => if a = 0 then Ty.width f.ty else Ty.width f.ty - 1 - Nat.log2 a)
  | .ctz f => some (plainRow f 20 false false fun a _ _ => ((List.range (Ty.width f.ty)).find? fun i => a.testBit i).getD (Ty.width f.ty))
  | .brev f => some (plainRow f 20 false false fun a _ _ =>
      (List.range (Ty.width f.ty)).foldl (fun acc i => acc + (if a.testBit i then 2 ^ (Ty.width f.ty - 1 - i) else 0)) 0)
  | _ => none

/-! ## The rows that work on whole values -/

/-- An instruction completes at a block's slot with the value, flags and LFSR that a relation allows, from the values of A and B and the LFSR before. -/
def ValueCompletes (i : Instr) (pr : Pred) (ua ub : Bool) (t0 t1 : Option Target)
    (gives : (a b v : Value) → (fl : FlagSet) → (l l' : BitVec 32) → Prop) : Prop :=
  ∀ (s : State) (g th b slot : Nat) (x : Group) (k : Block) (va vb vc : Value),
    BlockGo s g th b slot pr ua ub false x k va vb vc →
      ∃ (v : Value) (fl : FlagSet) (l' : BitVec 32),
        exec i s = .next (firedWith s g th b slot x k t0 t1 v fl l') ∧ gives va vb v fl (lfsrOf x (ceTile k th slot)) l'

/-- A result without flags that leaves the LFSR alone. -/
def quietly (gives : (a b v : Value) → Prop) : (a b v : Value) → (fl : FlagSet) → (l l' : BitVec 32) → Prop :=
  fun a b v fl l l' => fl = 0 ∧ l' = l ∧ gives a b v

/-- Element j of B, or the immediate, for a row of R160. -/
def laneB (f : GFields) (b : Value) (j : Nat) : Nat := if f.i then immElem f.ty 20 f.imm.toNat % 2 ^ Ty.width f.ty else elemTy f.ty b j

/-- The elements of A, in order. -/
def elemsA (t : Ty) (a : Value) : List Nat := (List.range (Ty.count t)).map fun j => elemTy t a j

/-- MSKOP's r of R166 for a mask M of n bits. -/
def maskAnswer (op : MskOp) (n M : Nat) : Nat :=
  match op with
  | .any => if M ≠ 0 then 1 else 0
  | .all => if M = 2 ^ n - 1 then 1 else 0
  | .none => if M = 0 then 1 else 0
  | .cnt => ((List.range n).filter fun i => M.testBit i).length
  | .first => if M = 0 then 0xFFFFFFFFFFFFFFFF else ((List.range n).find? fun i => M.testBit i).getD 0
  | .last => if M = 0 then 0xFFFFFFFFFFFFFFFF else Nat.log2 M

/-- One step of LRED and LSCAN is the instruction that R162 names, with RND and SAT. -/
def reduceStepOf (f : GFields) (op : RedOp) : Nat → Nat → BitVec 32 → Nat × FlagSet := redStep f.ty f.rnd f.sat op

/-! ## A slot of a resident graph that fires -/

/-- All element-wise rows. -/
def elemRow (i : Instr) : Option ElemRow :=
  (arithRow i).or ((logicRow i).or ((fieldRow i).or ((floatRow i).or ((functionRow i).or ((fpSelectRow i).or (bitRow i))))))

/-- The operands that a row uses at a slot of a graph, P last if PR is not 00 (R38). -/
def rowUses (r : ElemRow) : List Opnd :=
  [Opnd.a] ++ (if r.ub && !r.f.i then [Opnd.b] else []) ++ (if r.uc then [Opnd.c] else [])

/-- One position of a firing: the source tokens of its used entries, lowest entry first, and its P token if PR is not 00 (R43, R172). -/
structure PosIn where
  srcs : List Token
  p : Option Token

/-- Whether the predicate keeps a position from sending: its P token is a value that fails the test (R172). -/
def predicateFails (pr : Pred) (p : Option Token) : Bool :=
  match pr, p with
  | .ifTrue, some t => isValue t && decide (t.payload = 0)
  | .ifFalse, some t => isValue t && decide (t.payload ≠ 0)
  | _, _ => false

/-- R43 over the positions of a firing, in order: what it sends, the flags it raises and the LFSR after it; none is TOKEN_ALIGN. `f` computes one lane, `give` makes its token and `empty` the
token of a position that resolves to EMPTY, both from the position's first source, whose log every token that is sent continues (R27). -/
def resolveAll (pr : Pred) (f : List Word → BitVec 32 → Word × FlagSet × BitVec 32) (give : Token → Word → Token) (empty : Token → Token) :
    List PosIn → BitVec 32 → Option (List Token × FlagSet × BitVec 32)
  | [], l => some ([], 0, l)
  | q :: rest, l =>
    let all := q.srcs ++ q.p.toList
    let first := (all.head?).getD (tok 0 0 0)
    if predicateFails pr q.p then resolveAll pr f give empty rest l
    else if all.all isValue then
      let y := f (q.srcs.map (·.payload)) l
      (resolveAll pr f give empty rest y.2.2).map fun z => (heir first (give first y.1) :: z.1, y.2.1 ||| z.2.1, z.2.2)
    else if all.all (fun t => isValue t || isEmpty t) then
      (resolveAll pr f give empty rest l).map fun z => (heir first (empty first) :: z.1, z.2)
    else
      match all with
      | t :: r => if isControl t && r.all (sameControl t) then (resolveAll pr f give empty rest l).map fun z => (heir t t :: z.1, z.2) else none
      | [] => none

/-- The tokens of a firing whose hop logs no token continues: all but the first source of a position that sends, and all of one that does not (R27, R441). -/
def lostIn (pr : Pred) (l : List PosIn) : List Token := l.flatMap fun q => (q.srcs ++ q.p.toList).drop (if predicateFails pr q.p then 0 else 1)

/-- A slot of a graph has fired on n tokens of each used entry: they are gone, those without an heir have their SINK records, the results are sent, the flags raised (R36, R38, R57, R146, R441). -/
def graphFired (s : State) (g gi tile fr slot n : Nat) (uses : List Opnd) (t0 t1 : Option Target) (l0 : BitVec 32)
    (lost out : List Token) (fl : FlagSet) (l : BitVec 32) : State :=
  let s := uses.foldl (fun s o => consumeEntry s g gi tile fr slot o n) s
  let s := sinkAll s g gi tile lost
  let s := if l = l0 then s else setLfsr s g tile l
  let s := ceDeliver s g gi tile fr slot t0 t1 out
  let s := ceMark s g gi tile fr slot (!out.isEmpty)
  ceSettle (graphFlags s g gi tile fl) g gi tile

/-- A slot of a graph that can fire: its frame is live, its entries are open, no lower slot is ready, its outputs have room, and every used entry has a token of a good kind (R31,
R38, R53). -/
def GraphGo (s : State) (g gi tile fr slot : Nat) (x : Group) (gr : Graph) (c : Ce) (t0 t1 : Option Target) (uses : List Opnd) (n : Nat) : Prop :=
  s.site = .ce g gi tile fr slot ∧ grp? s g = some x ∧ ceFiring? s g gi tile fr slot = some (gr, c)
    ∧ (∀ o ∈ uses, entryClosed gr c tile fr slot o = false) ∧ ceLowerReady gr c tile slot = false ∧ outRoom gr c tile t0 t1 = true
    ∧ minOf? ((ceEntries gr c tile fr slot uses).map List.length) = some n ∧ 0 < n
    ∧ ∀ l ∈ ceEntries gr c tile fr slot uses, ∀ t ∈ l.take n, badToken t = false

/-- The positions of a firing on n tokens: the j-th tokens of each used entry, P's apart (R38, R43). -/
def positionsOf (gr : Graph) (c : Ce) (tile fr slot : Nat) (uses : List Opnd) (pr : Pred) (n : Nat) : List PosIn :=
  (List.range n).map fun j =>
    { srcs := uses.filterMap fun o => (valueOf 16 (entryTokens gr c tile fr slot o))[j]?
      p := if pr = .always then none else (valueOf 16 (entryTokens gr c tile fr slot .p))[j]? }

/-- The lane that a row computes from the payloads of its used entries: each of its 64/w elements as the row says (R143). -/
def rowLane (r : ElemRow) (pays : List Word) (l : BitVec 32) : Word × FlagSet × BitVec 32 :=
  let q := 64 / Ty.width r.f.ty
  let a := (pays[0]?).getD 0
  let b := if r.ub && !r.f.i then (pays[1]?).getD 0 else 0
  let c := if r.uc then (pays[if r.ub && !r.f.i then 2 else 1]?).getD 0 else 0
  let el (neg : Bool) (y : Word) (j : Nat) : Nat := if neg then elemTy r.f.ty y j ^^^ 2 ^ signBit r.f.ty else elemTy r.f.ty y j
  let rsr := r.rounds && r.f.rnd == .rsr
  let out (j : Nat) : Nat × FlagSet :=
    r.out (el r.f.na a j) (if r.f.i then opImm r.f.ty r.f.nb r.imm r.f.imm else el r.f.nb b j) (el r.f.nc c j) (drawOf rsr l j)
  (ofElems 64 (Ty.width r.f.ty) q fun j => (out j).1, (List.range q).foldl (fun fl j => fl ||| (out j).2) 0, if rsr then lfsrAfter q l else l)

/-- An instruction completes at a slot of a graph that takes n tokens of each used entry: R43 resolves each position, and a position that it does not resolve raises TOKEN_ALIGN. -/
def GraphCompletes (i : Instr) (pr : Pred) (uses : List Opnd) (t0 t1 : Option Target) (f : List Word → BitVec 32 → Word × FlagSet × BitVec 32)
    (give : Token → Word → Token) (empty : Token → Token) : Prop :=
  ∀ (s : State) (g gi tile fr slot n : Nat) (x : Group) (gr : Graph) (c : Ce),
    GraphGo s g gi tile fr slot x gr c t0 t1 (uses ++ if pr = .always then [] else [Opnd.p]) n →
      exec i s = .next (match resolveAll pr f give empty (positionsOf gr c tile fr slot uses pr n) (lfsrOf x tile) with
        | some (out, fl, l) =>
          graphFired s g gi tile fr slot n (uses ++ if pr = .always then [] else [Opnd.p]) t0 t1 (lfsrOf x tile) (lostIn pr (positionsOf gr c tile fr slot uses pr n)) out fl l
        | none => elemFreeze s g gi tile TOKEN_ALIGN)

/-- A computed token of the kind of A's (R43), and a token of kind EMPTY. -/
def asA (first : Token) (v : Word) : Token := tok (kindOf first) 0 v.toNat
def asEmpty (_ : Token) : Token := tok kindEMPTY 0 0

/-- Element j of B's lane, or the immediate. -/
def elemB (f : GFields) (pays : List Word) (j : Nat) : Nat :=
  if f.i then immElem f.ty 20 f.imm.toNat % 2 ^ Ty.width f.ty else elem ((pays[1]?).getD 0) (Ty.width f.ty) j

/-- The lane of CVT (R159): as many elements as both types have in it, converted in order. -/
def cvtOn (f : GFields) (src : Ty) (pays : List Word) (l : BitVec 32) : Word × FlagSet × BitVec 32 :=
  let m := min (64 / Ty.width src) (64 / Ty.width f.ty)
  let steps := f.rnd == .rsr && convertRounds src f.ty
  let out := fun k => convert src f.ty f.rnd f.sat (drawOf steps l k) (elem ((pays[0]?).getD 0) (Ty.width src) k)
  (ofElems 64 (Ty.width f.ty) m fun k => (out k).1, (List.range m).foldl (fun acc k => acc ||| (out k).2) 0, if steps then lfsrAfter m l else l)

/-- The lanes of PACK, UNPK and CLMUL (R163, R165). -/
def packOn (f : GFields) (pays : List Word) : Word :=
  let w := Ty.width f.ty
  let q := 64 / w
  ofElems 64 (w / 2) (2 * q) fun j =>
    deliverI (halfTy f.ty) f.sat (decodeI f.ty (if j < q then elem ((pays[0]?).getD 0) w j else elemB f pays (j - q)))
def unpkOn (f : GFields) (pays : List Word) : Word :=
  let w := Ty.width f.ty
  let q := 64 / w
  ofElems 64 w q fun k => lowNat w (decodeI (halfTy f.ty) (elem ((pays[0]?).getD 0) (w / 2) (elemB f pays 0 % 2 * q + k)))
def clmulOn (f : GFields) (pays : List Word) : Word :=
  let w := Ty.width f.ty
  ofElems 64 (2 * w) (32 / w) fun j => clmulNat w (elem ((pays[0]?).getD 0) w (2 * j)) (elemB f pays (2 * j))

/-- A lane function without flags or LFSR. -/
def laneOnly (f : List Word → Word) : List Word → BitVec 32 → Word × FlagSet × BitVec 32 := fun pays l => (f pays, 0, l)

/-- What an instruction without operands does at a slot of a graph (R145, R182): it sends its tokens once an iteration, or, with P, once for each P token whose value lets it; a P token that is
EMPTY or a control is forwarded. -/
def OnceCompletes (i : Instr) (pr : Pred) (t0 t1 : Option Target) (s : State) (g gi tile fr slot : Nat) (gr : Graph) (c : Ce) (out : List Token) : Prop :=
  s.site = .ce g gi tile fr slot → ceFiring? s g gi tile fr slot = some (gr, c) → ceLowerReady gr c tile slot = false → outRoom gr c tile t0 t1 = true →
    (pr = .always → exec i s = .next (ceSettle (ceMark (ceDeliver s g gi tile fr slot t0 t1 out) g gi tile fr slot true) g gi tile))
    ∧ (∀ p rest, pr ≠ .always → entryClosed gr c tile fr slot .p = false → entryTokens gr c tile fr slot .p = p :: rest → badToken p = false →
      let res := (if predicateFails pr (some p) then [] else if isValue p then out else [p]).map (heir p)
      let s1 := consumeEntry s g gi tile fr slot .p 1
      let s2 := if res.isEmpty then sinkAll s1 g gi tile [p] else s1
      exec i s = .next (ceSettle (ceMark (ceDeliver s2 g gi tile fr slot t0 t1 res) g gi tile fr slot (!res.isEmpty)) g gi tile))

/-! ## Across the lanes of a graph's values -/

/-- The control token that ends the tokens of an entry, and those before it (R38). -/
def endOf (l : List Token) : Option Token := l.getLast?.bind fun t => if isControl t then some t else none
def bodyOf (l : List Token) : List Token := l.filter fun t => !isControl t

/-- Whether all entries end alike: in the same control token, or in none (R43). -/
def endsAgree : List (Option Token) → Bool
  | [] => true
  | e :: r => r.all fun e' => match e, e' with
    | none, none => true
    | some x, some y => sameControl x y
    | _, _ => false

/-- An across-lane instruction completes at a slot of a graph (R38, R43, R144, R172): on entries of `full` tokens, or fewer that end in a control token, it sends the tokens that a relation allows
and then the control token; entries without a token but it, or a P value that fails the test, send the control token alone; entries that end differently raise TOKEN_ALIGN. -/
def AcrossCompletes (i : Instr) (pr : Pred) (ub : Bool) (t0 t1 : Option Target) (full : Nat) (gives : (a b bare : List Token) → FlagSet → (l l' : BitVec 32) → Prop) : Prop :=
  ∀ (s : State) (g gi tile fr slot : Nat) (x : Group) (gr : Graph) (c : Ce),
    let uses : List Opnd := [Opnd.a] ++ (if ub then [Opnd.b] else []) ++ (if pr = .always then [] else [Opnd.p])
    let toks := fun o => valueOf full (entryTokens gr c tile fr slot o)
    s.site = .ce g gi tile fr slot → grp? s g = some x → ceFiring? s g gi tile fr slot = some (gr, c) →
    (∀ o ∈ uses, entryClosed gr c tile fr slot o = false) → ceLowerReady gr c tile slot = false → outRoom gr c tile t0 t1 = true →
    (∀ o ∈ uses, ((toks o).length = full ∨ (endOf (toks o)).isSome = true) ∧ ∀ t ∈ toks o, badToken t = false) →
      let ends := uses.map fun o => endOf (toks o)
      let ctl := (endOf (toks .a)).toList
      let all := uses.flatMap fun o => bodyOf (toks o)
      let p := if pr = .always then [] else bodyOf (toks .p)
      let fed := uses.foldl (fun s o => consumeEntry s g gi tile fr slot o (toks o).length) s
      let idle := all.isEmpty || (decide (pr ≠ .always) && p.isEmpty) || predicateFails pr p.head?
      (endsAgree ends = false → exec i s = .next (elemFreeze s g gi tile TOKEN_ALIGN))
      ∧ (endsAgree ends = true → idle = true →
        exec i s = .next (ceSettle (ceMark (ceDeliver (sinkAll fed g gi tile (all ++ (ends.filterMap id).drop 1)) g gi tile fr slot t0 t1 ctl) g gi tile fr slot (!ctl.isEmpty)) g gi tile))
      ∧ (endsAgree ends = true → idle = false → ∃ bare fl l', gives (bodyOf (toks .a)) (if ub then bodyOf (toks .b) else []) bare fl (lfsrOf x tile) l'
        ∧ (let out := bare.map (heir (all.head?.getD (tok 0 0 0))) ++ ctl
           let s1 := setLfsr (sinkAll fed g gi tile (all.drop (min 1 bare.length) ++ (ends.filterMap id).drop 1)) g tile l'
           exec i s = .next (ceSettle (graphFlags (ceMark (ceDeliver s1 g gi tile fr slot t0 t1 out) g gi tile fr slot (!out.isEmpty)) g gi tile fl) g gi tile)))

/-- Element j of the lanes that tokens fill; a lane that is EMPTY or absent gives z (R61, R144). -/
def tokElem (t : Ty) (l : List Token) (z j : Nat) : Nat :=
  match l[j * Ty.width t / 64]? with
  | some k => if isValue k then elemTy t k.payload (j % (64 / Ty.width t)) else z
  | none => z

/-- Element j of B's tokens, or the immediate. -/
def tokB (f : GFields) (b : List Token) (j : Nat) : Nat := if f.i then immElem f.ty 20 f.imm.toNat % 2 ^ Ty.width f.ty else tokElem f.ty b 0 j

/-- m VAL tokens whose elements of width w are e's, in order. -/
def lanesGive (bare : List Token) (m w : Nat) (e : Nat → Nat) : Prop :=
  bare.length = m ∧ ∀ i t, bare[i]? = some t → ∃ y : Word, t = tok kindVAL 0 y.toNat ∧ ∀ k, k < 64 / w → elem y w k = e (64 / w * i + k)

/-- A result without flags that leaves the LFSR alone. -/
def calmly (gives : (a b bare : List Token) → Prop) : (a b bare : List Token) → FlagSet → (l l' : BitVec 32) → Prop :=
  fun a b bare fl l l' => fl = 0 ∧ l' = l ∧ gives a b bare

/-- CVTMX dq completes at a slot of a graph (R168): a SCALE and the values of its block give 16 tokens of two f32 elements each, and a control token alone passes on. -/
def DequantiseCompletes (f : GFields) : Prop :=
  ∀ (s : State) (g gi tile fr slot : Nat) (x : Group) (gr : Graph) (c : Ce) (h : Token) (body : List Token),
    let w := Ty.width f.ty
    let n := 1 + 32 * w / 64
    let p := if f.pr = .always then [] else valueOf n (entryTokens gr c tile fr slot .p)
    s.site = .ce g gi tile fr slot → grp? s g = some x → ceFiring? s g gi tile fr slot = some (gr, c) → entryClosed gr c tile fr slot .a = false →
    (f.pr ≠ .always → entryClosed gr c tile fr slot .p = false) → ceLowerReady gr c tile slot = false → outRoom gr c tile f.t0 f.t1 = true →
    (entryTokens gr c tile fr slot .a).take n = h :: body → (∀ t ∈ h :: (body ++ p), badToken t = false) →
      (kindOf h = 8 → levelOf h = 0 → body.length + 1 = n → (∀ t ∈ body, isControl t = false) → (f.pr ≠ .always → p.length = n ∧ endOf p = none) →
        let fed := if f.pr = .always then consumeEntry s g gi tile fr slot .a n else consumeEntry (consumeEntry s g gi tile fr slot .a n) g gi tile fr slot .p p.length
        let scale := fieldOf h.payload 0 8
        let src := fun k => tokElem f.ty body 0 k
        (predicateFails f.pr p.head? = true →
          exec (.cvtmx f .dq) s = .next (ceSettle (ceMark (ceDeliver (sinkAll fed g gi tile (h :: (body ++ p))) g gi tile fr slot f.t0 f.t1 []) g gi tile fr slot false) g gi tile))
        ∧ (predicateFails f.pr p.head? = false → ∃ bare fl l',
          (let out := fun k => if scale = 0xFF then (canonNaN .f32, snanFlag f.ty (src k))
            else
              let d := roundF .f32 f.rnd (drawOf (f.rnd == .rsr) (lfsrOf x tile) k) (exMul (decodeF f.ty (src k)) (exPow2 ((scale : Int) - 127))).1
              (d.1, snanFlag f.ty (src k) ||| d.2)
           lanesGive bare 16 32 (fun k => (out k).1 % 2 ^ 32) ∧ fl = (List.range 32).foldl (fun acc k => acc ||| (out k).2) 0)
          ∧ l' = (if f.rnd == .rsr then lfsrAfter 32 (lfsrOf x tile) else lfsrOf x tile)
          ∧ exec (.cvtmx f .dq) s = .next (ceSettle (graphFlags (ceMark (ceDeliver (setLfsr (sinkAll fed g gi tile (body ++ p)) g tile l') g gi tile fr slot f.t0 f.t1 (bare.map (heir h)))
              g gi tile fr slot true) g gi tile fl) g gi tile)))
      ∧ (isControl h = true → kindOf h ≠ 8 → f.pr = .always ∨ (∃ t, p = [t] ∧ sameControl t h = true) →
        let fed := if f.pr = .always then consumeEntry s g gi tile fr slot .a 1 else sinkAll (consumeEntry (consumeEntry s g gi tile fr slot .a 1) g gi tile fr slot .p 1) g gi tile p
        exec (.cvtmx f .dq) s = .next (ceSettle (ceMark (ceDeliver fed g gi tile fr slot f.t0 f.t1 [h]) g gi tile fr slot true) g gi tile))

/-! ## Blocks -/

/-- A slot of a block whose used entries all hold values, whose predicate lets it fire, and whose CE has no lower slot ready (R53, R171, R172). -/
def BlockAt (s : State) (g th b slot : Nat) (pr : Pred) (ua ub uc : Bool) (k : Block) (va vb vc : Value) : Prop :=
  s.site = .block g th b slot ∧ firing? s g th b slot = some k ∧ takeEntries k slot pr ua ub uc = .go va vb vc ∧ lowerReady s g th k slot = false

/-- Only a group has changed. -/
def OnlyGroup (s t : State) (g : Nat) : Prop := t = { s with groups := t.groups } ∧ ∀ g', g' ≠ g → grp? t g' = grp? s g'

/-- A block of a thread is now `k`, and nothing outside its group has changed. -/
def BlockIs (s t : State) (g th b : Nat) (k : Block) : Prop := block? t g th b = some k ∧ OnlyGroup s t g

/-- No debug unit watches. -/
def Unwatched (s : State) : Prop := s.dbgs = []

/-- The block of a slot that has fired. -/
def fired (k : Block) (slot : Nat) : Block := { k with fired := slot :: k.fired }

/-- The target of a direct branch (R70): base + OFF48 × 32 in 57 bits. -/
def farTarget (base : Nat) (off : BitVec 48) : Nat := (((base : Int) + off.toInt * 32) % 2 ^ 57).toNat

/-- The address in operand A of an indirect branch (R178): bits [56:0] with [4:0] cleared. -/
def addressIn (a : Value) : Nat := a.toNat % 2 ^ 57 - a.toNat % 32

/-- A branch fires as its block's one branch (R174, R178). -/
def BranchCompletes (i : Instr) (f : BFields) (ua : Bool) (kind : BranchKind) (target : Block → Value → Nat) : Prop :=
  ∀ (s : State) (g th b slot : Nat) (k : Block) (va vb vc : Value),
    Unwatched s → BlockAt s g th b slot f.pr ua false false k va vb vc → k.branch = none →
      ∃ t, exec i s = .next t ∧ BlockIs s t g th b { fired k slot with branch := some (kind, target k va) }

/-! ## Memory instructions in a block -/

/-- A memory instruction of a block that may issue: its entries are there, its wave-order place has come, and nothing holds it back (R123, R125), no collective whose buffer it reaches
either (R133). -/
def MemGo (s : State) (g th b slot : Nat) (f : MFields) (m : MemOp) (x : Group) (t : Thread) (k : Block) (va vb vc : Value) : Prop :=
  BlockAt s g th b slot f.pr (memUses m).1 (memUses m).2.1 (memUses m).2.2 k va vb vc ∧ grp? s g = some x ∧ thread? s g th = some t
    ∧ mayIssue s g th b slot k f (match m with | .atom _ | .lde | .ldf | .stf => true | _ => false) = true
    ∧ (f.spc = .gm → collHolds s g th b (memReach m f va vb) = false)

/-- A load of a block has issued and delivers a value and a mask; the block remembers the locations that it has read, and younger blocks that have read one of them already are replayed
(R118, R119). -/
def loadGives (s : State) (g th b slot q : Nat) (reads : List Nat) (v m : Value) : State :=
  deliverLoad (modBlock (replay (markIssued s g th b slot q) g th b reads) g th b fun k => { k with reads := k.reads ++ reads }) g th b slot v m

/-- What an atomic leaves of a location: the new value, or, at an owner, the write that is due in the cycle of its read (R130, R189). -/
def AtomicLeaves (s s' : State) (owner : Bool) (key n new : Nat) : Prop :=
  if owner then s'.mem = s.mem ∧ s'.ownerWrites = s.ownerWrites ++ [(key, n, new)] else s'.mem = (wrNum s key n new).mem ∧ s'.ownerWrites = s.ownerWrites

/-- Whether an atomic on a scratchpad passes an owner (R233). -/
def ownedAt (s : State) (x : Group) (sp : MvSpace) (cl n a : Nat) : Bool := sp == .up && ownedByte s x cl (padOffset (spaceSize x sp) n a)

/-- No word of storage holds an error (R110). -/
def Sound (s : State) : Prop := s.poison = [] ∧ s.soft = []

/-- The byte address in lane 0 of operand A (R183). -/
def addrOf (va : Value) : Nat := (lane va 0).toNat

/-- The value that bytes make, lowest first (R4). -/
def valueOfBytes (l : List Byte) : Value := BitVec.ofNat 1024 (natOfBytes l)

/-- Whether index element j of a gather or scatter is active, and its byte address (R188). -/
def activeAt (base : Nat) (w : Nat) (vb : Value) (j : Nat) : Option Nat :=
  if elem vb w j = 2 ^ w - 1 then none else some (base + elem vb w j * (w / 8))

/-- The new value of an atomic (R189). -/
def atomicResult (op : AtomOp) (t : Ty) (old b c : Nat) : Nat :=
  match op with
  | .add => (old + b) % 2 ^ Ty.width t
  | .min => if decodeI t old ≤ decodeI t b then old else b
  | .max => if decodeI t old ≤ decodeI t b then b else old
  | .and => old &&& b
  | .or => old ||| b
  | .xor => old ^^^ b
  | .xchg => b
  | .cas => if old = c then b else old
  | .fadd => (roundF t .rne 0 (exAdd .rne (decodeF t old) (decodeF t b)).1).1

/-- The instruction of an atomic operation. -/
def atomicInstr (op : AtomOp) (f : MFields) : Instr :=
  match op with
  | .add => .aadd f | .min => .amin f | .max => .amax f | .and => .aand f | .or => .aor f | .xor => .axor f | .xchg => .axchg f
  | .cas => .acas f | .fadd => .afadd f

/-- The types that R189 gives an atomic. -/
def atomicTy (op : AtomOp) (t : Ty) : Prop :=
  match op with
  | .xchg | .cas => t = .i32 ∨ t = .n32 ∨ t = .f32 ∨ t = .i64 ∨ t = .n64 ∨ t = .f64
  | .fadd => t = .f32 ∨ t = .f64
  | _ => t = .i32 ∨ t = .n32 ∨ t = .i64 ∨ t = .n64

/-- The block in which the instruction of a slot has issued its access of SEQ q. -/
def issuedAt (k : Block) (slot q : Nat) : Block := { k with fired := slot :: k.fired, issued := q :: k.issued }

/-- n bytes that lie in this package's own storage. -/
def Local (key n : Nat) : Prop := ∀ i < n, isHost (key + i) = false ∧ isPeer (key + i) = false

/-- A value in every element of its width (R189). -/
def everyElem (w x : Nat) (v : Value) : Prop := ∀ j, j < 1024 / w → elem v w j = x % 2 ^ w

/-! ## Engines -/

/-- An engine instruction at the head of its queue that may act from its start, as far as it comes (R129, R195, R202). -/
def EngGo (s : State) (g th : Nat) (q : Qu) (x : Group) (e : EngEntry) : Prop :=
  s.site = .engine g th q ∧ s.part = 0 ∧ grp? s g = some x ∧ engLive s g th = true ∧ e.issued = true
    ∧ (∃ t, thread? s g th = some t ∧ engCurrent t q = some e ∧ Tab.get? t.stops (Qu.code q) = none)

/-- A move that has taken no step and asked for nothing. -/
def Unbegun (e : EngEntry) : Prop := e.mark = 0 ∧ e.buf = [] ∧ e.asked = [] ∧ e.parts = []

/-- The storage of this package that n bytes at an address of a space reach, for an engine of a thread: within the allocation of a scratchpad, or in a normal page whose translation
the engine holds, where no store of the cluster waits in its write queue for what is read (R104, R118, R343, R348). -/
def EngAt (s : State) (x : Group) (th : Nat) (sp : MvSpace) (need : Need) (a n key : Nat) : Prop :=
  match sp with
  | .gm => a % n = 0 ∧ invalBlocks s x.ctx a = false ∧ (need ≠ .write → queueOverlaps s (clusterOfThread x th) key n = false)
      ∧ ∃ e, findExtent (Tab.get s.extents (moveHolder (clusterOfThread x th) (th % 4)) []) x.ctx a = some e ∧ entryKind e.leaf = 0 ∧ needOk e.leaf need = true
          ∧ key = hbmKey (fieldOf e.leaf 16 24 * 65536 + a % 2 ^ e.size)
  | _ => padKey x sp (clusterOfThread x th) n a = some key

/-- The instruction of a queue has done its work, and storage holds `m`. -/
def engFinished (s : State) (g th : Nat) (q : Qu) (m : List Host.Cell) : State :=
  { modEng s g th q (fun e => { e with done := true, buf := [], asked := [], parts := [] }) with mem := m }

/-- n bytes of storage from a key. -/
def memBytes (m : List Host.Cell) (k n : Nat) : List Byte := (List.range n).map fun i => cellRead m (k + i)

/-- Pieces of n bytes copied one after another (R201). -/
def copyAll (from_ dest_ : Nat → Nat) (n total : Nat) (m : List Host.Cell) : List Host.Cell :=
  (List.range total).foldl (fun m p => cellsWrite m (dest_ p) (memBytes m (from_ p) n)) m

/-- TMOVC (R201): the records of the elements that are not zero, in order, then their count. -/
def compressAll (from_ record_ : Nat → Nat) (countAt n total : Nat) (m : List Host.Cell) : List Host.Cell :=
  let r := (List.range total).foldl (fun (r : List Host.Cell × Nat) p =>
    let v := natOfBytes (memBytes r.1 (from_ p) n)
    if v = 0 then r else (cellsWrite r.1 (record_ r.2) (bytesOf 8 (v % 2 ^ 32 + p % 2 ^ 32 * 2 ^ 32)), r.2 + 1)) (m, 0)
  cellsWrite r.1 countAt (bytesOf 8 r.2)

/-- TMOVE (R201): every element zero, then the element of each record. -/
def expandAll (record_ dest_ : Nat → Nat) (countAt n total : Nat) (m : List Host.Cell) : List Host.Cell :=
  let z := (List.range total).foldl (fun m p => cellsWrite m (dest_ p) (List.replicate n 0)) m
  (List.range (min (natOfBytes (memBytes z countAt 8)) total)).foldl (fun m j =>
    let v := natOfBytes (memBytes m (record_ j) 8)
    if v / 2 ^ 32 < total then cellsWrite m (dest_ (v / 2 ^ 32)) (bytesOf n (v % 2 ^ 32)) else m) z

/-- The address of element p of a block of `cols` columns, with a row stride (R201). -/
def elemAt (base : Nat) (stride : Int) (cols n p : Nat) : Nat :=
  (((base : Int) + ((p / cols : Nat) : Int) * stride + ((p % cols : Nat) : Int) * (n : Int)) % 2 ^ 64).toNat

/-- The address of the place to which a transposing move sends element p (R201). -/
def elemAcross (base : Nat) (stride : Int) (cols n p : Nat) : Nat :=
  (((base : Int) + ((p % cols : Nat) : Int) * stride + ((p / cols : Nat) : Int) * (n : Int)) % 2 ^ 64).toNat

/-- An address at a distance, in 64 bits. -/
def addrPlus (base d : Nat) : Nat := (base + d) % 2 ^ 64

/-- What TMOV_DESC asks of a tile move (R202). -/
def MoveOk (compress expand : Bool) (e : MvEng) (a b c : Value) : Prop :=
  1 ≤ (lane c 0).toNat ∧ (lane c 0).toNat ≤ 65536 ∧ 1 ≤ (lane c 1).toNat ∧ (lane c 1).toNat ≤ 65536
    ∧ (lane c 2).toInt % 2 ^ e.esz.toNat = 0 ∧ (compress = false → (lane c 3).toInt % 2 ^ e.esz.toNat = 0)
    ∧ (compress = true ∨ expand = true → e.esz ≠ 3)
    ∧ (e.ssp = .gm → (lane a 0).toNat % 2 ^ e.esz.toNat = 0 ∧ (expand = true → (lane a 0).toNat % 8 = 0))
    ∧ (e.dsp = .gm → (lane b 0).toNat % 2 ^ e.esz.toNat = 0 ∧ (compress = true → (lane b 0).toNat % 8 = 0))

/-- What TMOV_DESC asks of a remote instruction (R396). -/
def RemoteOk (lsp : MvSpace) (ra : Nat) (a b : Value) : Prop := (lane a 0).toNat % ra = 0 ∧ (lsp = .gm → (lane b 0).toNat % 8 = 0)

/-- LEN: a multiple of 8 from 8 to a limit. -/
def LenOk (c : Value) (limit : Nat) : Prop := (lane c 0).toNat % 8 = 0 ∧ 8 ≤ (lane c 0).toNat ∧ (lane c 0).toNat ≤ limit

/-- What TMOV_DESC asks of a collective (R399). -/
def CollOk (bcast : Bool) (t : Ty) (a b c : Value) : Prop :=
  1 ≤ (lane c 1).toNat ∧ (lane c 1).toNat ≤ 2 ^ 24 ∧ (lane c 0).toNat % 8 = 0 ∧ (lane c 2).toNat % 8 = 0
    ∧ (lane a 0).toNat % (Ty.width t / 8) = 0 ∧ (lane b 0).toNat % (Ty.width t / 8) = 0
    ∧ (lane a 0).toNat < 2 ^ 57 ∧ (lane b 0).toNat < 2 ^ 57 ∧ (lane c 0).toNat < 2 ^ 57 ∧ (lane c 2).toNat < 2 ^ 57 ∧ (bcast = true → (lane c 3).toNat < 64)

/-- What MATRIX_DESC asks of ACCRD and ACCWR (R253). -/
def AccOk (s : State) (g : Nat) (e : AccEng) (a b c : Value) : Prop :=
  (lane a 0).toNat < 2 ^ 18 ∧ (∃ x y, grp? s g = some x ∧ mcGraph x (lane a 0).toNat = some y)
    ∧ (e.spc = .gm → (lane b 0).toNat % (Ty.width e.ety / 8) = 0 ∧ (lane c 0).toNat % (Ty.width e.ety / 8) = 0)

/-- An engine instruction as a block captures it: its fields, the operands it uses, the code of its descriptor fault with the operand that FLTADDR shows, and what the descriptor must hold. -/
structure EngRow where
  f : EFields
  ua : Bool
  ub : Bool
  uc : Bool
  code : Nat
  told : Value → Value → Nat
  ok : State → Nat → Value → Value → Value → Prop

def toldA (a _ : Value) : Nat := (lane a 0).toNat
def toldB (_ b : Value) : Nat := (lane b 0).toNat

/-- The engine instructions other than ENOP (R199, R202, R247, R253, R396, R399). -/
def engRow : Instr → Option EngRow
  | .tmov f e => some ⟨f, true, true, true, 0x0B, toldA, fun _ _ a b c => MoveOk false false e a b c⟩
  | .tmovt f e => some ⟨f, true, true, true, 0x0B, toldA, fun _ _ a b c => MoveOk false false e a b c⟩
  | .tmovc f e => some ⟨f, true, true, true, 0x0B, toldA, fun _ _ a b c => MoveOk true false e a b c⟩
  | .tmove f e => some ⟨f, true, true, true, 0x0B, toldA, fun _ _ a b c => MoveOk false true e a b c⟩
  | .mgo f cfg _ => some ⟨f, true, false, false, 0x0E, toldA, fun s g a _ _ =>
      (lane a 0).toNat < 2 ^ 18 ∧ ∃ x gi gr m y, grp? s g = some x ∧ regionAt x (lane a 0).toNat = some (gi, gr, m) ∧ mcConfig m cfg.toNat = some y
        ∧ (regionState gr (lane a 0).toNat).lastQueued = false⟩
  | .accrd f e => some ⟨f, true, true, true, 0x0E, toldA, fun s g a b c => AccOk s g e a b c⟩
  | .accwr f e => some ⟨f, true, true, true, 0x0E, toldA, fun s g a b c => AccOk s g e a b c⟩
  | .accclr f _ _ _ => some ⟨f, true, false, false, 0x0E, toldA, fun s g a _ _ =>
      (lane a 0).toNat < 2 ^ 18 ∧ ∃ x y, grp? s g = some x ∧ mcGraph x (lane a 0).toNat = some y⟩
  | .rld f lsp => some ⟨f, true, true, true, 0x0B, toldA, fun _ _ a b c => RemoteOk lsp 8 a b ∧ LenOk c (2 ^ 24)⟩
  | .rst f lsp => some ⟨f, true, true, true, 0x0B, toldB, fun _ _ a b c => RemoteOk lsp 8 a b ∧ LenOk c (2 ^ 24)⟩
  | .ratom f _ lsp => some ⟨f, true, true, true, 0x0B, toldA, fun _ _ a b _ => RemoteOk lsp (Ty.width f.ty / 8) a b⟩
  | .rmst f lsp => some ⟨f, true, true, true, 0x0B, toldB, fun _ _ a b c =>
      RemoteOk lsp 8 a b ∧ LenOk c 1024 ∧ (1 ≤ (lane c 2).toNat ∧ (lane c 2).toNat ≤ 64) ∧ (lane c 1).toNat % 8 = 0 ∧ (lsp = .gm → (lane c 3).toNat % 8 = 0)⟩
  | .rinv f lsp => some ⟨f, true, true, true, 0x0B, toldA, fun _ _ a b _ => RemoteOk lsp 8 a b⟩
  | .rfence f => some ⟨f, true, false, true, 0x0B, toldA, fun _ _ a _ _ => (lane a 0).toNat % 8 = 0⟩
  | .cred f _ => some ⟨f, true, true, true, 0x0B, toldA, fun _ _ a b c => CollOk false f.ty a b c⟩
  | .cgath f => some ⟨f, true, true, true, 0x0B, toldA, fun _ _ a b c => CollOk false f.ty a b c⟩
  | .ca2a f => some ⟨f, true, true, true, 0x0B, toldA, fun _ _ a b c => CollOk false f.ty a b c⟩
  | .cbcast f => some ⟨f, true, true, true, 0x0B, toldA, fun _ _ a b c => CollOk true f.ty a b c⟩
  | _ => none

/-- The copy that a block keeps of an engine instruction until its commit (R195), with the enables of the block's mapping (R57) and the graph of the MC that lane 0 of A names (R247). -/
def engCopyOf (x : Group) (k : Block) (slot : Nat) (a b c : Value) : EngEntry :=
  { word := (k.words[slot]?).getD 0, slot := slot, a := a, b := b, c := c, enables := k.enables, inst := ((mcGraph x (lane a 0).toNat).map fun p => p.2.1.inst).getD 0
    blockAddr := k.addr, issued := false, done := false, popped := false, mark := 0, buf := [], asked := [], parts := [] }

/-- Flags become visible in FPCTL, marked as raised in this cycle (R57, R146). -/
def flagged (g : Nat) (fl : FlagSet) (t : State) : State :=
  if fl = 0 then t
  else modGrp t g fun x =>
    { x with fpctl := x.fpctl ||| fl.setWidth 32
             fpRaised := (t.cycle, (if x.fpRaised.1 = t.cycle then x.fpRaised.2 else 0) ||| fl.setWidth 32) }

/-- Destination element e of a collective, from what each rank has sent (R401). -/
def collValue (kd : CollKind) (t : Ty) (n count root : Nat) (src : Nat → List Nat) (e : Nat) : Nat :=
  match kd with
  | .red op =>
    (reduceTree false (redStep t .rne false (redOfCred op)) (treeDepth n)
      ((List.range (2 ^ treeDepth n)).map fun k => if k < n then ((src k)[e]?).getD 0 else redIdentity t (redOfCred op)) 0).1
  | .gath => ((src (e / count))[e % count]?).getD 0
  | .a2a => ((src (e / count))[e % count]?).getD 0
  | .bcast => ((src root)[e]?).getD 0

/-- The collectives. -/
def collInstr (kd : CollKind) (f : EFields) : Instr :=
  match kd with
  | .red op => .cred f op | .gath => .cgath f | .a2a => .ca2a f | .bcast => .cbcast f

/-! ## Blocks from fetch to commit, and the handler -/

/-- No arrival of a thread waits for stores, no group is ending, and no barrier completes a phase or holds a command. -/
def Settled (s : State) : Prop :=
  (∀ p ∈ s.groups, p.2.ending = none ∧ ∀ q ∈ p.2.image.threads, q.2.arrivals = []) ∧ ∀ p ∈ s.barriers, p.2.due = false ∧ p.2.cmd = none

/-- A thread of a group that maps, fires and commits blocks. -/
def ThreadAt (s : State) (g th : Nat) (x : Group) (t : Thread) : Prop := grp? s g = some x ∧ thread? s g th = some t ∧ threadLive s g th = true

/-- A block has produced its branch, every store that STMASK names and every word that WRMASK names (R174). -/
def Produced (k : Block) : Prop :=
  k.branch ≠ none ∧ ∀ i < 32, (k.stmask.getLsbD i = true → has k.stDone i = true ∨ has k.stDischarged i = true)
    ∧ (k.wrmask.getLsbD i = true → has k.wrDone i = true ∨ has k.wrDischarged i = true)

/-- The oldest block of a thread, which may commit: it is complete, nothing in it can still fire, nothing that it awaits is out, no barrier of its BARIs
completes a phase, and every queue holds its engine instructions (R174, R175, R195, R332). -/
def CommitGo (s : State) (g th : Nat) (x : Group) (t : Thread) (k : Block) : Prop :=
  ThreadAt s g th x t ∧ t.blocks = [k] ∧ k.fault = none ∧ Produced k ∧ k.waits = [] ∧ (∀ i < k.words.length, slotCanFire k i = false) ∧ t.barWait = [] ∧ t.arrivals = []
    ∧ (∀ p ∈ k.actions, ∀ b gen n, p.2 = .bari b gen n → (barrier s b).due = false)
    ∧ ∀ q : Qu, (engQueue t q).length + (k.engines.filter fun e => queueOfWord e.word == q).length ≤ 32

/-- The window in which a block's WRITEs have taken effect (R175, R177). -/
def windowAfter (w : List Value) (k : Block) : List Value := k.wrVals.foldl (fun w p => w.set p.1 p.2) w

/-- A block's checked stores in the order in which they issue: along the wave order, then by SEQ (R123, R175). -/
def storesInOrder (k : Block) : List PStore := (sortBy (fun (p : Nat × PStore) => p.1) (k.stores.map fun p => (64 * waveRank k 33 p.seq + p.seq, p))).map (·.2)

/-- A store of a thread as an entry of its cluster's write queue. -/
def queuedStore (g th : Nat) (p : PStore) : WqEntry :=
  { bytes := p.bytes, party := (g, th), rel := p.rel, acq := p.acq, pad := p.pages.isEmpty, sent := false, scope := p.scope, note := none }

/-- A block of a resident kernel stands at an address (R169). -/
def BlockThere (s : State) (x : Group) (a : Nat) : Prop := findBlock s x.ctx a ≠ none

/-- FLTCODE (R357): CAUSE, CODE, WR, PERF, SLOT, and whether a slot is named. -/
def faultCode (slot : Option Nat) (code cause : Nat) (wr perf : Bool) : Nat :=
  cause % 256 + code % 256 * 2 ^ 8 + (if wr then 2 ^ 16 else 0) + (if perf then 2 ^ 17 else 0) + slot.getD 0 % 128 * 2 ^ 18 + (if slot.isSome then 2 ^ 25 else 0)

/-- A thread has entered its handler (R360): no block of it is in flight; FLTCODE, FLTADDR and the trap window's word 0 tell the fault, the address to retry, the depth, WINTOP and the time;
the call windows stand as they were. -/
def HandlerEntered (t t' : Thread) (fc addr retry time : Nat) : Prop :=
  t'.trapMode = true ∧ t'.pc = t.trapvec.toNat ∧ t'.blocks = [] ∧ t'.fltcode = BitVec.ofNat 32 fc ∧ t'.fltaddr = BitVec.ofNat 64 addr ∧ t'.window = t.window
    ∧ t'.callers = t.callers ∧ ∃ w, t'.trapWindow = w :: t.trapWindow.drop 1
      ∧ ∀ j < 16, (lane w j).toNat = (([fc % 2 ^ 32, addr, retry, t.callers.length, t.wintop.toNat, time][j]?).getD 0) % 2 ^ 64

/-- A group ends with a STATUS and DETAIL: it has gone, or goes once its stores have performed (R286, R311). -/
def GroupEnds (s : State) (g status detail : Nat) : Prop := grp? s g = none ∨ ∃ x, grp? s g = some x ∧ x.ending = some (status, detail)

/-- A thread with a queue replaced. -/
def queuesOf (t : Thread) : List (List EngEntry) := [engQueue t .ct, engQueue t .tm, engQueue t .mx, engQueue t .cl]

/-! ## Stream units -/

/-- A stream unit that can act: it is live, has not ended and has not saved its state for a cut; the outputs named have room, and none of the inputs named offers a token that any element
refuses (R26, R204). -/
def SuLive (s : State) (g gi tile : Nat) (x : Group) (gr : Graph) (u : SuState) (outs ins : List Nat) : Prop :=
  grp? s g = some x ∧ graph? s g gi = some gr ∧ (∃ y, su? s g gi tile = some y ∧ y.st = u) ∧ elemLive s g gi tile = true
    ∧ u.ended = false ∧ savedCut x u.marks = false ∧ roomOn gr tile outs = true ∧ suBad gr tile u.inDone ins = false

/-- The stream unit at the site. -/
def SuGo (s : State) (g gi tile : Nat) (x : Group) (gr : Graph) (u : SuState) (outs ins : List Nat) : Prop :=
  (∃ lane, s.site = .elem g gi tile lane) ∧ SuLive s g gi tile x gr u outs ins

/-- The key of an access of n bytes at an offset in the pad that MTSEL names: wrapped and aligned down (R104, R205). -/
def padAt (x : Group) (tile : Nat) (f : SuFrame) (n off : Nat) : Nat := upKey (clusterOfTile x tile) (f.mtsel.toNat * 131072 + off % 131072 / n * n)

/-- n bytes of an array of the frame. -/
def arr (s : State) (x : Group) (tile : Nat) (f : SuFrame) (base i n : Nat) : Nat := rdNum s (padAt x tile f n (base + n * i)) n

/-- Whether coordinate c of fibre p is set in the bitmap (R210). -/
def bitSet (s : State) (x : Group) (tile : Nat) (f : SuFrame) (p c : Nat) : Bool :=
  (arr s x tile f f.crdbase.toNat ((f.len.toNat + 63) / 64 * p + c / 64) 8).testBit (c % 64)

/-- The coordinates below c that are set in fibre p. -/
def setBelow (s : State) (x : Group) (tile : Nat) (f : SuFrame) (p c : Nat) : Nat := ((List.range c).filter fun j => bitSet s x tile f p j).length

/-- A scanner sends coordinate c at position q, inheriting from a token, and its fibre goes on at place n (R210). -/
def scanSends (s : State) (g gi tile : Nat) (x : Group) (f : SuFrame) (src : Token) (p c q n e : Nat) : State :=
  let s1 := put s g gi tile [0] src (tok kindCRD 0 (c % 2 ^ 32 + q % 2 ^ 32 * 2 ^ 32))
  let s2 := put s1 g gi tile [1] src (tok kindREF 0 q)
  let s3 := if f.param.getLsbD 1 then put s2 g gi tile [2] src (tok kindVAL 0 (arr s2 x tile f f.valbase.toNat q 8)) else s2
  modSu s3 g gi tile fun u => { u with openFib := some (p, n, e) }

/-- The outputs of a scanner's control tokens. -/
def scanLines (f : SuFrame) : List Nat := if f.param.getLsbD 1 then [0, 1, 2] else [0, 1]

/-- A scanner of each kind. -/
def scanInstr (k : Scan) (f : SuFrame) : Instr :=
  match k with
  | .c => .scanc f | .b => .scanb f | .d => .scand f | .l => .scanl f

/-- The joiners. -/
def joinInstr (k : Join) (f : SuFrame) : Instr :=
  match k with
  | .isect => .isect f | .union => .union f | .merge => .merge f

/-- A strict joiner takes a side's head: it is consumed and its coordinate is the side's last. -/
def takeHead (s : State) (g gi tile side : Nat) (t : Token) (inherited : Bool) : State :=
  modSu (eat s g gi tile side t inherited) g gi tile fun u =>
    if side = 0 then { u with lastA := some (coordOf t), dupA := none } else { u with lastB := some (coordOf t), dupB := none }

/-- A joiner takes the closing tokens of both sides. -/
def closeBoth (s : State) (g gi tile : Nat) (a b : Token) : State :=
  let one (s : State) (side : Nat) (t : Token) : State :=
    modSu (eat s g gi tile side t true) g gi tile fun u =>
      let u := if side = 0 then { u with lastA := none, dupA := none } else { u with lastB := none, dupB := none }
      if kindOf t = 5 then { u with inDone := side :: u.inDone } else u
  one (one s 0 a) 1 b

/-- A control token goes on outputs of an operation and on every other routed output that has not ended (R207). -/
def toAll (s : State) (g gi tile : Nat) (outs : List Nat) (src t : Token) : State :=
  match graph? s g gi with
  | some gr => put s g gi tile (withRouted gr tile outs) src t
  | none => s

/-- STOP or ERRSTOP made from input stops: an error, if there is one, is the first (R207). -/
def stopOf (err : Option Nat) (level : Nat) : Token :=
  match err with
  | some c => tok kindERRSTOP level c
  | none => tok kindSTOP level 0

/-! ## Element events -/

/-- An element of a tile that is live, in its group and graph. -/
def ElemAt (s : State) (g gi tile : Nat) (x : Group) (gr : Graph) : Prop := grp? s g = some x ∧ graph? s g gi = some gr ∧ elemLive s g gi tile = true

/-- One side's action on its head token (R40, R41): 0 passes it, 1 drops it, 2 keeps it, 3 goes back to the fibre's first token. A dropped token that will not be read again has its sink here (R441). -/
def sideDoes (s : State) (g gi tile p : Nat) (keep : Bool) (act : Nat) (t : Token) : State :=
  if act = 0 then sideTake s g gi tile p keep t
  else if act = 1 then sideTake (if keep then s else sinkAll s g gi tile [t]) g gi tile p keep t
  else if act = 3 then sideReset s g gi tile p else s

/-- The actions of an outcome, A's and B's (R40, R85). -/
def actsOf (jact : BitVec 12) (a b : Nat) : Nat × Nat :=
  let o : Nat := if a < b then 0 else if b < a then 2 else 1
  (jact.toNat / 2 ^ (4 * o) % 4, jact.toNat / 2 ^ (4 * o + 2) % 4)

/-- The index digits after an iteration and whether each lower digit has wrapped (R39). -/
def nextIndex : List Counter → List Nat → List Nat
  | [], i => i
  | _ :: _, [] => []
  | k :: r, v :: rest => if v + 1 < k.count.toNat then (v + 1) :: rest else 0 :: nextIndex r rest

/-! ## Memory tiles and matrix cells -/

/-- An address generator that can act. -/
def AgLive (s : State) (g gi tile lane : Nat) (x : Group) (gr : Graph) (a : AgState) : Prop :=
  lane < 2 ∧ ElemAt s g gi tile x gr ∧ ag? s g gi tile lane = some a ∧ a.ended = false ∧ savedCut x a.marks = false ∧ a.refused = none
    ∧ a.stopped = none

/-- The address generator at the site. -/
def AgGo (s : State) (g gi tile lane : Nat) (x : Group) (gr : Graph) (a : AgState) : Prop := s.site = .elem g gi tile lane ∧ AgLive s g gi tile lane x gr a

/-- The address of the element at an offset in elements (R228). -/
def agElement (f : AgFrame) (k : Int) : Nat := (((f.base.toNat : Int) + k * ((Ty.width f.ty / 8 : Nat) : Int)) % 2 ^ 64).toNat

/-- The offset of element (i0, i1, i2, i3) (R228). -/
def patternAt (f : AgFrame) (i0 i1 i2 i3 : Nat) : Int := (i0 : Int) + (i1 : Int) * f.stride1.toInt + (i2 : Int) * f.stride2.toInt + (i3 : Int) * f.stride3.toInt

/-- The scratchpad byte that the element at an offset has; SPC up is the MT's own pad (R105, R228). -/
def agKeyAt (x : Group) (tile : Nat) (f : AgFrame) (k : Int) (key : Nat) : Prop :=
  f.spc ≠ .gm ∧ padKey x (mvOfSpace f.spc) (clusterOfTile x tile) (Ty.width f.ty / 8)
    (if f.spc = .up then tileInCluster tile * 131072 + agElement f k % 131072 else agElement f k) = some key

/-- An MT function that can act. -/
def MtLive (s : State) (g gi tile : Nat) (x : Group) (gr : Graph) (m : MtState) : Prop :=
  ElemAt s g gi tile x gr ∧ (∃ y, mt? s g gi tile = some y ∧ y.fn = some m) ∧ savedCut x m.marks = false

/-- The MT function at the site. -/
def MtGo (s : State) (g gi tile : Nat) (x : Group) (gr : Graph) (m : MtState) : Prop := (∃ lane, s.site = .elem g gi tile lane) ∧ MtLive s g gi tile x gr m

/-- A token that no hop log follows: sampling writes nothing for it. -/
def Plain (t : Token) : Prop := t.log = none

/-- RANGEERR has grown by 1 (R209). -/
def RangeErr (s t : State) (g : Nat) : Prop :=
  ∀ x, grp? s g = some x → ∃ y, grp? t g = some y ∧ y.streamerr = setField x.streamerr 16 16 (Nat.min 0xFFFF (fieldOf x.streamerr 16 16 + 1))

/-- The update of MTOWN (R233): the operators of R217 on 32 bits, and 8, which stores the value. -/
def updated (uop old v : Nat) : Nat := if uop = 8 then v else redopFn uop 32 old v

/-- A cell in a pass. -/
def McLive (s : State) (g gi tile : Nat) (x : Group) (gr : Graph) (m : Mc) : Prop := ElemAt s g gi tile x gr ∧ mc? s g gi tile = some m ∧ m.pass ≠ none

/-- The cell at the site, in a pass, which has not saved its state for a cut. -/
def McGo (s : State) (g gi tile : Nat) (x : Group) (gr : Graph) (m : Mc) : Prop :=
  (∃ lane, s.site = .elem g gi tile lane) ∧ McLive s g gi tile x gr m ∧ savedCut x m.marks = false

/-- A pass of a cell is over: the completed count has grown, and the oldest queued sweep runs next (R249, R250). -/
def PassOver (t : State) (g gi tile : Nat) (m : Mc) : Prop :=
  ∃ y, mc? t g gi tile = some y ∧ y.completed = m.completed + 1
    ∧ ((m.pass.map (·.2)) = some false → m.lastSeen = false →
        y.pass = m.sweeps.head? ∧ y.sweeps = m.sweeps.drop 1)

/-- One K-block's update of an accumulator entry (R60, R251): the sum of products, scaled, added to the old value, rounded once. -/
def accUpdate (first : Bool) (f : McFrame) (a b : List Nat) (sa sb : Ex) (old : Nat) : Nat :=
  let acc := accFmt f.aty
  let p := (kblockP f.aty f.bty acc a b sa sb).1
  if first then p else (roundF acc .rne 0 (exAdd .rne (decodeF acc old) (decodeF acc p)).1).1

/-- The record of column c of a K-block in the B-store (R245). -/
def columnBits (s : State) (x : Group) (tile c : Nat) (f : McFrame) (kb : Nat) : Nat :=
  natOfBytes ((List.range (recordBytes f.bty f.mxs)).map fun n => rdByte s (recordKey x tile c f kb n))

/-! ## Queues -/

/-- An ACTIVE queue at whose head a valid packet stands that may start (R287, R288). -/
def HeadGo (s : State) (q : Nat) (x : Queue) (l : List Word) : Prop :=
  devReady s = true ∧ queue s q = x ∧ x.st = .active ∧ x.head = some l ∧ mayStart s x ((l[0]?).getD 0) = true

/-- A head command has started: CIDX has advanced, its slot is free, and it is outstanding (R283, R287). -/
def headStarted (s : State) (q : Nat) (x : Queue) (l : List Word) : State :=
  setQueue s q { x with cidx := x.cidx + 1, head := none, st := if x.pidx = x.cidx + 1 then .idle else .active
                        cmds := x.cmds ++ [{ seq := x.cidx.toNat, typ := packetType ((l[0]?).getD 0), words := l, ring := (queueCtx x, x.cqbase.toNat, queueSize x) }] }

/-- A command has completed at its start with a STATUS and DETAIL, and what waited for room in its queue is woken (R286, R320). -/
def headDone (s : State) (q : Nat) (x : Queue) (l : List Word) (status detail : Nat) : State :=
  wakeQueue (complete s q x.cidx.toNat (packetType ((l[0]?).getD 0)) status detail) q

/-- The instruction of a command TYPE. -/
def commandInstr (q typ : Nat) : Instr :=
  match typ with
  | 0 => .nop q | 1 => .launchCommand q | 2 => .bararv q | 3 => .barwt q | 4 => .kload q | 5 => .kevict q | 6 => .tstamp q | 7 => .traceon q | _ => .traceoff q

/-- Field words of a packet. -/
def pkt (l : List Word) (i : Nat) : Nat := ((l[i]?).getD 0).toNat

/-- A 16-byte completion record (R286). -/
def recordBytesOf (seq typ status detail time : Nat) : List Byte :=
  bytesOf 4 (seq % 2 ^ 32) ++ bytesOf 1 (typ % 2 ^ 8) ++ bytesOf 1 (status % 2 ^ 8) ++ bytesOf 2 (detail % 2 ^ 16) ++ bytesOf 8 (time % 2 ^ 64)

/-- A command register of a queue, context or barrier takes a defined command: the device is READY, the function reaches the window, and the reserved bits are zero. -/
def CmdOk (s : State) (reach : Bool) (code : Nat) (v : Word) : Prop := devReady s = true ∧ reach = true ∧ v.toNat = code

/-- The number that a queue, context, barrier or block command leaves in ERR, and its event (R272, R282, R296, R329). -/
def queueEndsAs (code : Nat) (s : State) (q err : Nat) : State :=
  event (setQueue s q { queue s q with err := BitVec.ofNat 8 err }) (if (queue s q).st = .free then 0 else (ctx s (queueCtx (queue s q))).owner.toNat) code (queueCtx (queue s q)) q err
    ((queue s q).cidx.toNat % 2 ^ 24)
def queueEnds (s : State) (q err : Nat) : State := queueEndsAs 8 s q err

def ctxEnds (s : State) (c err : Nat) : State :=
  event (setCtx s c { ctx s c with busy := false, err := BitVec.ofNat 8 err }) (ctx s c).owner.toNat 1 c 0 err 0

def barEnds (s : State) (b f err : Nat) : State :=
  event (setBarrier s b { barrier s b with err := BitVec.ofNat 8 err, cmd := none }) f 7 (barCtx (barrier s b)) b err 0

/-- Bytes of an entry of a write queue that lie in this package's own storage. -/
def Here (l : List (Nat × Byte)) : Prop := ∀ p ∈ l, isHost p.1 = false ∧ isPeer p.1 = false

/-- A context's kernel load that can end. -/
def LoadAt (s : State) (c kid : Nat) (k : Kernel) : Prop := devReady s = true ∧ kernel? s c kid = some k ∧ k.st = .loading ∧ k.copied = [] ∧ s.part = 0

/-- What a load's end does: its record, then launches and KEVICTs that waited for it go on; the kernel of a context that is CLOSING goes with it (R302, R304). -/
def loadOver (s : State) (c kid : Nat) (k : Kernel) (status detail : Nat) : State :=
  let t := settleEvicts (settleHeld (match k.cmd with | some (q, seq) => complete s q seq 4 status detail | none => s) c kid) c kid
  if (ctx t c).st = .closing ∧ (∃ j, kernel? t c kid = some j ∧ j.st = .resident) then dropKernel t c kid else t

/-- R270's checks that let CREATE make a context (R272). -/
def CreateOk (s : State) (fn c : Nat) (x : Context) : Prop :=
  (∀ p ∈ s.contexts, p.1 ≠ c → p.2.st ≠ .free → p.2.asid ≠ x.asid) ∧ (1 ≤ x.maxcl.toNat ∧ x.maxcl.toNat ≤ 288) ∧ x.maxdp.toNat ≤ 9216
    ∧ 1 + 784 * x.maxcl.toNat + x.maxdp.toNat * ((x.maxcl.toNat + 35) / 36) ≤ x.csasize.toNat ∧ csaBase x + csaBytes x ≤ 2 ^ 40 ∧ (x.conf = true → (fnOf s fn).ide = true)

/-! ## Groups -/

/-- A group that is not ending, on a device that is READY. -/
def GroupAt (s : State) (g : Nat) (x : Group) : Prop := devReady s = true ∧ grp? s g = some x ∧ x.ending = none

/-- A placed group that runs or is parked, has started, and is neither frozen nor being cut. -/
def Runs (s : State) (g : Nat) (x : Group) : Prop :=
  GroupAt s g x ∧ (x.state = .running ∨ x.state = .parked) ∧ x.started = true ∧ x.cutWhy = none ∧ x.freeze = none

/-- A group has changed to `y`, and storage has not. -/
def NowIs (s t : State) (g : Nat) (y : Group) : Prop := grp? t g = some y ∧ t.mem = s.mem

/-- The cut of a group that may complete (R368). -/
def CutEnds (s : State) (g : Nat) (x : Group) : Prop :=
  GroupAt s g x ∧ x.state = .cutting ∧ x.saving = false ∧ x.marksGo = true ∧ x.freeze = none ∧ groupOut s g = false
    ∧ (∀ p ∈ x.image.graphs, ∀ t ∈ p.2.tiles, tileSaved t.2 x.cutNo = true) ∧ ∀ p ∈ x.image.threads, queuesSaved p.2 = true

/-- Whether a wait of a BARAW goes on: its barrier is still there, is not BROKEN, and has not passed the phase (R335, R337). -/
def stillWaits (s : State) (w : Nat × Nat × Nat) : Bool :=
  (barrier s w.1).st == .opened && decide ((barrier s w.1).gen = w.2.1) && !satisfied (barrier s w.1) w.2.2

/-- No gate of an image holds a spill ring that a cut has saved (R226). -/
def Ringless (i : Image) : Prop := ∀ p ∈ i.graphs, ∀ t ∈ p.2.tiles, ∀ u, t.2.su = some u → u.st.ring = []

/-- The one member of a gang on this package. -/
def OnlyMember (s : State) (id : BitVec 32) (g : Nat) (x : Group) (y : Gang) : Prop :=
  devReady s = true ∧ grp? s g = some x ∧ x.gang = some y ∧ y.id = id ∧ x.ending = none ∧ gangMembers s id = [(g, x, y)]

/-- A group whose gang is now `y`, and whose state is `st`. -/
def GangIs (t : State) (g : Nat) (st : GState) (y : Gang) : Prop := ∃ x, grp? t g = some x ∧ x.gang = some y ∧ x.state = st

/-! ## Registers, links, trust, debug, power -/

/-- The number of a register block's command (R296): ERR and event 9. -/
def linkEnds (s : State) (n err : Nat) : State := event (setLink s n { link s n with busy := false, err := BitVec.ofNat 8 err }) 0 9 1 n err 0
def unitEnds (s : State) (u err : Nat) : State := event (setDbg s u { dbg s u with err := BitVec.ofNat 8 err }) 0 9 3 u err 0
def capEnds (s : State) (fn err : Nat) : State := event (setFn s fn { fnOf s fn with capBusy := false, capErr := BitVec.ofNat 8 err }) fn 9 4 0 err 0
def gateEnds (s : State) (err : Nat) : State := event { s with gateErr := BitVec.ofNat 8 err } 0 9 5 0 err 0
def flipEnds (s : State) (err : Nat) : State := event { s with einjerr := BitVec.ofNat 8 err } 0 9 6 0 err 0
def jobEnds (s : State) (j cmd err : Nat) : State :=
  let s := devRecord s 6 2 (j % 2 ^ 8 + cmd % 16 * 2 ^ 8 + err % 256 * 2 ^ 16)
  event (setJob s j { job s j with busy := false, err := BitVec.ofNat 8 err }) (job s j).cmdFn 9 2 j err 0

/-- An Erdor link without traffic: no circuit, no request, no job. -/
def QuietLink (s : State) (n : Nat) (l : Link) : Prop :=
  devReady s = true ∧ n < 36 ∧ link s n = l ∧ l.holders = [] ∧ l.heldBy = false ∧ l.attestJob = none ∧ (∀ r ∈ s.reqs, r.link ≠ n) ∧ (∀ c ∈ s.hcircs, c.link ≠ n)
    ∧ (∀ q ∈ s.groups, q.2.gang = none) ∧ Settled s

/-- A packet of a PTYPE that a link takes: it is for this package, its reserved bits are zero, its tag holds and its nonce is new (R393, R413). -/
def PacketGo (s : State) (n : Nat) (p : Packet) : Prop :=
  devReady s = true ∧ n < 36 ∧ linkCounts (link s n) = true ∧ p.dst = s.pkgid ∧ p.resv = 0 ∧ p.tagOk = true
    ∧ (∀ x ∈ Tab.get s.nonces (pairKey p.jobid.toNat p.src.toNat) [], x ≠ p.nonce.toNat ∧ x < p.nonce.toNat + 4096)

/-- The state in which a packet acts: it is counted, its credits are granted again, and the nonce of a job packet is spent (R391, R413). -/
def taken (s : State) (n ptype : Nat) (p : Packet) : State :=
  let key := pairKey p.jobid.toNat p.src.toNat
  let seen := Tab.get s.nonces key []
  let top := max (seen.foldl max 0) p.nonce.toNat
  if p.jobid = 0 then packetSeen s n ptype p
  else { packetSeen s n ptype p with nonces := Tab.set s.nonces key ((p.nonce.toNat :: seen).filter fun x => decide (top < x + 4096)) }

/-- Room for a response of `len` bytes to a packet: one of a job carries a nonce and a tag (R390, R391, R413). -/
def RoomFor (s : State) (n : Nat) (p : Packet) (len : Nat) : Prop := canTx (link s n) 1 ((24 + (if p.jobid = 0 then 0 else 28) + len + 119) / 120) = true

/-- A flit that carries NAK has left: its ACK is the SEQ of the last flit accepted on sequence q (R390). -/
def nakSent (s : State) (n q : Nat) (x : FlitSeq) : State :=
  { s with outbox := s.outbox ++ [(n, 34, { src := s.pkgid, dst := (link s n).peer, hasid := 0, tag := 0, va := 0, jobid := 0
                                            flag := BitVec.ofNat 21 ((x.rxSeq - 1).toNat + 2 ^ 12 * q), data := [] })] }

/-- A packet of class 0 has been answered on its link: a credit flit with the new GRANTED, then a response with its PTYPE, flag and data, to the package and tag of the packet. The credit
flit leaves at once by the model's own choice (notes/assumptions 153). -/
def Responds (s t : State) (n ptype : Nat) (p : Packet) (flag : Nat) (data : List Byte) : Prop :=
  ∃ c q, t.outbox = s.outbox ++ [(n, 33, c), (n, ptype, q)] ∧ c.data = (link t n).rgranted.flatMap (fun x => bytesOf 4 x.toNat) ∧ q.src = s.pkgid ∧ q.dst = p.src ∧ q.tag = p.tag ∧ q.flag.toNat = flag ∧ q.data = data

/-- The request that a response answers is not outstanding any more. -/
def answered (s : State) (tag : Nat) : State := { s with reqs := s.reqs.filter fun r => decide (r.tag ≠ tag) }

/-- A link attests for a job slot. -/
def AttestAt (s : State) (n j : Nat) (l : Link) : Prop := devReady s = true ∧ n < 36 ∧ link s n = l ∧ l.st = .attesting ∧ l.attestJob = some j

/-- A job slot's command register takes a defined command, with LINK as its row has it (R405). -/
def JobCmdOk (s : State) (j : Nat) (x : Job) (v : Word) (code : Nat) (links : Bool) : Prop :=
  devReady s = true ∧ j < 256 ∧ job s j = x ∧ x.busy = false ∧ v.toNat % 256 = code ∧ v.toNat / 2 ^ 16 = 0
    ∧ (if links then v.toNat / 2 ^ 8 < 36 else v.toNat / 2 ^ 8 = 0)

/-- A debug unit's command register takes a command. -/
def UnitCmdOk (s : State) (u : Nat) (d : Dbg) (v : Word) (code : Nat) : Prop := devReady s = true ∧ u < 64 ∧ dbg s u = d ∧ v.toNat = code

/-- A cluster that a GATECMD names. -/
def GateOk (s : State) (v : Word) (code cl : Nat) : Prop :=
  devReady s = true ∧ v.toNat = code + cl * 2 ^ 4 ∧ cl < 2 ^ 9 ∧ s.present.getLsbD cl = true ∧ has (heldClusters s) cl = false

/-- Whether a wait for a phase is satisfied (R332): (PHASE − p) mod 2^32 lies in 1 to 2^31 − 1. -/
def phasePassed (y : Barrier) (p : Nat) : Prop := 1 ≤ (y.phase.toNat + 2 ^ 32 - p % 2 ^ 32) % 2 ^ 32 ∧ (y.phase.toNat + 2 ^ 32 - p % 2 ^ 32) % 2 ^ 32 < 2 ^ 31

end Sys2Proof.Claims

open Sys2Proof Sys2Proof.Machine Sys2Proof.Claims

/-! # The statements -/

/-! ## Compute instructions in a block -/

/-- R148, R149: the integer arithmetic completes with e delivered under R142 in every element. -/
def Obligations.IntegerArithmeticCompletes : Prop := ∀ (i : Instr) (r : ElemRow), arithRow i = some r → RowCompletes i r

/-- R150, R151, R152, R153: the logical and shift instructions, fields, comparison, selection and addresses. -/
def Obligations.LogicFieldAndCompareComplete : Prop :=
  (∀ (i : Instr) (r : ElemRow), logicRow i = some r → RowCompletes i r)
  ∧ (∀ (i : Instr) (r : ElemRow), fieldRow i = some r → RowCompletes i r)

/-- R155, R156: floating-point arithmetic and the functions: the exact result, rounded once.
The model's own choices here: notes/assumptions 32. -/
def Obligations.FloatArithmeticCompletes : Prop :=
  (∀ (i : Instr) (r : ElemRow), floatRow i = some r → RowCompletes i r)
  ∧ (∀ (i : Instr) (r : ElemRow), functionRow i = some r → RowCompletes i r)

/-- R157, R158: FMIN, FMAX, FABS, FRINT, FCMP, FCLASS. -/
def Obligations.FloatSelectComplete : Prop := ∀ (i : Instr) (r : ElemRow), fpSelectRow i = some r → RowCompletes i r

/-- R165: POPC, CLZ, CTZ, BREV by element, and CLMUL, PACK and UNPK (R163) within each lane. -/
def Obligations.BitAndPackComplete : Prop :=
  (∀ (i : Instr) (r : ElemRow), bitRow i = some r → RowCompletes i r)
  ∧ (∀ f : GFields, f.ty = .n8 ∨ f.ty = .n16 ∨ f.ty = .n32 →
      ValueCompletes (.clmul f) f.pr true (!f.i) f.t0 f.t1 (quietly fun a b v =>
        ∀ j, j < 512 / Ty.width f.ty → elem v (2 * Ty.width f.ty) j
          = clmulNat (Ty.width f.ty) (elem a (Ty.width f.ty) (2 * j)) (laneB f b (2 * j)) % 2 ^ (2 * Ty.width f.ty)))
  ∧ (∀ f : GFields, Ty.isInt f.ty = true → 16 ≤ Ty.width f.ty →
      ValueCompletes (.pack f) f.pr true (!f.i) f.t0 f.t1 (quietly fun a b v =>
        ∀ i k, i < 16 → k < 64 / Ty.width f.ty →
          elem (lane v i) (Ty.width f.ty / 2) k = deliverI (halfTy f.ty) f.sat (decodeI f.ty (elem a (Ty.width f.ty) (64 / Ty.width f.ty * i + k)))
          ∧ elem (lane v i) (Ty.width f.ty / 2) (64 / Ty.width f.ty + k)
              = deliverI (halfTy f.ty) f.sat (decodeI f.ty (laneB f b (64 / Ty.width f.ty * i + k))))
      ∧ ValueCompletes (.unpk f) f.pr true (!f.i) f.t0 f.t1 (quietly fun a b v =>
        ∀ i k, i < 16 → k < 64 / Ty.width f.ty →
          elem v (Ty.width f.ty) (64 / Ty.width f.ty * i + k)
            = lowNat (Ty.width f.ty) (decodeI (halfTy f.ty) (elem (lane a i) (Ty.width f.ty / 2)
                (laneB f b (64 / Ty.width f.ty * i) % 2 * (64 / Ty.width f.ty) + k)))))

/-- R161, R164, R166, R167: SHUF, BCAST, CMPR, EXPD, MKMSK, MSKOP and LANEID rearrange, select and count elements, and raise nothing. -/
def Obligations.LaneInstructionsComplete : Prop :=
  ∀ f : GFields,
    ValueCompletes (.shuf f) f.pr true (!f.i) f.t0 f.t1 (quietly fun a b v =>
      ∀ j, j < Ty.count f.ty → elem v (Ty.width f.ty) j = elemTy f.ty a (laneB f b j % Ty.count f.ty))
    ∧ ValueCompletes (.bcast f) f.pr true (!f.i) f.t0 f.t1 (quietly fun a b v =>
      ∀ j, j < Ty.count f.ty → elem v (Ty.width f.ty) j = elemTy f.ty a (laneB f b 0 % Ty.count f.ty))
    ∧ ValueCompletes (.cmpr f) f.pr true true f.t0 f.t1 (quietly fun a b v =>
      ∀ m, m < Ty.count f.ty → elem v (Ty.width f.ty) m
        = ((((List.range (Ty.count f.ty)).filter fun j => decide (elemTy f.ty b j ≠ 0))[m]?).map fun j => elemTy f.ty a j).getD 0)
    ∧ ValueCompletes (.expd f) f.pr true true f.t0 f.t1 (quietly fun a b v =>
      ∀ j, j < Ty.count f.ty → elem v (Ty.width f.ty) j
        = if elemTy f.ty b j ≠ 0 then elemTy f.ty a (((List.range j).filter fun i => decide (elemTy f.ty b i ≠ 0)).length) else 0)
    ∧ ValueCompletes (.mkmsk f) f.pr true false f.t0 f.t1 (quietly fun a _ v =>
      ∀ j, j < 1024 → v.getLsbD j = (decide (j < Ty.count f.ty) && decide (elemTy f.ty a j ≠ 0)))
    ∧ (∀ op : MskOp, ValueCompletes (.mskop f op) f.pr true false f.t0 f.t1 (quietly fun a _ v =>
      ∀ i, i < 16 → (lane v i).toNat = maskAnswer op (Ty.count f.ty) (fieldOf a 0 (Ty.count f.ty))))
    ∧ ValueCompletes (.laneid f) f.pr false false f.t0 f.t1 (quietly fun _ _ v =>
      ∀ j, j < Ty.count f.ty → elem v (Ty.width f.ty) j = j % 2 ^ Ty.width f.ty)

/-- R61, R62, R162: LRED holds the pairwise tree's result in every element, and LSCAN the running results, each step an instruction of its own with RND and SAT. -/
def Obligations.ReduceAndScanComplete : Prop :=
  ∀ (f : GFields) (op : RedOp),
    ValueCompletes (.lred f op) f.pr true false f.t0 f.t1 (fun a _ v fl l l' =>
      let r := reduceTree (f.rnd == .rsr) (reduceStepOf f op) (Nat.log2 (Ty.count f.ty)) (elemsA f.ty a) l
      (∀ j, j < Ty.count f.ty → elem v (Ty.width f.ty) j = r.1 % 2 ^ Ty.width f.ty) ∧ fl = r.2.1 ∧ l' = r.2.2)
    ∧ ValueCompletes (.lscan f op) f.pr true false f.t0 f.t1 (fun a _ v fl l l' =>
      ∃ ys : List (Nat × FlagSet), ys.length = Ty.count f.ty ∧ ys[0]? = some (elemTy f.ty a 0, 0)
        ∧ (∀ j p, ys[j]? = some p → j + 1 < Ty.count f.ty →
            ys[j + 1]? = some (reduceStepOf f op p.1 (elemTy f.ty a (j + 1)) (drawOf (f.rnd == .rsr) l j)))
        ∧ (∀ j p, ys[j]? = some p → elem v (Ty.width f.ty) j = p.1 % 2 ^ Ty.width f.ty)
        ∧ fl = ys.foldl (fun acc p => acc ||| p.2) 0
        ∧ l' = if f.rnd == .rsr then lfsrAfter (Ty.count f.ty - 1) l else l)

/-- R159, R168: CVT converts each lane's elements within the lane, and CVTMX makes and reads a block of 32 elements with its scale.
The model's own choices here: notes/assumptions 30. -/
def Obligations.ConversionsComplete : Prop :=
  (∀ (f : GFields) (src : Ty),
    ValueCompletes (.cvt f src) f.pr true false f.t0 f.t1 (fun a _ v fl l l' =>
      let ps := 64 / Ty.width src
      let pt := 64 / Ty.width f.ty
      let m := min ps pt
      let steps := f.rnd == .rsr && convertRounds src f.ty
      let out := fun i k => convert src f.ty f.rnd f.sat (drawOf steps l (m * i + k)) (elem a (Ty.width src) (ps * i + k))
      (∀ i k, i < 16 → k < pt → elem v (Ty.width f.ty) (pt * i + k) = if k < m then (out i k).1 % 2 ^ Ty.width f.ty else 0)
        ∧ fl = (List.range 16).foldl (fun acc i => (List.range m).foldl (fun acc k => acc ||| (out i k).2) acc) 0
        ∧ l' = if steps then lfsrAfter (16 * m) l else l))
  ∧ (∀ f : GFields, f.ty = .e4 ∨ f.ty = .e5 ∨ f.ty = .f4 →
    ValueCompletes (.cvtmx f .qnt) f.pr true false f.t0 f.t1 (fun a _ v fl l l' =>
      let w := Ty.width f.ty
      let scale := mxScale f.ty ((List.range 32).map fun k => decodeF .f32 (elem a 32 k))
      let out := fun k => if scale = 0xFF then (0, 0)
        else deliverF f.ty f.rnd f.sat (drawOf (f.rnd == .rsr) l k) (exMul (decodeF .f32 (elem a 32 k)) (exPow2 (127 - (scale : Int)))).1
      (∀ k, k < 32 → elem v w k = (out k).1 % 2 ^ w) ∧ fieldOf v 960 8 = scale ∧ fieldOf v (32 * w) (960 - 32 * w) = 0 ∧ fieldOf v 968 56 = 0
        ∧ fl = (List.range 32).foldl (fun acc k => acc ||| snanFlag .f32 (elem a 32 k) ||| (out k).2) 0
        ∧ l' = if f.rnd == .rsr then lfsrAfter 32 l else l)
    ∧ ValueCompletes (.cvtmx f .dq) f.pr true false f.t0 f.t1 (fun a _ v fl l l' =>
      let w := Ty.width f.ty
      let scale := fieldOf a 960 8
      let out := fun k => if scale = 0xFF then (canonNaN .f32, snanFlag f.ty (elem a w k))
        else
          let d := roundF .f32 f.rnd (drawOf (f.rnd == .rsr) l k) (exMul (decodeF f.ty (elem a w k)) (exPow2 ((scale : Int) - 127))).1
          (d.1, snanFlag f.ty (elem a w k) ||| d.2)
      (∀ k, k < 32 → elem v 32 k = (out k).1 % 2 ^ 32)
        ∧ fl = (List.range 32).foldl (fun acc k => acc ||| (out k).2) 0
        ∧ l' = if f.rnd == .rsr then lfsrAfter 32 l else l))

/-- R145, R154, R177: MOVK, MOVKH and MOV. -/
def Obligations.MovesComplete : Prop :=
  (∀ f : KFields, ValueCompletes (.movk f) f.pr false false f.t0 none (quietly fun _ _ v =>
      ∀ j, j < Ty.count f.ty → (elem v (Ty.width f.ty) j : Int) = sext f.imm.toNat 38 % 2 ^ Ty.width f.ty))
  ∧ (∀ f : KFields, ValueCompletes (.movkh f) f.pr true false f.t0 none (quietly fun a _ v =>
      ∀ i, i < 16 → (lane v i).toNat = f.imm.toNat * 2 ^ 26 + (lane a i).toNat % 2 ^ 26))
  ∧ (∀ f : GFields, ValueCompletes (.mov f) f.pr true false f.t0 f.t1 (quietly fun a _ v => v = a))

/-- R27, R38, R43, R143, R144, R145, R172, R177: at a slot of a resident graph an element-wise instruction fires on n tokens and resolves each position from the tokens that stand in it, a computed
token taking the kind of A's; a position that R43 does not resolve raises TOKEN_ALIGN. MOV forwards each token unchanged; MOVK and LANEID send their tokens once an iteration; the lane,
reduction and mask instructions and CVTMX fire on the tokens of a whole value, or on fewer that end in a control token, which follows their result.
The model's own choices here: notes/assumptions 14, 30, 136. -/
def Obligations.GraphSlotsComplete : Prop :=
  (∀ (i : Instr) (r : ElemRow), elemRow i = some r → GraphCompletes i r.f.pr (rowUses r) r.f.t0 r.f.t1 (rowLane r) asA asEmpty)
  ∧ (∀ (f : GFields) (src : Ty), GraphCompletes (.cvt f src) f.pr [Opnd.a] f.t0 f.t1 (cvtOn f src) asA asEmpty)
  ∧ (∀ f : GFields, f.ty = .n8 ∨ f.ty = .n16 ∨ f.ty = .n32 →
    GraphCompletes (.clmul f) f.pr (if f.i then [Opnd.a] else [Opnd.a, Opnd.b]) f.t0 f.t1 (laneOnly (clmulOn f)) asA asEmpty)
  ∧ (∀ f : GFields, Ty.isInt f.ty = true → 16 ≤ Ty.width f.ty →
    GraphCompletes (.pack f) f.pr (if f.i then [Opnd.a] else [Opnd.a, Opnd.b]) f.t0 f.t1 (laneOnly (packOn f)) asA asEmpty
    ∧ GraphCompletes (.unpk f) f.pr (if f.i then [Opnd.a] else [Opnd.a, Opnd.b]) f.t0 f.t1 (laneOnly (unpkOn f)) asA asEmpty)
  ∧ (∀ f : KFields, GraphCompletes (.movkh f) f.pr [Opnd.a] f.t0 none
    (laneOnly fun pays => BitVec.ofNat 64 (f.imm.toNat * 2 ^ 26 + ((pays[0]?).getD 0).toNat % 2 ^ 26)) asA asEmpty)
  ∧ (∀ f : GFields, GraphCompletes (.mov f) f.pr [Opnd.a] f.t0 f.t1 (laneOnly fun pays => (pays[0]?).getD 0) (fun first _ => first) fun first => if isEmpty first then first else asEmpty first)
  ∧ (∀ (f : KFields) s g gi tile fr slot gr c, OnceCompletes (.movk f) f.pr f.t0 none s g gi tile fr slot gr c
    [tok kindVAL 0 (ofElems 64 (Ty.width f.ty) (64 / Ty.width f.ty) fun _ => lowNat (Ty.width f.ty) (sext f.imm.toNat 38)).toNat])
  ∧ (∀ (f : GFields) s g gi tile fr slot gr c, OnceCompletes (.laneid f) f.pr f.t0 f.t1 s g gi tile fr slot gr c
    ((List.range 16).map fun i => tok kindVAL 0 (ofElems 64 (Ty.width f.ty) (64 / Ty.width f.ty) fun k => 64 / Ty.width f.ty * i + k).toNat))
  ∧ (∀ f : GFields,
    let n := Ty.count f.ty
    let w := Ty.width f.ty
    AcrossCompletes (.shuf f) f.pr (!f.i) f.t0 f.t1 16 (calmly fun a b bare => lanesGive bare a.length w fun j => tokElem f.ty a 0 (tokB f b j % n))
    ∧ AcrossCompletes (.bcast f) f.pr (!f.i) f.t0 f.t1 16 (calmly fun a b bare => lanesGive bare a.length w fun _ => tokElem f.ty a 0 (tokB f b 0 % n))
    ∧ AcrossCompletes (.cmpr f) f.pr true f.t0 f.t1 16 (calmly fun a b bare =>
      let sel := (List.range n).filter fun j => decide (tokElem f.ty b 0 j ≠ 0)
      lanesGive bare ((sel.length * w + 63) / 64) w fun m => ((sel[m]?).map fun j => tokElem f.ty a 0 j).getD 0)
    ∧ AcrossCompletes (.expd f) f.pr true f.t0 f.t1 16 (calmly fun a b bare => lanesGive bare b.length w fun j =>
      if tokElem f.ty b 0 j ≠ 0 then tokElem f.ty a 0 (((List.range j).filter fun i => decide (tokElem f.ty b 0 i ≠ 0)).length) else 0)
    ∧ AcrossCompletes (.mkmsk f) f.pr false f.t0 f.t1 16 (calmly fun a _ bare => lanesGive bare ((a.length * (64 / w) + 63) / 64) 1 fun j =>
      if j < n ∧ tokElem f.ty a 0 j ≠ 0 then 1 else 0)
    ∧ (∀ op : MskOp, AcrossCompletes (.mskop f op) f.pr false f.t0 f.t1 ((n + 63) / 64) (calmly fun a _ bare =>
      bare = [tok kindVAL 0 (maskAnswer op n (fieldOf (valueOfTokens a) 0 n))]))
    ∧ (∀ op : RedOp,
      AcrossCompletes (.lred f op) f.pr false f.t0 f.t1 16 (fun a _ bare fl l l' =>
        let r := reduceTree (f.rnd == .rsr) (reduceStepOf f op) (Nat.log2 n) ((List.range n).map fun j => tokElem f.ty a (redIdentity f.ty op) j) l
        lanesGive bare 1 w (fun _ => r.1 % 2 ^ w) ∧ fl = r.2.1 ∧ l' = r.2.2)
      ∧ AcrossCompletes (.lscan f op) f.pr false f.t0 f.t1 16 (fun a _ bare fl l l' =>
        ∃ ys : List (Nat × FlagSet), ys.length = n ∧ ys[0]? = some (tokElem f.ty a (redIdentity f.ty op) 0, 0)
          ∧ (∀ j p, ys[j]? = some p → j + 1 < n → ys[j + 1]? = some (reduceStepOf f op p.1 (tokElem f.ty a (redIdentity f.ty op) (j + 1)) (drawOf (f.rnd == .rsr) l j)))
          ∧ lanesGive bare a.length w (fun j => ((ys[j]?).map fun p => p.1 % 2 ^ w).getD 0)
          ∧ fl = ys.foldl (fun acc p => acc ||| p.2) 0
          ∧ l' = if f.rnd == .rsr then lfsrAfter (n - 1) l else l)))
  ∧ (∀ f : GFields, f.ty = .e4 ∨ f.ty = .e5 ∨ f.ty = .f4 →
    AcrossCompletes (.cvtmx f .qnt) f.pr false f.t0 f.t1 16 (fun a _ bare fl l l' =>
      let w := Ty.width f.ty
      let src := fun k => tokElem .f32 a 0 k
      let scale := mxScale f.ty ((List.range 32).map fun k => decodeF .f32 (src k))
      let out := fun k => if scale = 0xFF then (0, 0) else deliverF f.ty f.rnd f.sat (drawOf (f.rnd == .rsr) l k) (exMul (decodeF .f32 (src k)) (exPow2 (127 - (scale : Int)))).1
      ∃ data, bare = tok kindSCALE 0 scale :: data ∧ lanesGive data (w / 2) w (fun k => (out k).1 % 2 ^ w)
        ∧ fl = (List.range 32).foldl (fun acc k => acc ||| snanFlag .f32 (src k) ||| (out k).2) 0
        ∧ l' = if f.rnd == .rsr then lfsrAfter 32 l else l))
  ∧ (∀ f : GFields, f.ty = .e4 ∨ f.ty = .e5 ∨ f.ty = .f4 → DequantiseCompletes f)

/-! ## Blocks, windows and branches -/

/-- R70, R174, R178: each branch fires as its block's one branch, with its target.
The model's own choices here: notes/assumptions 13. -/
def Obligations.BranchesComplete : Prop :=
  ∀ f : BFields,
    BranchCompletes (.br f) f false .br (fun k _ => farTarget k.addr f.off)
    ∧ BranchCompletes (.call f) f false .call (fun k _ => farTarget k.addr f.off)
    ∧ BranchCompletes (.bri f) f true .br (fun _ a => farTarget (addressIn a) f.off)
    ∧ BranchCompletes (.calli f) f true .call (fun _ a => farTarget (addressIn a) f.off)
    ∧ BranchCompletes (.ret f) f true .ret (fun _ a => addressIn a)
    ∧ BranchCompletes (.halt f) f false .halt (fun _ _ => 0)

/-- R173, R177: READ sends the window word as its block sees it; WRITE and the mask forms of NULL produce window words and stores, and the target form places voids. -/
def Obligations.WindowAndNullComplete : Prop :=
  (∀ (f : WFields) (s : State) (g th b slot : Nat) (k : Block) (va vb vc v : Value) (t : Thread),
    BlockAt s g th b slot f.pr false false false k va vb vc → thread? s g th = some t → (windowSeen t b)[f.word.toNat]? = some (some v) →
      exec (.read f) s = .next (deliver (markFired s g th b slot) g th b slot f.t0 f.t1 (.val v)))
  ∧ (∀ (f : WFields) (s : State) (g th b slot : Nat) (k : Block) (va vb vc : Value),
    Unwatched s → BlockAt s g th b slot f.pr true false false k va vb vc → has k.wrDone f.word.toNat = false → has k.wrDischarged f.word.toNat = false →
      ∃ t, exec (.write f) s = .next t
        ∧ BlockIs s t g th b { fired k slot with wrDone := f.word.toNat :: k.wrDone, wrVals := Tab.set k.wrVals f.word.toNat va })
  ∧ (∀ (f : GFields) (s : State) (g th b slot : Nat) (k : Block) (va vb vc : Value),
    BlockAt s g th b slot f.pr false false false k va vb vc →
      exec (.null f .targets) s = .next (deliver (markFired s g th b slot) g th b slot f.t0 f.t1 .void))
  ∧ (∀ (f : GFields) (form : NullForm) (s : State) (g th b slot : Nat) (k : Block) (va vb vc : Value),
    Unwatched s → BlockAt s g th b slot f.pr false false false k va vb vc →
      (form = .st0 ∨ form = .st1 →
        (∀ i < 16, f.imm.getLsbD i = true → ∀ q, q = (if form = .st0 then i else 16 + i) → has k.stDone q = false ∧ has k.stDischarged q = false) →
        ∃ t y, exec (.null f form) s = .next t ∧ BlockIs s t g th b y ∧ y.fired = slot :: k.fired ∧ y.stDone = k.stDone
          ∧ ∀ q, has y.stDischarged q = (has k.stDischarged q
              || (decide (form = .st0 ∧ q < 16) && f.imm.getLsbD q) || (decide (form = .st1 ∧ 16 ≤ q ∧ q < 32) && f.imm.getLsbD (q - 16))))
      ∧ (form = .wr0 ∨ form = .wr1 →
        (∀ i < 16, f.imm.getLsbD i = true → ∀ q, q = (if form = .wr0 then i else 16 + i) → has k.wrDone q = false ∧ has k.wrDischarged q = false) →
        ∃ t y, exec (.null f form) s = .next t ∧ BlockIs s t g th b y ∧ y.fired = slot :: k.fired ∧ y.wrDone = k.wrDone ∧ y.wrVals = k.wrVals
          ∧ ∀ q, has y.wrDischarged q = (has k.wrDischarged q
              || (decide (form = .wr0 ∧ q < 16) && f.imm.getLsbD q) || (decide (form = .wr1 ∧ 16 ≤ q ∧ q < 32) && f.imm.getLsbD (q - 16)))))

/-- R171, R172, R173, R174: a second value for an entry keeps the first, and a second branch or a second WRITE of a word is taken back too; each raises BLOCK_DUP (code 0x02) at its slot. An
element-wise instruction whose predicate fails sends nothing, and one that finds a void in a used entry computes nothing and sends a void to its targets.
The model's own choices here: notes/assumptions 10, 11. -/
def Obligations.SecondArrivalsUntakenAndVoids : Prop :=
  ((∀ (s : State) (g th b slot : Nat) (k : Block) (tg : Target) (e v : BEntry),
    block? s g th b = some k → entry? k tg.slot.toNat tg.opnd = some e → k.fault = none →
      ∃ y, block? (arrive s g th b slot (some tg) v) g th b = some y ∧ y.entries = k.entries
        ∧ y.fault = some { slot := some slot, code := 2, cause := 0, wr := false, addr := k.addr })
  ∧ (∀ (f : BFields) (s : State) (g th b slot : Nat) (k : Block) (va vb vc : Value) (old : BranchKind × Nat),
    Unwatched s → BlockAt s g th b slot f.pr false false false k va vb vc → k.branch = some old → k.fault = none →
      ∃ t, exec (.br f) s = .next t ∧ BlockIs s t g th b
        { fired k slot with fault := some { slot := some slot, code := 2, cause := 0, wr := false, addr := k.addr } })
  ∧ (∀ (f : WFields) (s : State) (g th b slot : Nat) (k : Block) (va vb vc : Value),
    Unwatched s → BlockAt s g th b slot f.pr true false false k va vb vc → has k.wrDone f.word.toNat = true → k.fault = none →
      ∃ t, exec (.write f) s = .next t ∧ BlockIs s t g th b
        { fired k slot with fault := some { slot := some slot, code := 2, cause := 0, wr := false, addr := k.addr } }))
  ∧ (∀ (i : Instr) (r : ElemRow), elemRow i = some r →
    ∀ (s : State) (g th b slot : Nat) (k : Block), s.site = .block g th b slot → firing? s g th b slot = some k →
      (takeEntries k slot r.f.pr true (r.ub && !r.f.i) r.uc = .untaken → exec i s = .next (markFired s g th b slot))
      ∧ (takeEntries k slot r.f.pr true (r.ub && !r.f.i) r.uc = .nulled →
          exec i s = .next (deliver (markFired s g th b slot) g th b slot r.f.t0 r.f.t1 .void))
      ∧ (takeEntries k slot r.f.pr true (r.ub && !r.f.i) r.uc = .wait → exec i s = .next s))
/-! ## Memory instructions in a block -/

/-- R104, R118, R183: a scratchpad LD reads the 128 bytes that its offset names, its own thread's uncommitted stores and its cluster's queue included; beyond the allocation it reads
zero, and the block notes the access for its commit. A gm LD reads the bytes at the place to which its address translates.
The model's own choices here: notes/assumptions 7, 119, 137. -/
def Obligations.LoadCompletes : Prop :=
  ∀ (f : MFields) (s : State) (g th b slot : Nat) (x : Group) (t : Thread) (k : Block) (va vb vc : Value),
    Sound s → Unwatched s → MemGo s g th b slot f .ld x t k va vb vc →
      (f.spc ≠ .gm → ∀ key, padKey x (mvOfSpace f.spc) (clusterOfThread x th) 128 (addrOf va) = some key →
        exec (.ld f) s = .next (loadGives s g th b slot f.seq.toNat (locations key 128)
          (valueOfBytes (viewBytes s (clusterOfThread x th) (g, th) (uncommitted t b) key 128)) 1))
      ∧ (f.spc ≠ .gm → padKey x (mvOfSpace f.spc) (clusterOfThread x th) 128 (addrOf va) = none →
        ∃ s', s' = modBlock s g th b (fun k => { k with
            spoobs := k.spoobs ++ [padOffset (spaceSize x (mvOfSpace f.spc)) 128 (addrOf va) % 2 ^ 32 + MvSpace.code (mvOfSpace f.spc) * 2 ^ 32] })
          ∧ exec (.ld f) s = .next (loadGives s' g th b slot f.seq.toNat [] 0 1))
      ∧ (f.spc = .gm → ∀ s' key sy, gmFind s (edgeHolder (clusterOfThread x th)) g (addrOf va) 128 .read = (s', .at_ key sy) →
        isHost key = false → isPeer key = false → queuedElsewhere s' (clusterOfThread x th) (g, th) key 128 = false →
        exec (.ld f) s = .next (loadGives s' g th b slot f.seq.toNat (locations key 128)
          (valueOfBytes (viewBytes s' (clusterOfThread x th) (g, th) (uncommitted t b) key 128)) 1))

/-- R188: a scratchpad LDX reads each active element at A + index × w/8, gives zero for an inactive one, and its mask has a bit for each active element.
The model's own choices here: notes/assumptions 137. -/
def Obligations.GatherCompletes : Prop :=
  ∀ (f : MFields) (s : State) (g th b slot : Nat) (x : Group) (t : Thread) (k : Block) (va vb vc : Value) (keys : Nat → Nat),
    Sound s → Unwatched s → f.spc ≠ .gm → 8 ≤ Ty.width f.ty → MemGo s g th b slot f .ldx x t k va vb vc →
      (∀ j a, j < Ty.count f.ty → activeAt (addrOf va) (Ty.width f.ty) vb j = some a →
        padKey x (mvOfSpace f.spc) (clusterOfThread x th) (Ty.width f.ty / 8) a = some (keys j)) →
      ∃ v m : Value,
        exec (.ldx f) s = .next (loadGives s g th b slot f.seq.toNat
          (((List.range (Ty.count f.ty)).filter fun j => (activeAt (addrOf va) (Ty.width f.ty) vb j).isSome).flatMap fun j => locations (keys j) (Ty.width f.ty / 8)) v m)
        ∧ ∀ j, j < Ty.count f.ty →
            elem v (Ty.width f.ty) j = (match activeAt (addrOf va) (Ty.width f.ty) vb j with
              | some _ => natOfBytes (viewBytes s (clusterOfThread x th) (g, th) (uncommitted t b) (keys j) (Ty.width f.ty / 8))
              | none => 0)
            ∧ m.getLsbD j = (activeAt (addrOf va) (Ty.width f.ty) vb j).isSome

/-- R118, R175, R184: ST and STX are checked when they fire and write nothing before their block commits: the block holds their bytes with their places, and their store is produced. -/
def Obligations.StoresAreHeldToCommit : Prop :=
  (∀ (f : MFields) (s : State) (g th b slot : Nat) (x : Group) (t : Thread) (k : Block) (va vb vc : Value),
    Unwatched s → MemGo s g th b slot f .st x t k va vb vc → has k.stDone f.seq.toNat = false → has k.stDischarged f.seq.toNat = false →
      (f.spc ≠ .gm → ∀ key, padKey x (mvOfSpace f.spc) (clusterOfThread x th) 128 (addrOf va) = some key → b = 0 ∨ Local key 128 →
        ∃ t' y p, exec (.st f) s = .next t' ∧ t'.mem = s.mem ∧ BlockIs s t' g th b y ∧ y.stores = k.stores ++ [p]
          ∧ p.bytes = keyed key (bytesOf 128 vb.toNat) ∧ p.seq = f.seq.toNat ∧ y.stDone = f.seq.toNat :: k.stDone ∧ y.fired = slot :: k.fired)
      ∧ (f.spc = .gm → ∀ s' key sy, gmFind s (edgeHolder (clusterOfThread x th)) g (addrOf va) 128 .write = (s', .at_ key sy) →
        b = 0 ∨ Local key 128 →
        ∃ t' y p, exec (.st f) s = .next t' ∧ t'.mem = s'.mem ∧ block? t' g th b = some y ∧ y.stores = k.stores ++ [p]
          ∧ p.bytes = keyed key (bytesOf 128 vb.toNat) ∧ p.seq = f.seq.toNat ∧ y.stDone = f.seq.toNat :: k.stDone))
  ∧ (∀ (f : MFields) (s : State) (g th b slot : Nat) (x : Group) (t : Thread) (k : Block) (va vb vc : Value) (keys : Nat → Nat),
    Unwatched s → f.spc ≠ .gm → 8 ≤ Ty.width f.ty → MemGo s g th b slot f .stx x t k va vb vc →
      has k.stDone f.seq.toNat = false → has k.stDischarged f.seq.toNat = false →
      (∀ j a, j < Ty.count f.ty → activeAt (addrOf va) (Ty.width f.ty) vb j = some a →
        padKey x (mvOfSpace f.spc) (clusterOfThread x th) (Ty.width f.ty / 8) a = some (keys j) ∧ (b = 0 ∨ Local (keys j) (Ty.width f.ty / 8))) →
      ∃ t' y p, exec (.stx f) s = .next t' ∧ t'.mem = s.mem ∧ BlockIs s t' g th b y ∧ y.stores = k.stores ++ [p]
        ∧ p.bytes = ((List.range (Ty.count f.ty)).filter fun j => (activeAt (addrOf va) (Ty.width f.ty) vb j).isSome).flatMap
            (fun j => keyed (keys j) (bytesOf (Ty.width f.ty / 8) (elem vc (Ty.width f.ty) j)))
        ∧ y.stDone = f.seq.toNat :: k.stDone)

/-- R123, R130, R189, R190: an atomic of the oldest block reads its location and returns the old value in every element, before commit; the new value is written with it, or, at an owner,
is due in the cycle of its read, behind whatever that owner has begun. -/
def Obligations.AtomicsComplete : Prop :=
  ∀ (op : AtomOp) (f : MFields) (s : State) (g th b slot : Nat) (x : Group) (t : Thread) (k : Block) (va vb vc : Value),
    Sound s → Unwatched s → atomicTy op f.ty → MemGo s g th b slot f (.atom op) x t k va vb vc →
      has k.stDone f.seq.toNat = false → has k.stDischarged f.seq.toNat = false →
      let n := Ty.width f.ty / 8
      let done := fun (s1 : State) (owner : Bool) (key : Nat) => ∃ s' v, exec (atomicInstr op f) s = .next (deliverLoad s' g th b slot v 0)
          ∧ everyElem (Ty.width f.ty) (rdNum s1 key n) v
          ∧ AtomicLeaves s1 s' owner key n (atomicResult op f.ty (rdNum s1 key n) (elem vb (Ty.width f.ty) 0) (elem vc (Ty.width f.ty) 0))
          ∧ ∃ y, block? s' g th b = some y ∧ y.perf = true ∧ y.stDone = f.seq.toNat :: k.stDone
      (f.spc ≠ .gm → ∀ key, padKey x (mvOfSpace f.spc) (clusterOfThread x th) n (addrOf va) = some key →
        done (if ownedAt s x (mvOfSpace f.spc) (clusterOfThread x th) n (addrOf va) then ownerSettle s else s)
          (ownedAt s x (mvOfSpace f.spc) (clusterOfThread x th) n (addrOf va)) key)
      ∧ (f.spc = .gm → ∀ s1 key sy, gmFind s (edgeHolder (clusterOfThread x th)) g (addrOf va) n .atomic = (s1, .at_ key sy) →
        isHost key = false → isPeer key = false → queueOverlaps s1 (clusterOfThread x th) key n = false →
        queuedElsewhere s1 (clusterOfThread x th) (g, th) key n = false → done s1 sy.isSome key)

/-- R191, R192, R194: at a sync word that is full LDE takes its value and empties it and LDF leaves it full; STF fills an empty word and answers 1, and answers 0 at a full one, which its
owner may still be serving. A reader of an empty word is parked at its owner. A FENCE that may issue makes no access and sends zero.
The model's own choices here: notes/assumptions 31, 39. -/
def Obligations.SyncWordsAndFencesComplete : Prop :=
  (∀ (f : MFields) (s s1 : State) (g th b slot : Nat) (x : Group) (t : Thread) (k : Block) (va vb vc : Value) (key gi tile byte : Nat) (m : MtState),
    gmFind s (edgeHolder (clusterOfThread x th)) g (addrOf va) 8 .sync = (s1, .at_ key (some (gi, tile, byte))) →
    queueOverlaps s1 (clusterOfThread x th) key 8 = false → mtSync? s1 g gi tile = some m →
    ((syncWord m byte).serving = false → MemGo s g th b slot f .lde x t k va vb vc →
      ((syncWord m byte).full = true → ∃ s', exec (.lde f) s = .next (deliverLoad s' g th b slot (splat (rdWord s1 key)) 0)
        ∧ ∃ m', mtSync? s' g gi tile = some m' ∧ (syncWord m' byte).full = false)
      ∧ ((syncWord m byte).full = false → (syncWord m byte).readers.length < 64 → (syncWord m byte).overflow = [] →
        ∃ t' m', exec (.lde f) s = .next t' ∧ mtSync? t' g gi tile = some m'
          ∧ (syncWord m' byte).readers = (syncWord m byte).readers ++ [{ take := true, entry := 0, site := .block g th b slot, seq := 0 }]))
    ∧ ((syncWord m byte).serving = false → MemGo s g th b slot f .ldf x t k va vb vc →
      (syncWord m byte).full = true → ∃ s', exec (.ldf f) s = .next (deliverLoad s' g th b slot (splat (rdWord s1 key)) 0)
        ∧ ∃ m', mtSync? s' g gi tile = some m' ∧ (syncWord m' byte).full = true)
    ∧ (MemGo s g th b slot f .stf x t k va vb vc → has k.stDone f.seq.toNat = false → has k.stDischarged f.seq.toNat = false →
      ((syncWord m byte).full = true → ∃ s', exec (.stf f) s = .next (deliverLoad s' g th b slot (splat 0) 0) ∧ s'.mem = s1.mem)
      ∧ ((syncWord m byte).full = false → ∃ s', exec (.stf f) s = .next (deliverLoad s' g th b slot (splat 1) 0)
        ∧ s'.mem = (wrNum s1 key 8 (lane vb 0).toNat).mem
        ∧ ∃ m', mtSync? s' g gi tile = some m' ∧ (syncWord m' byte).full = true)))
  ∧ (∀ (f : MFields) (s : State) (g th b slot : Nat) (x : Group) (t : Thread) (k : Block) (va vb vc : Value),
    MemGo s g th b slot f .fence x t k va vb vc →
      exec (.fence f) s = .next (deliver (markIssued s g th b slot f.seq.toNat) g th b slot f.t0 f.t1 (.val 0))
      ∧ (markIssued s g th b slot f.seq.toNat).mem = s.mem)

/-- R184, R341, R350: a gm access that does not lie at a multiple of its size is MISALIGN, and one whose page the table does not give is PAGE_FAULT with the walk's cause; both are
precise faults of the slot, with the address, and nothing is written.
The model's own choices here: notes/assumptions 23, 24. -/
def Obligations.AccessFaultsArePrecise : Prop :=
  ∀ (f : MFields) (s : State) (g th b slot : Nat) (x : Group) (t : Thread) (k : Block) (va vb vc : Value),
    Unwatched s → f.spc = .gm → k.fault = none →
      (MemGo s g th b slot f .ld x t k va vb vc → addrOf va % 128 ≠ 0 →
        ∃ t' y, exec (.ld f) s = .next t' ∧ BlockIs s t' g th b y ∧ t'.mem = s.mem ∧ y.entries = k.entries
          ∧ y.fault = some { slot := some slot, code := 7, cause := 0, wr := false, addr := addrOf va })
      ∧ (MemGo s g th b slot f .st x t k va vb vc → addrOf va % 128 ≠ 0 →
        ∃ t' y, exec (.st f) s = .next t' ∧ BlockIs s t' g th b y ∧ t'.mem = s.mem ∧ y.stores = k.stores
          ∧ y.fault = some { slot := some slot, code := 7, cause := 0, wr := true, addr := addrOf va })
      ∧ (MemGo s g th b slot f .ld x t k va vb vc → addrOf va % 128 = 0 → invalBlocks s x.ctx (addrOf va) = false →
          ∀ e, findExtent (Tab.get s.extents (edgeHolder (clusterOfThread x th)) []) x.ctx (addrOf va) = none → walk s x.ctx (addrOf va) = .error e → e < 0x100 →
        ∃ t' y, exec (.ld f) s = .next t' ∧ BlockIs s t' g th b y ∧ t'.mem = s.mem ∧ y.entries = k.entries
          ∧ y.fault = some { slot := some slot, code := 8, cause := e, wr := false, addr := addrOf va })

/-! ## Synchronisation and system instructions -/

/-- R332, R334, R335, R336: BARV, BARAW and BARI stand as actions of their block's commit; a barrier that is not the context's own, or a BARI of count 0, is BARRIER_DESC (code 0x0F),
precise, with the barrier's number. In the oldest block of a thread that waits at no BARAW, BARW answers PHASE with ST 0 for a satisfied phase and ST 2 at a broken barrier, and otherwise waits; BART answers ST 0, 2 or 1 and
never waits.
The model's own choices here: notes/assumptions 7. -/
def Obligations.BarrierInstructionsComplete : Prop :=
  (∀ (f : GFields) (s : State) (g th b slot : Nat) (x : Group) (k : Block) (va vb vc : Value),
    Unwatched s → grp? s g = some x →
    let n := if f.i then f.imm.toNat % 4096 else (lane vb 0).toNat
    (BlockAt s g th b slot f.pr false (!f.i) false k va vb vc → n < 4096 → (barrier s n).st ≠ .free → barCtx (barrier s n) = x.ctx →
      (∃ t, exec (.barv f) s = .next t ∧ BlockIs s t g th b { fired k slot with actions := k.actions ++ [(slot, .barv n (barrier s n).gen)] })
      ∧ (∃ t, exec (.baraw f) s = .next t ∧ BlockIs s t g th b { fired k slot with actions := k.actions ++ [(slot, .baraw n (barrier s n).gen)] }))
    ∧ (BlockAt s g th b slot f.pr true (!f.i) false k va vb vc → n < 4096 → (barrier s n).st ≠ .free → barCtx (barrier s n) = x.ctx →
      (lane va 0).toNat % 2 ^ 32 ≠ 0 →
      ∃ t, exec (.bari f) s = .next t
        ∧ BlockIs s t g th b { fired k slot with actions := k.actions ++ [(slot, .bari n (barrier s n).gen ((lane va 0).toNat % 2 ^ 32))] })
    ∧ (BlockAt s g th b slot f.pr false (!f.i) false k va vb vc → k.fault = none →
      4096 ≤ n ∨ (barrier s n).st = .free ∨ barCtx (barrier s n) ≠ x.ctx →
      ∃ t, exec (.barv f) s = .next t
        ∧ BlockIs s t g th b { fired k slot with fault := some { slot := some slot, code := 0x0F, cause := 0, wr := false, addr := n } }))
  ∧ (∀ (f : GFields) (s : State) (g th slot : Nat) (x : Group) (k : Block) (va vb vc : Value) (p n : Nat),
    Unwatched s → grp? s g = some x → gangHeld s g = false → awaitsBarrier s g th = false → BlockAt s g th 0 slot f.pr true (!f.i) false k va vb vc →
    n = (if f.i then f.imm.toNat % 4096 else (lane vb 0).toNat) → p = (lane va 0).toNat % 2 ^ 32 →
    n < 4096 → (barrier s n).st ≠ .free → barCtx (barrier s n) = x.ctx →
      (phasePassed (barrier s n) p →
        exec (.barw f) s = .next (deliver (markFired s g th 0 slot) g th 0 slot f.t0 f.t1 (.val (lane0 (BitVec.ofNat 64 (barrier s n).phase.toNat))))
        ∧ exec (.bart f) s = .next (deliver (markFired s g th 0 slot) g th 0 slot f.t0 f.t1 (.val (lane0 (BitVec.ofNat 64 (barrier s n).phase.toNat)))))
      ∧ (¬ phasePassed (barrier s n) p → (barrier s n).st = .broken →
        exec (.barw f) s = .next (deliver (markFired s g th 0 slot) g th 0 slot f.t0 f.t1 (.val (lane0 (BitVec.ofNat 64 ((barrier s n).phase.toNat + 2 * 2 ^ 32)))))
        ∧ exec (.bart f) s = .next (deliver (markFired s g th 0 slot) g th 0 slot f.t0 f.t1 (.val (lane0 (BitVec.ofNat 64 ((barrier s n).phase.toNat + 2 * 2 ^ 32))))))
      ∧ (¬ phasePassed (barrier s n) p → (barrier s n).st = .opened →
        exec (.bart f) s = .next (deliver (markFired s g th 0 slot) g th 0 slot f.t0 f.t1 (.val (lane0 (BitVec.ofNat 64 ((barrier s n).phase.toNat + 2 ^ 32)))))
        ∧ ∃ t y, exec (.barw f) s = .next t ∧ block? t g th 0 = some y ∧ y.waits = k.waits ++ [(slot, .barw n p)]))

/-- The packet that a put writes (R293): SEQ in word 0, and for LAUNCH the issuer's GRPID and its DEADLINE where word 2 is zero. -/
def Sys2Proof.Claims.putWord (launch : Bool) (g seq dl : Nat) (a : Value) (i : Nat) : Nat :=
  let w := (lane a i).toNat
  if i = 0 then
    if launch then w % 2 ^ 48 / 2 ^ 32 * 2 ^ 32 + seq + g % 2 ^ 16 * 2 ^ 48 else w / 2 ^ 32 * 2 ^ 32 + seq
  else if launch ∧ i = 2 ∧ w = 0 then dl % 2 ^ 64
  else w

/-- R293: an accepted put writes its packet with the queue's next SEQ at QBASE + 128 × (SEQ mod SIZE), advances PIDX, and answers st 0 with SEQ; a put at a queue that is not a
device-fed queue of the context answers 2, a LAUNCH whose packet is no LAUNCH answers 3, and a put at a full queue answers 1.
The model's own choices here: notes/assumptions 26. -/
def Obligations.PutsComplete : Prop :=
  ∀ (k : PutKind) (f : GFields) (s : State) (g th slot : Nat) (x : Group) (blk : Block) (va vb vc : Value) (q : Nat),
    Unwatched s → grp? s g = some x → awaitsBarrier s g th = false → BlockAt s g th 0 slot f.pr true (!f.i) false blk va vb vc →
    q = (if f.i then f.imm.toNat % 4096 else (lane vb 0).toNat) →
    let i := match k with | .qput => Instr.qput f | .qputw => Instr.qputw f | .launch => Instr.launch f
    let y := queue s q
    let size := 2 ^ (y.cfg.toNat / 2 ^ 15 % 2 ^ 5)
    let opened := q < 4096 ∧ y.st ≠ .free ∧ y.st ≠ .resetting ∧ y.cfg.toNat % 4096 = x.ctx ∧ y.cfg.getLsbD 14 = true
    let launchOk := (lane va 0).toNat / 2 ^ 32 % 256 = 1 ∧ launchReserved ((List.range 16).map (lane va)) = false
    (¬ opened → y.waiters = [] →
      ∃ t, exec i s = .next (deliver t g th 0 slot f.t0 f.t1 (.val (lane0 2))) ∧ t.mem = s.mem ∧ ∀ q', (queue t q').pidx = (queue s q').pidx)
    ∧ (k = .launch → opened → ¬ launchOk →
      exec i s = .next (deliver (markFired s g th 0 slot) g th 0 slot f.t0 f.t1 (.val (lane0 3))))
    ∧ (k ≠ .qputw → (k = .launch → launchOk) → opened → y.waiters = [] → (y.pidx - y.cidx).toNat = size →
      ∃ t, exec i s = .next (deliver t g th 0 slot f.t0 f.t1 (.val (lane0 1))) ∧ t.mem = s.mem ∧ ∀ q', (queue t q').pidx = (queue s q').pidx)
    ∧ (∀ p key, Memory.wf s.mem = true → (k = .launch → launchOk) → opened → y.waiters = [] → (y.pidx - y.cidx).toNat < size →
      resolveOwn s x.ctx (y.qbase.toNat + 128 * (y.pidx.toNat % size)) .write = .ok p → placeKey p = some key →
      storesPerformed s (g, th) (if isHost key then .system else .package) = true → loadsOut blk = false →
      ∃ t, exec i s = .next (deliver t g th 0 slot f.t0 f.t1 (.val (lane0 (BitVec.ofNat 64 (y.pidx.toNat * 2 ^ 32)))))
        ∧ (queue t q).pidx = y.pidx + 1
        ∧ ∀ j, j < 16 → rdNum t (key + 8 * j) 8 = putWord (k == .launch) g y.pidx.toNat x.dl va j)

/-- R279, R280: GETSR gives the register's value for its thread in lane 0, and reading STREAMERR clears it; SETSR's write waits for its block's commit.
The model's own choices here: notes/assumptions 17. -/
def Obligations.SystemRegisterInstructionsComplete : Prop :=
  ∀ (f : GFields) (s : State) (g th b slot : Nat) (x : Group) (t : Thread) (k : Block) (va vb vc : Value) (r : Nat),
    Unwatched s → grp? s g = some x → thread? s g th = some t → r = f.imm.toNat % 256 →
    (BlockAt s g th 0 slot f.pr false false false k va vb vc → awaitsBarrier s g th = false →
      (r ≠ 8 → ∀ v, (r, v) ∈ [(0, x.ctx), (1, (ctx s x.ctx).tenant.toNat), (2, (ctx s x.ctx).asid.toNat),
          (3, (if (ctx s x.ctx).conf then 1 else 0) + 2 * (ctx s x.ctx).owner.toNat), (4, g),
          (5, th % 4 + th / 4 * 4 + clusterOfThread x th * 2 ^ 11), (6, s.dtime), (7, x.fpctl.toNat), (9, x.dpbase), (0xA, x.dpsize), (0xB, x.mstat.toNat),
          (0xC, t.winbase.toNat), (0xD, t.winsize.toNat), (0xE, t.wintop.toNat), (0xF, t.trapvec.toNat), (0x10, t.fltcode.toNat), (0x11, t.fltaddr.toNat),
          (0x12, if (ctx s x.ctx).stallcyc = 0 then 1 else (ctx s x.ctx).stallcyc.toNat), (0x13, (ctx s x.ctx).samprate.toNat), (0x14, (ctx s x.ctx).dbgcons.toNat)] →
        exec (.getsr f) s = .next (deliver (markFired s g th 0 slot) g th 0 slot f.t0 f.t1 (.val (lane0 (BitVec.ofNat 64 v)))))
      ∧ (r = 8 → ∃ s', exec (.getsr f) s = .next (deliver s' g th 0 slot f.t0 f.t1 (.val (lane0 (BitVec.ofNat 64 x.streamerr.toNat))))
        ∧ ∀ x', grp? s' g = some x' → x'.streamerr = 0))
    ∧ (BlockAt s g th b slot f.pr true false false k va vb vc →
      ∃ t', exec (.setsr f) s = .next t' ∧ BlockIs s t' g th b { fired k slot with setsrs := k.setsrs ++ [(slot, r, lane va 0)] })

/-- R364, R365, R366, R367, R439: TRAP, MCUT, BRK and EVT stand as actions of their block's commit, and TRET gives the address to which its block returns; EVT passes its operand on. -/
def Obligations.CommitActionsComplete : Prop :=
  ∀ (f : GFields) (s : State) (g th b slot : Nat) (x : Group) (k : Block) (va vb vc : Value),
    Unwatched s → grp? s g = some x →
    (BlockAt s g th b slot f.pr false false false k va vb vc →
      (∃ t, exec (.trap f) s = .next t ∧ BlockIs s t g th b { fired k slot with actions := k.actions ++ [(slot, .trap (f.imm.toNat % 256))] })
      ∧ (∃ t, exec (.mcut f) s = .next t ∧ BlockIs s t g th b { fired k slot with actions := k.actions ++ [(slot, .mcut)] })
      ∧ (∃ t, exec (.brk f) s = .next t ∧ BlockIs s t g th b { fired k slot with actions := k.actions ++ [(slot, .brk (f.imm.toNat % 65536))] }))
    ∧ (BlockAt s g th b slot f.pr true false false k va vb vc →
      (∃ t, exec (.tret f) s = .next t ∧ BlockIs s t g th b { fired k slot with tret := some (addressIn va) })
      ∧ (∃ t, exec (.evt f) s = .next (deliver t g th b slot f.t0 f.t1 (.val va))
          ∧ BlockIs s t g th b { fired k slot with actions := k.actions ++ [(slot, .evt (f.imm.toNat % 256) (lane va 0) (ceTile k th slot))] }))

/-- R321, R351, R356: SPAWN hands its argument to the MTINV that its tile names and waits for the result, and a tile that runs none is SPAWN_DESC (code 0x10); PGINV queues its range as an
invalidation of the context and waits for it; PGPROBE answers what a walk of its address finds. -/
def Obligations.SpawnAndPageInstructionsComplete : Prop :=
  ∀ (f : GFields) (s : State) (g th slot : Nat) (x : Group) (k : Block) (va vb vc : Value),
    Unwatched s → grp? s g = some x → awaitsBarrier s g th = false →
    (BlockAt s g th 0 slot f.pr true false false k va vb vc →
      (∀ gj m mt gr, spawnTarget x (f.imm.toNat % 2 ^ 18) = some gj → graph? s g gj = some gr → mt? s g gj (f.imm.toNat % 2 ^ 18) = some mt → mt.fn = some m →
        storesPerformed s (g, th) (groupScope x) = true → loadsOut k = false →
        ∃ t y mt' m', exec (.spawn f) s = .next t ∧ block? t g th 0 = some y ∧ y.waits = k.waits ++ [(slot, .spawnTag gj (f.imm.toNat % 2 ^ 18))]
          ∧ mt? t g gj (f.imm.toNat % 2 ^ 18) = some mt' ∧ mt'.fn = some m'
          ∧ m'.waiting = m.waiting ++ [({ tag := 0, site := .block g th 0 slot, pos := 0, packet := none, spawned := true }, lane va 0)])
      ∧ (spawnTarget x (f.imm.toNat % 2 ^ 18) = none → k.fault = none →
        ∃ t, exec (.spawn f) s = .next t ∧ BlockIs s t g th 0
          { fired k slot with fault := some { slot := some slot, code := 0x10, cause := 0, wr := false, addr := f.imm.toNat % 2 ^ 18 } })
      ∧ (∀ e, walk s x.ctx (lane va 0).toNat = .error e →
        exec (.pgprobe f) s = .next (deliver (markFired s g th 0 slot) g th 0 slot f.t0 f.t1 (.val (lane0 (BitVec.ofNat 64 (e * 256))))))
      ∧ (∀ e p, walk s x.ctx (lane va 0).toNat = .ok (e, 16) → (placeOf s x.ctx (lane va 0).toNat (some g) .read e 16).2 = .ok p →
        exec (.pgprobe f) s = .next (deliver (markFired s g th 0 slot) g th 0 slot f.t0 f.t1
          (.val (lane0 (BitVec.ofNat 64 (1 + (if e.getLsbD 2 then 2 else 0) + (if e.getLsbD 3 then 4 else 0) + fieldOf e 4 3 * 8)))))))
    ∧ (BlockAt s g th 0 slot f.pr true (!f.i) false k va vb vc →
      let va' := (lane va 0).toNat
      let n := if f.i then f.imm.toNat else (lane vb 0).toNat
      (2 ^ 57 ≤ va' ∨ 2 ^ 32 ≤ n → exec (.pginv f) s = .next (deliver (markFired s g th 0 slot) g th 0 slot f.t0 f.t1 (.val (lane0 1))))
      ∧ (va' < 2 ^ 57 → n < 2 ^ 32 →
        ∃ t y, exec (.pginv f) s = .next t ∧ block? t g th 0 = some y ∧ y.waits = k.waits ++ [(slot, .pginv (ctx s x.ctx).nextInval)]
          ∧ (ctx t x.ctx).invals = (ctx s x.ctx).invals ++
            [{ va := va' / 65536 * 65536, n := if n = 0 then 0 else min n ((2 ^ 57 - va' / 65536 * 65536) / 65536)
               pginv := some (ctx s x.ctx).nextInval, started := false }]))

/-! ## Engine instructions -/

/-- R195, R199, R202, R247, R253, R396, R398, R399: in a block an engine instruction whose descriptor is good is captured with its operands, in order, and does nothing before the
commit; one whose descriptor is not good is a precise fault, TMOV_DESC (code 0x0B) or MATRIX_DESC (code 0x0E). ENOP captures too; with a pop in CT it fires in the oldest block, once the
FIFO holds a token, and takes the token then (R129, R196). -/
def Obligations.EngineInstructionsAreCaptured : Prop :=
  (∀ (i : Instr) (r : EngRow), engRow i = some r →
    ∀ (s : State) (g th b slot : Nat) (x : Group) (k : Block) (va vb vc : Value), Unwatched s → grp? s g = some x → BlockAt s g th b slot r.f.pr r.ua r.ub r.uc k va vb vc →
      (r.ok s g va vb vc → ∃ t, exec i s = .next t ∧ BlockIs s t g th b { fired k slot with engines := k.engines ++ [engCopyOf x k slot va vb vc] })
      ∧ (¬ r.ok s g va vb vc → k.fault = none → ∃ t, exec i s = .next t ∧ BlockIs s t g th b
          { fired k slot with fault := some { slot := some slot, code := r.code, cause := 0, wr := false, addr := r.told va vb } }))
  ∧ (∀ (f : EFields) (q : Qu) (s : State) (g th b slot : Nat) (x : Group) (k : Block) (va vb vc : Value), Unwatched s → grp? s g = some x →
      BlockAt s g th b slot f.pr false false false k va vb vc →
      (q ≠ .ct ∨ f.pop = none → ∃ t, exec (.enop f q) s = .next t ∧ BlockIs s t g th b { fired k slot with engines := k.engines ++ [engCopyOf x k slot va vb vc] })
      ∧ (∀ p t0, f.pop = some p → q = .ct → b = 0 → thread? s g th = some t0 → 0 < Tab.get t0.fifos (4 * Qu.code p) 0 →
          ∃ t t1, exec (.enop f q) s = .next t
            ∧ BlockIs s t g th b { fired k slot with engines := k.engines ++ [engCopyOf x k slot va vb vc], ctPopped := p :: k.ctPopped }
            ∧ thread? t g th = some t1 ∧ t1.fifos = Tab.set t0.fifos (4 * Qu.code p) (Tab.get t0.fifos (4 * Qu.code p) 0 - 1))
      ∧ (∀ p, f.pop = some p → q = .ct → b ≠ 0 → exec (.enop f q) s = .next s))

/-- R199, R201: at the head of its queue TMOV copies ROWS × COLS elements, TMOVT sends element (r, c) to row c, TMOVC writes a record of each element that is not zero and their
count, and TMOVE zeroes the destination and puts each record's element in its place; ENOP does nothing (R197). Nothing but storage and the queue changes. -/
def Obligations.TileMovesComplete : Prop :=
  ∀ (f : EFields) (e : MvEng) (s : State) (g th : Nat) (q : Qu) (x : Group) (en : EngEntry) (from_ dest_ across record_ : Nat → Nat) (countAt : Nat),
    Sound s → Unwatched s → EngGo s g th q x en → Unbegun en →
    let n : Nat := 2 ^ e.esz.toNat
    let cols := (lane en.c 0).toNat
    let total := (lane en.c 1).toNat * cols
    let src := (lane en.a 0).toNat
    let dst := (lane en.b 0).toNat
    let reads := ∀ p, p < total → EngAt s x th e.ssp .read (elemAt src (lane en.c 2).toInt cols n p) n (from_ p)
    let writes := ∀ p, p < total → EngAt s x th e.dsp .write (elemAt dst (lane en.c 3).toInt cols n p) n (dest_ p)
    exec (.enop f q) s = .next (engFinished s g th q s.mem)
    ∧ (total < 2 ^ 40 → reads → writes → exec (.tmov f e) s = .next (engFinished s g th q (copyAll from_ dest_ n total s.mem)))
    ∧ (total < 2 ^ 40 → reads → (∀ p, p < total → EngAt s x th e.dsp .write (elemAcross dst (lane en.c 3).toInt cols n p) n (across p)) →
        exec (.tmovt f e) s = .next (engFinished s g th q (copyAll from_ across n total s.mem)))
    ∧ (total + 1 < 2 ^ 40 → reads → (∀ j, j < total → EngAt s x th e.dsp .write (addrPlus dst (8 + 8 * j)) 8 (record_ j)) →
        EngAt s x th e.dsp .write dst 8 countAt →
        exec (.tmovc f e) s = .next (engFinished s g th q (compressAll from_ record_ countAt n total s.mem)))
    ∧ (2 * total + 2 < 2 ^ 40 → writes → (∀ j, j < total → EngAt s x th e.ssp .read (addrPlus src (8 + 8 * j)) 8 (record_ j)) →
        EngAt s x th e.ssp .read src 8 countAt →
        exec (.tmove f e) s = .next (engFinished s g th q (expandAll record_ dest_ countAt n total s.mem)))

/-- R247, R253, R254: ACCRD writes the 1,024 entries of an accumulator, converted with RNE, ACCWR reads them, ACCCLR makes them +0, and MGO injects one sweep at cell (0, 0) of its
region while fewer than four are ahead. Flags that were not enabled when its block mapped go to FPCTL. -/
def Obligations.MatrixEngineCompletes : Prop :=
  ∀ (f : EFields) (e : AccEng) (s : State) (g th : Nat) (q : Qu) (x : Group) (en : EngEntry) (at_ : Nat → Nat),
    Sound s → Unwatched s → EngGo s g th q x en → Unbegun en →
    let tile := (lane en.a 0).toNat
    let n := Ty.width e.ety / 8
    let addr := fun p : Nat => elemAt (lane en.b 0).toNat (lane en.c 0).toInt 32 n p
    (en.enables = 0 →
      ((∀ p, p < 1024 → EngAt s x th e.spc .write (addr p) n (at_ p)) →
        let out := fun p : Nat => convert (afmtTy e.afmt) e.ety .rne false 0 (accBits x tile (afmtTy e.afmt) e.acc.toNat (p / 32) (p % 32))
        exec (.accrd f e) s = .next (flagged g ((List.range 1024).foldl (fun fl p => fl ||| (out p).2) 0)
          (engFinished s g th q ((List.range 1024).foldl (fun m p => cellsWrite m (at_ p) (bytesOf n (out p).1)) s.mem))))
      ∧ ((∀ p, p < 1024 → EngAt s x th e.spc .read (addr p) n (at_ p)) →
        let in_ := fun p : Nat => convert e.ety (afmtTy e.afmt) .rne false 0 (natOfBytes (memBytes s.mem (at_ p) n))
        exec (.accwr f e) s = .next (flagged g ((List.range 1024).foldl (fun fl p => fl ||| (in_ p).2) 0)
          ((List.range 1024).foldl (fun t p => setAccEntry t g tile (afmtTy e.afmt) e.acc.toNat p (in_ p).1) (engFinished s g th q s.mem)))))
    ∧ (∀ (region : Bool) (acc : BitVec 3) (afmt : AFmt) (y : Nat × Graph × Mc), region = false ∨ (mcGraph x tile = some y ∧ y.2.1.inst = en.inst) →
        ∃ t x', exec (.accclr f region acc afmt) s = .next t ∧ OnlyGroup s t g ∧ grp? t g = some x'
          ∧ (∀ i j, i < 32 → j < 32 → accBits x' tile (afmtTy afmt) acc.toNat i j = 0)
          ∧ (region = true → mcGraph x tile = some y → ∀ w h py px c, cellPos y.2.2.frames = some (w, h, py, px) → c ∈ cellsOf y.2.1 w h →
              ∀ i j, i < 32 → j < 32 → accBits x' c.1 (afmtTy afmt) acc.toNat i j = 0))
    ∧ (∀ (cfg : BitVec 2) (last : Bool) (gi : Nat) (gr : Graph) (m : Mc), regionAt x tile = some (gi, gr, m) → gr.inst = en.inst → graph? s g gi = some gr →
        (regionState gr tile).injected.any (·.2) = false → sweepsAhead gr m tile < 4 →
        ∃ t gr', exec (.mgo f cfg last) s = .next t ∧ t.mem = s.mem ∧ graph? t g gi = some gr'
          ∧ (regionState gr' tile).injected = (regionState gr tile).injected ++ [(cfg.toNat, last)])

/-- R397: RLD and RST copy LEN bytes in words of 8 between the remote and the local address, RATOM performs the atomic of R189 and writes the old value, RFENCE writes its flag, RMST
writes the bitmap of its failed members when each has answered every packet and sends to a member elsewhere, and RINV leaves its argument at the MTINV and writes the result when it has come.
The model's own choices here: notes/assumptions 25, 29, 43, 154. -/
def Obligations.RemoteInstructionsComplete : Prop :=
  ∀ (f : EFields) (lsp : MvSpace) (s : State) (g th : Nat) (q : Qu) (x : Group) (en : EngEntry) (far near : Nat → Nat),
    Sound s → Unwatched s → EngGo s g th q x en →
    let a := (lane en.a 0).toNat
    let b := (lane en.b 0).toNat
    let words := (lane en.c 0).toNat / 8
    (Unbegun en → (∀ i, i < words → EngAt s x th .gm .read (a + 8 * i) 8 (far i)) → (∀ i, i < words → EngAt s x th lsp .write (addrPlus b (8 * i)) 8 (near i)) →
      exec (.rld f lsp) s = .next (engFinished s g th q (copyAll far near 8 words s.mem)))
    ∧ (Unbegun en → (∀ i, i < words → EngAt s x th .gm .write (a + 8 * i) 8 (far i)) → (∀ i, i < words → EngAt s x th lsp .read (addrPlus b (8 * i)) 8 (near i)) →
      exec (.rst f lsp) s = .next (engFinished s g th q (copyAll near far 8 words s.mem)))
    ∧ (∀ op, Unbegun en → atomicTy op f.ty → EngAt s x th .gm .atomic a (Ty.width f.ty / 8) (far 0) → EngAt s x th lsp .write b 8 (near 0) →
      let w := Ty.width f.ty
      let old := natOfBytes (memBytes s.mem (far 0) (w / 8))
      exec (.ratom f op lsp) s = .next (engFinished s g th q (cellsWrite (cellsWrite s.mem (far 0)
        (bytesOf (w / 8) (atomicResult op f.ty old ((lane en.c 0).toNat % 2 ^ w) ((lane en.c 1).toNat % 2 ^ w)))) (near 0) (bytesOf 8 old))))
    ∧ (Unbegun en → EngAt s x th .gm .write a 8 (far 0) →
      exec (.rfence f) s = .next (engFinished s g th q (cellsWrite s.mem (far 0) (bytesOf 8 (lane en.c 0).toNat))))
    ∧ (∀ results : Nat → Nat → Byte,
      let n := (lane en.c 2).toNat
      let room := 992 - 8 * n
      let k := ((lane en.c 0).toNat + room - 1) / room
      q = .cl → en.mark = n * k → (∀ i, i < n → ∀ j, j < k → lastByte en.buf (memberKey (i + 128 * j)) = some (results i j)) →
      EngAt s x th lsp .write (lane en.c 3).toNat 8 (near 0) →
      ∃ v, exec (.rmst f lsp) s = .next (engFinished s g th q (cellsWrite s.mem (near 0) (bytesOf 8 v)))
        ∧ (n ≤ 64 → ∀ i, i < 64 → v.testBit i = (decide (i < n) && (List.range k).any fun j => decide (results i j ≠ 0))))
    ∧ (∀ (w : Nat) (s' : State), q = .cl → Unbegun en → (lane en.c 2).toNat = 1 → 0 < (lane en.c 0).toNat → (lane en.c 0).toNat ≤ 984 → EngAt s x th .gm .read (addrPlus (lane en.c 1).toNat 0) 8 (far 0) →
      w = natOfBytes (memBytes s.mem (far 0) 8) → w / 2 ^ 32 = 0 → w / 2 ^ 12 % 2 ^ 4 = 0 → w % 2 ^ 12 ≠ s.pkgid.toNat → gangHeld s g = false →
      (∀ i, i < words → EngAt s x th lsp .read (addrPlus b (8 * i)) 8 (near i)) → (∀ n, (link s n).peersw = false) →
      sendRequest s x.ctx (w % 2 ^ 12) 2 (w / 2 ^ 16 % 2 ^ 16) a 0 ((List.range words).flatMap fun i => memBytes s.mem (near i) 8) (.multicast g th 0)
        (partyFlow (engParty g th .cl)) = .gone s' →
      ∃ t e', exec (.rmst f lsp) s = .next t ∧ engNow t g th .cl = some e' ∧ e'.asked = [memberKey 0] ∧ e'.mark = 1 ∧ t.mem = s.mem ∧ t.outbox = s'.outbox ∧ t.reqs = s'.reqs)
    ∧ (∀ (e : Extent) (g' gi : Nat), Unbegun en → invalBlocks s x.ctx a = false →
      findExtent (Tab.get s.extents (moveHolder (clusterOfThread x th) (th % 4)) []) x.ctx a = some e → entryKind e.leaf = 2 →
      invTarget s x.ctx (fieldOf e.leaf 16 18) = some (g', gi) →
      ∀ m mt, mt? s g' gi (fieldOf e.leaf 16 18) = some mt → mt.fn = some m →
      ∃ t mt' m', exec (.rinv f lsp) s = .next t ∧ mt? t g' gi (fieldOf e.leaf 16 18) = some mt' ∧ mt'.fn = some m'
        ∧ m'.waiting = m.waiting ++ [({ tag := 0, site := .engine g th q, pos := 0, packet := none, spawned := false }, lane en.c 0)])
    ∧ (∀ l, en.mark = 1 → bufBytes en rinvKey 16 = some l → EngAt s x th lsp .write b 8 (near 0) → EngAt s x th lsp .write (addrPlus b 8) 8 (near 1) →
      exec (.rinv f lsp) s = .next (engFinished s g th q (cellsWrite (cellsWrite s.mem (near 0) (l.take 8)) (near 1) (l.drop 8))))

/-- R401, R402: a collective whose ranks agree, whose data have come and whose plan is known writes every destination element and then its report, and its meeting ends.
The model's own choices here: notes/assumptions 43. -/
def Obligations.CollectivesComplete : Prop :=
  ∀ (kd : CollKind) (f : EFields) (s : State) (g th : Nat) (x : Group) (en : EngEntry) (m : Meeting) (h : List Nat) (n count root plan reportAt : Nat) (dest_ : Nat → Nat),
    Sound s → Unwatched s → EngGo s g th .cl x en → ownMeeting s g th = some m → Tab.get? m.heads m.rank = some h →
    n = h.headD 0 / 2 ^ 32 → 1 ≤ n → n ≤ 64 → count = (lane en.c 1).toNat → 1 ≤ count → count ≤ 2 ^ 24 → root = (match kd with | .bcast => (lane en.c 3).toNat | _ => 0) →
    m.failed = 0 → (∀ p ∈ m.heads, p.2 = h) → (∀ y ∈ m.asids, y = (ctx s x.ctx).asid.toNat) → m.plan = some plan → plan < 2 ^ 10 → m.num < 2 ^ 32 →
    let own := Tab.get m.src m.rank []
    let src := fun k : Nat => if k = m.rank then collSlice kd count root m.rank m.rank own else Tab.get m.src k []
    let w := Ty.width f.ty / 8
    let results := match kd with | .gath | .a2a => n * count | _ => count
    en.mark = 1 + stepsBefore kd count root m.rank own n + n + 2 → 1 + stepsBefore kd count root m.rank own n + n + 2 + results < 2 ^ 39 →
    (∀ i, i < results → EngAt s x th .gm .write (addrPlus (lane en.b 0).toNat (w * i)) w (dest_ i)) →
    EngAt s x th .gm .write (lane en.c 2).toNat 8 reportAt →
      exec (collInstr kd f) s = .next { engFinished s g th .cl (cellsWrite ((List.range results).foldl
          (fun mem i => cellsWrite mem (dest_ i) (bytesOf w (collValue kd f.ty n count root src i))) s.mem) reportAt
          (bytesOf 8 (m.num * 2 ^ 32 + plan % 2 ^ 8 * 2 ^ 8 + plan / 2 ^ 8 * 2 + 1)))
        with meetings := s.meetings.filter fun y => decide (y.own ≠ some (g, th)) }

/-! ## Blocks, handlers, queues of engines -/

/-- R169, R170, R92, R357: BLOCK_MAP puts the block that PC names in the lowest free block frame of its cluster; a block that breaks R92 carries ILLOP (code 0x01) with the lowest cause. A PC
that names no block of a resident kernel is BLOCK_FETCH (code 0x04): the handler of the block that led there, or, with no such block, the end of the group.
The model's own choices here: notes/assumptions 118. -/
def Obligations.BlocksAreMapped : Prop :=
  ∀ (s : State) (g th : Nat) (exit : BitVec 3) (x : Group) (t : Thread), ThreadAt s g th x t → t.run = .running → t.blocks = [] →
    (∀ key frame, findBlock s x.ctx t.pc = some key → freeFrame x (th / 4) = some frame → poisoned s key (readBlock s key).size = false →
      ∃ s' t' y, exec (.blockMap g th exit) s = .next s' ∧ thread? s' g th = some t' ∧ t'.blocks = [y] ∧ y.addr = t.pc ∧ (y.quad, y.half) = frame ∧ s'.mem = s.mem
        ∧ y.entries = [] ∧ y.fired = []
        ∧ (lowestCause (blockCauses (readBlock s key).header (readBlock s key).words (readBlock s key).pad) = none →
            y.words = (readBlock s key).words ∧ y.rdmask = hdrRdmask (readBlock s key).header ∧ y.wrmask = hdrWrmask (readBlock s key).header
              ∧ y.stmask = hdrStmask (readBlock s key).header)
        ∧ (∀ c, lowestCause (blockCauses (readBlock s key).header (readBlock s key).words (readBlock s key).pad) = some c →
            y.fault = some { slot := none, code := 1, cause := c, wr := false, addr := t.pc }))
    ∧ (findBlock s x.ctx t.pc = none → t.from_ = 0 → ∃ s', exec (.blockMap g th exit) s = .next s' ∧ GroupEnds s' g 4 0x0400)
    ∧ (findBlock s x.ctx t.pc = none → t.from_ ≠ 0 → t.trapMode = false → t.trapvec ≠ 0 →
        ∃ s' t', exec (.blockMap g th exit) s = .next s' ∧ thread? s' g th = some t' ∧ HandlerEntered t t' (faultCode none 4 0 false false) t.from_ t.from_ s.dtime)

/-- R175, R177, R178, R180, R195: the commit of a complete oldest block without a trap: its WRITEs take effect, its stores issue in wave order, its flags go to FPCTL, its engine instructions
enter their queues in slot order, and PC takes its branch; CALL and RET move the window by 16 words, and HALT ends the thread once its queues are empty. A release store to a scratchpad is written
at once where the thread's earlier stores have performed at its scope, and otherwise waits in the write queue (R125). An access that reached no storage sets MSTAT.SPOOB now (R104).
The model's own choices here: notes/assumptions 7, 110. -/
def Obligations.BlocksCommit : Prop :=
  ∀ (s : State) (g th : Nat) (x : Group) (t : Thread) (k : Block),
    Sound s → Unwatched s → Settled s → CommitGo s g th x t k → t.run = .running → t.trapMode = false → k.actions = [] → k.setsrs = [] → k.tret = none → relFences k = [] →
    (∀ b a, k.branch = some (b, a) → b ≠ .halt → BlockThere s x a) → (∀ e ∈ (cluster s (clusterOfThread x th)).writeq, e.pad = false) →
    (∀ a, k.branch = some (.call, a) → t.callers.length < 7) → (∀ a, k.branch = some (.ret, a) → t.callers ≠ []) →
    ∃ s' t' x', exec (.blockCommit g th) s = .next s' ∧ thread? s' g th = some t' ∧ grp? s' g = some x' ∧ t'.blocks = [] ∧ t'.from_ = k.addr
      ∧ x'.fpctl = x.fpctl ||| k.flags.setWidth 32 ∧ x'.mstat = (if k.spoobs = [] then x.mstat else x.mstat ||| 1)
      ∧ ((∀ p ∈ k.stores, p.pages = [] → p.rel = false) →
          s'.mem = (storesInOrder k).foldl (fun m p => if p.pages = [] then cellsPut m p.bytes else m) s.mem
          ∧ (cluster s' (clusterOfThread x th)).writeq = (cluster s (clusterOfThread x th)).writeq ++ ((storesInOrder k).filter fun p => !p.pages.isEmpty).map (queuedStore g th))
      ∧ (∀ p, k.stores = [p] → p.pages = [] → p.rel = true →
          (storesPerformed s (g, th) p.scope = true → s'.mem = cellsPut s.mem p.bytes
            ∧ (cluster s' (clusterOfThread x th)).writeq = (cluster s (clusterOfThread x th)).writeq)
          ∧ (storesPerformed s (g, th) p.scope = false → s'.mem = s.mem
            ∧ (cluster s' (clusterOfThread x th)).writeq = (cluster s (clusterOfThread x th)).writeq ++ [queuedStore g th p]))
      ∧ (∀ q : Qu, engQueue t' q = engQueue t q ++ (sortBy (fun e => e.slot) k.engines).filter fun e => queueOfWord e.word == q)
      ∧ (∀ a, k.branch = some (.br, a) → t'.pc = a ∧ t'.window = windowAfter t.window k ∧ t'.callers = t.callers)
      ∧ (∀ a, k.branch = some (.call, a) → t'.pc = a ∧ t'.callers = (windowAfter t.window k).take 16 :: t.callers.take 6
          ∧ t'.window = (windowAfter t.window k).drop 16 ++ (List.replicate 15 0 ++ [lane0 (BitVec.ofNat 64 (k.addr + 32 * (1 + (k.icnt + 1 + 3) / 4)))]))
      ∧ (∀ a h r, k.branch = some (.ret, a) → t.callers = h :: r → t'.pc = a ∧ t'.callers = r ∧ t'.window = h ++ (windowAfter t.window k).take 16)
      ∧ (∀ a, k.branch = some (.halt, a) → t'.pc = t.pc ∧ ((∀ q : Qu, engQueue t' q = []) → t'.run = .halted))

/-- R169, R174, R176, R181, R359: an oldest block that is not complete and in which nothing can fire takes BLOCK_INCOMPLETE (code 0x03); a CALL with seven caller windows in a full spill area
takes WINDOW_OVERFLOW (0x05), a RET with none WINDOW_UNDERFLOW (0x06), and a branch to an address where no block stands BLOCK_FETCH (0x04), and none of these commits.
The model's own choices here: notes/assumptions 108, 109, 111. -/
def Obligations.CommitFaults : Prop :=
  ∀ (s : State) (g th : Nat) (x : Group) (t : Thread) (k : Block),
    (ThreadAt s g th x t → t.blocks.head? = some k → k.fault = none → k.waits = [] → ¬ Produced k → (∀ i < k.words.length, slotCanFire k i = false) →
      ∃ s' y, exec (.blockIncomplete g th) s = .next s' ∧ BlockIs s s' g th 0 y ∧ s'.mem = s.mem
        ∧ y = { k with fault := some { slot := none, code := 3, cause := 0, wr := false, addr := k.addr } })
    ∧ (CommitGo s g th x t k → ∀ a, k.branch = some (.call, a) → t.callers.length = 7 → t.wintop = t.winsize →
      ∃ s' y f, exec (.blockCommit g th) s = .next s' ∧ BlockIs s s' g th 0 y ∧ y.fault = some f ∧ f.code = 5 ∧ s'.mem = s.mem)
    ∧ (CommitGo s g th x t k → ∀ a, k.branch = some (.ret, a) → t.callers = [] → t.wintop = 0 →
      ∃ s' y f, exec (.blockCommit g th) s = .next s' ∧ BlockIs s s' g th 0 y ∧ y.fault = some f ∧ f.code = 6 ∧ s'.mem = s.mem)
    ∧ (CommitGo s g th x t k → k.actions = [] → k.tret = none → ∀ a, k.branch = some (.br, a) → ¬ BlockThere s x a →
      ∃ s' y f, exec (.blockCommit g th) s = .next s' ∧ BlockIs s s' g th 0 y ∧ y.fault = some f ∧ f.code = 4 ∧ f.cause = 0 ∧ f.addr = k.addr ∧ s'.mem = s.mem)

/-- R176, R360, R361, R364, R365: the fault of the oldest block enters the handler, with RETRY the block's address; in trap mode, or without a handler, it ends the group with FAULT. A committed
TRAP enters the handler with code 0x12 and RETRY its block's target, and TRET returns. -/
def Obligations.HandlersAreEntered : Prop :=
  ∀ (s : State) (g th : Nat) (x : Group) (t : Thread) (k : Block) (f : FaultInfo),
    (ThreadAt s g th x t → t.blocks.head? = some k → k.fault = some f → (∀ i < f.slot.getD 0, slotCanFire k i = false) → (∀ w ∈ k.waits, f.slot.getD 0 ≤ w.1) →
      (t.trapMode = false → t.trapvec ≠ 0 →
        ∃ s' t', exec (.faultReport g th) s = .next s' ∧ thread? s' g th = some t' ∧ s'.mem = s.mem
          ∧ HandlerEntered t t' (faultCode f.slot f.code f.cause f.wr k.perf) f.addr k.addr s.dtime)
      ∧ (t.trapMode = false → t.trapvec = 0 → ∃ s', exec (.faultReport g th) s = .next s' ∧ GroupEnds s' g 4 (f.code % 256 * 256 + f.cause % 256))
      ∧ (t.trapMode = true → ∃ s', exec (.faultReport g th) s = .next s' ∧ GroupEnds s' g 4 (0x33 * 256 + f.code % 256)))
    ∧ (Unwatched s → Settled s → CommitGo s g th x t k → t.run = .running → t.trapMode = false → t.trapvec ≠ 0 → k.setsrs = [] → k.tret = none →
      ∀ slot c a, k.actions = [(slot, .trap c)] → k.branch = some (.br, a) →
        ∃ s' t' t0, exec (.blockCommit g th) s = .next s' ∧ thread? s' g th = some t' ∧ t0.trapvec = t.trapvec ∧ t0.callers = t.callers ∧ t0.wintop = t.wintop
          ∧ t0.trapWindow = t.trapWindow ∧ t0.window = windowAfter t.window k
          ∧ HandlerEntered t0 t' (faultCode (some slot) 0x12 c false k.perf) k.addr a s.dtime)
    ∧ (Unwatched s → Settled s → CommitGo s g th x t k → t.run = .running → t.trapMode = true → k.calls = false → k.rets = false → k.setsrs = [] → k.actions = [] →
      ∀ r a, k.tret = some r → k.branch = some (.br, a) → BlockThere s x (r % 2 ^ 57 / 32 * 32) →
        ∃ s' t', exec (.blockCommit g th) s = .next s' ∧ thread? s' g th = some t' ∧ t'.trapMode = false ∧ t'.pc = r % 2 ^ 57 / 32 * 32 ∧ t'.window = t.window)

/-- R129, R195, R196, R197: ENGINE_ISSUE issues the oldest instruction of a queue that has not issued, once those before it have done their work, and takes a token for its pop; an
empty FIFO holds it. ENGINE_RETIRE removes an instruction that has performed and gives a token for its push; a FIFO of 16 holds it.
The model's own choices here: notes/assumptions 20. -/
def Obligations.EngineQueuesMove : Prop :=
  ∀ (s : State) (g th : Nat) (q : Qu) (x : Group) (t : Thread) (before after : List EngEntry) (e : EngEntry),
    (ThreadAt s g th x t → engQueue t q = before ++ e :: after → (∀ d ∈ before, d.issued = true ∧ d.done = true ∧ (q = .mx → mxHolds x d e = false)) → e.issued = false →
      Tab.get? t.stops (Qu.code q) = none →
      (q = .ct ∨ popOfWord e.word = none →
        ∃ s' t', exec (.engineIssue g th q) s = .next s' ∧ OnlyGroup s s' g ∧ thread? s' g th = some t' ∧ t'.fifos = t.fifos
          ∧ engQueue t' q = before ++ { e with issued := true, popped := true } :: after)
      ∧ (∀ p, q ≠ .ct → popOfWord e.word = some p → 0 < fifoCount t p q →
        ∃ s' t', exec (.engineIssue g th q) s = .next s' ∧ OnlyGroup s s' g ∧ thread? s' g th = some t' ∧ fifoCount t' p q = fifoCount t p q - 1
          ∧ engQueue t' q = before ++ { e with issued := true, popped := true } :: after)
      ∧ (∀ p, q ≠ .ct → popOfWord e.word = some p → fifoCount t p q = 0 → exec (.engineIssue g th q) s = .next s))
    ∧ (grp? s g = some x → thread? s g th = some t → engLive s g th = true → engQueue t q = e :: after → e.done = true → engPerformed s g th q x e = true →
      (pushOfWord e.word = none →
        ∃ s' t', exec (.engineRetire g th q) s = .next s' ∧ OnlyGroup s s' g ∧ thread? s' g th = some t' ∧ t'.fifos = t.fifos ∧ engQueue t' q = after)
      ∧ (∀ p, pushOfWord e.word = some p → fifoCount t q p < 16 →
        ∃ s' t', exec (.engineRetire g th q) s = .next s' ∧ OnlyGroup s s' g ∧ thread? s' g th = some t' ∧ fifoCount t' q p = fifoCount t q p + 1 ∧ engQueue t' q = after)
      ∧ (∀ p, pushOfWord e.word = some p → 16 ≤ fifoCount t q p → exec (.engineRetire g th q) s = .next s))

/-- R198, R237, R372: a thread in which nothing has moved for STALLCYC cycles while an instruction waits on a pop takes ENGINE_STALL (code 0x11) with RETRY its PC, or, once it has committed
HALT, ends its group; a resident graph in which nothing has moved ends its group with GRAPH_STALL (code 0x30). -/
def Obligations.StallsAreReported : Prop :=
  ∀ (s : State) (g th : Nat) (x : Group) (t : Thread),
    (ThreadAt s g th x t → t.blocks = [] → popWaits t = true → t.lastProgress + x.stallcyc ≤ s.cycle →
      (t.run = .running → t.trapMode = false → t.trapvec ≠ 0 →
        ∃ s' t', exec (.engineStall g th) s = .next s' ∧ thread? s' g th = some t' ∧ HandlerEntered t t' (faultCode none 0x11 0 false false) t.pc t.pc s.dtime)
      ∧ (∀ a, t.run = .halting a → ∃ s', exec (.engineStall g th) s = .next s' ∧ GroupEnds s' g 4 0x1100))
    ∧ (∀ gi gr, grp? s g = some x → graph? s g gi = some gr → graphStalled s g gi x gr = true → elemLive s g gi (((gr.tiles.head?).map (·.1)).getD 0) = true →
      ∃ s', exec (.graphStall g gi) s = .next s' ∧ GroupEnds s' g 4 0x3000)

/-! ## Stream units -/

/-- R210, R211: a scanner sends each coordinate of its open fibre with its position, and its value with VALOUT; a fibre that is through leaves STOP LEVEL pending; a reference opens its fibre
after the pending STOP has gone, a range error leaves ERRSTOP with cause 2 pending and adds 1 to RANGEERR; STOP j goes out as STOP LEVEL + 1 + j in place of the pending one; DONE
goes out after it.
The model's own choices here: notes/assumptions 16. -/
def Obligations.ScannersComplete : Prop :=
  ∀ (f : SuFrame) (s : State) (g gi tile : Nat) (x : Group) (gr : Graph) (u : SuState), Sound s →
    (SuGo s g gi tile x gr u suOuts [0] → ∀ p c e src, u.openFib = some (p, c, e) → u.dupA = some src →
      (c < e → exec (.scanc f) s = .next (scanSends s g gi tile x f src p (arr s x tile f f.crdbase.toNat c 4) c (c + 1) e))
      ∧ (c < e → exec (.scand f) s = .next (scanSends s g gi tile x f src p c ((p * f.len.toNat + c) % 2 ^ 32) (c + 1) e))
      ∧ (c < e → exec (.scanl f) s = .next (scanSends s g gi tile x f src p (arr s x tile f f.crdbase.toNat p 4) p (c + 1) e))
      ∧ (∀ i, c ≤ i → i < e → bitSet s x tile f p i = true → (∀ j, c ≤ j → j < i → bitSet s x tile f p j = false) →
          exec (.scanb f) s = .next (scanSends s g gi tile x f src p i (arr s x tile f f.segbase.toNat p 4 + setBelow s x tile f p i) (i + 1) e))
      ∧ (∀ k, (k = .b → ∀ j, c ≤ j → j < e → bitSet s x tile f p j = false) → (k ≠ .b → e ≤ c) →
          exec (scanInstr k f) s = .next (modSu (wake s g) g gi tile fun u => { u with openFib := none, pending := some (stopOf none f.level.toNat) })))
    ∧ (SuGo s g gi tile x gr u suOuts [0] → ∀ t k, u.openFib = none → has u.inDone 0 = false → f.param.getLsbD 0 = false → suIn gr tile 0 = some t →
        let s0 := eat s g gi tile 0 t true
        let s1 := match u.pending with
          | some p => (fun s => if isStop p then modSu s g gi tile fun u => { u with eCount := u.eCount + 1 } else s) (put s0 g gi tile (scanLines f) t p)
          | none => s0
        let opened := fun o : Nat × Nat × Nat => exec (scanInstr k f) s = .next (modSu s1 g gi tile fun u => { u with openFib := some o, pending := none, dupA := some t })
        let ranged := exec (scanInstr k f) s = .next (addRangeErr (modSu s1 g gi tile fun u => { u with pending := some (stopOf (some 2) f.level.toNat), dupA := some t }) g 1)
        (kindOf t = 3 →
          let p := t.payload.toNat
          let nfib := fieldOf f.param 12 20
          (k = .c → p < nfib → arr s1 x tile f f.segbase.toNat p 4 ≤ arr s1 x tile f f.segbase.toNat (p + 1) 4 → arr s1 x tile f f.segbase.toNat (p + 1) 4 ≤ f.len.toNat →
            opened (p, arr s1 x tile f f.segbase.toNat p 4, arr s1 x tile f f.segbase.toNat (p + 1) 4))
          ∧ (k = .b ∨ k = .d → p < nfib → opened (p, 0, f.len.toNat))
          ∧ (k = .l → p < f.len.toNat → opened (p, 0, 1))
          ∧ (k ≠ .l → nfib ≤ p → ranged) ∧ (k = .l → f.len.toNat ≤ p → ranged))
        ∧ (kindOf t = 4 → f.level.toNat + 1 + levelOf t ≤ 7 → u.pending.bind errOf = none →
            exec (scanInstr k f) s = .next (modSu (modSu (put s0 g gi tile (scanLines f) t (stopOf none (f.level.toNat + 1 + levelOf t))) g gi tile
              fun u => { u with eCount := u.eCount + 1 }) g gi tile fun u => { u with pending := none }))
        ∧ (kindOf t = 5 → exec (scanInstr k f) s = .next (modSu (put s1 g gi tile (withRouted gr tile [0, 1, 2]) t (tok kindDONE 0 0)) g gi tile
              fun v => { v with pending := none, inDone := [0], ended := !f.bcin || v.backDone }))
        ∧ (kindOf t = 0 ∨ kindOf t = 1 ∨ kindOf t = 2 → exec (scanInstr k f) s = .next (elemFreeze s g gi tile TOKEN_ALIGN)))
    ∧ (SuLive s g gi tile x gr u [] [] → ∀ y t, (∃ z, su? s g gi tile = some z ∧ z.frame = y) → (suFrameOf y).bcin = true → portHead gr tile 3 = some t → u.backDone = false →
        (kindOf t = 4 → levelOf t = 0 → exec (.skip g gi tile) s = .next (modSu (eat s g gi tile 3 t false) g gi tile fun u => { u with aCount := u.aCount + 1 }))
        ∧ (kindOf t = 5 → exec (.skip g gi tile) s = .next (modSu (eat s g gi tile 3 t false) g gi tile fun u => { u with backDone := true, ended := has u.inDone 0 }))
        ∧ (kindOf t = 9 → levelOf t = (suFrameOf y).level.toNat → u.aCount ≠ u.eCount ∨ u.openFib = none → exec (.skip g gi tile) s = .next (eat s g gi tile 3 t false))
        ∧ (∀ p c e, kindOf t = 9 → levelOf t = (suFrameOf y).level.toNat → u.aCount = u.eCount → u.openFib = some (p, c, e) → fieldOf y 0 10 = 0x202 →
            exec (.skip g gi tile) s = .next (modSu (eat s g gi tile 3 t false) g gi tile fun u =>
              { u with openFib := some (p, if c < fieldOf t.payload 0 32 then Nat.min (fieldOf t.payload 0 32) e else c, e) })))

/-- R42, R213, R215, R216: a strict joiner compares the coordinates of its heads: ISECT discards the smaller and pairs equals, UNION sends the smaller with EMPTY opposite, MERGE sends the
smaller, and both of equals; equal STOPs pass once, DONE with DONE ends it, and a coordinate that does not rise is STREAM_ORDER.
The model's own choices here: notes/assumptions 38. -/
def Obligations.JoinersComplete : Prop :=
  ∀ (f : SuFrame) (s : State) (g gi tile : Nat) (x : Group) (gr : Graph) (u : SuState) (a b : Token),
    SuGo s g gi tile x gr u suOuts [0, 1] → f.strict = true → f.bcout = false → u.inDone = [] → u.errClose = false → suIn gr tile 0 = some a → suIn gr tile 1 = some b →
    let ca := coordOf a
    let cb := coordOf b
    (hasCoord a = true → hasCoord b = true → (∀ l, u.lastA = some l → l < ca) → (∀ l, u.lastB = some l → l < cb) →
      (ca < cb → exec (.isect f) s = .next (takeHead s g gi tile 0 a false)
        ∧ exec (.union f) s = .next (put (put (put (takeHead s g gi tile 0 a true) g gi tile [0] a a) g gi tile [1] a (tok kindEMPTY 0 0)) g gi tile [2] a (tok kindCRD 0 ca))
        ∧ exec (.merge f) s = .next (put (takeHead s g gi tile 0 a true) g gi tile [0] a a))
      ∧ (cb < ca → exec (.isect f) s = .next (takeHead s g gi tile 1 b false)
        ∧ exec (.union f) s = .next (put (put (put (takeHead s g gi tile 1 b true) g gi tile [1] b b) g gi tile [0] b (tok kindEMPTY 0 0)) g gi tile [2] b (tok kindCRD 0 cb))
        ∧ exec (.merge f) s = .next (put (takeHead s g gi tile 1 b true) g gi tile [0] b b))
      ∧ (ca = cb →
        let taken := takeHead (takeHead s g gi tile 0 a true) g gi tile 1 b true
        let paired := put (put (put taken g gi tile [0] a a) g gi tile [1] b b) g gi tile [2] a (tok kindCRD 0 ca)
        exec (.isect f) s = .next paired ∧ exec (.union f) s = .next paired
        ∧ (f.param.getLsbD 1 = false → exec (.merge f) s = .next (put (put taken g gi tile [0] a a) g gi tile [0] b b))
        ∧ (f.param.getLsbD 1 = true → f.duppol = 0 → exec (.merge f) s = .next (put taken g gi tile [0] a a))
        ∧ (f.param.getLsbD 1 = true → f.duppol = 1 → exec (.merge f) s = .next (put taken g gi tile [0] a b))))
    ∧ (∀ k, isStop a = true → isStop b = true → levelOf a = levelOf b →
        exec (joinInstr k f) s = .next (modSu (toAll (closeBoth s g gi tile a b) g gi tile [0, 1, 2] a (stopOf ((errOf a).or (errOf b)) (levelOf a))) g gi tile
          fun u => { u with errClose := false }))
    ∧ (∀ k, kindOf a = 5 → kindOf b = 5 →
        ∃ t y, exec (joinInstr k f) s = .next t ∧ su? t g gi tile = some y ∧ y.st.ended = true)
    ∧ (∀ k, hasCoord a = true → (hasCoord b = true ∨ kindOf b = 4) → (∃ l, u.lastA = some l ∧ ca ≤ l) → exec (joinInstr k f) s = .next (elemFreeze s g gi tile STREAM_ORDER))

/-- R217, R218, R219, R220, R221, R224, R225: REPEAT copies its head once for each element, REDUCE folds a fibre and sends its result at STOP 0, FILTER sends what its predicate accepts, SPLIT sends a
value to output (key >> SHIFT) mod NOUT and a control token to every one. In SEED the gate passes and counts values of I0, and in LOOP those of I1; DONE in SEED and STOP LEVEL in LOOP end an
epoch: STOP LEVEL on O0 and VAL CNT on O1, or, with CNT 0, DONE on O0 and DRAIN; in DRAIN DONE ends it.
The model's own choices here: notes/assumptions 15, 40. -/
def Obligations.StreamFunctionsAndGateComplete : Prop :=
  (∀ (f : SuFrame) (s : State) (g gi tile : Nat) (x : Group) (gr : Graph) (u : SuState) (h t : Token),
    (SuGo s g gi tile x gr u suOuts [0, 1] → suIn gr tile 0 = some h → suIn gr tile 1 = some t →
      (isData h = true → isData t = true → exec (.repeatOp f) s = .next (put (eat s g gi tile 1 t false) g gi tile [0] h h))
      ∧ (isData h = true → kindOf t = 4 → levelOf t = 0 → exec (.repeatOp f) s = .next (put (eat (eat s g gi tile 0 h true) g gi tile 1 t true) g gi tile [0] h (tok kindSTOP 0 0)))
      ∧ (∀ n, isData h = true → kindOf t = 4 → 0 < levelOf t → (portTokens gr tile 0)[1]? = some n → badToken n = false → kindOf n = 4 → levelOf n + 1 = levelOf t →
          exec (.repeatOp f) s = .next (put (eat (eat (eat s g gi tile 0 h true) g gi tile 0 n true) g gi tile 1 t true) g gi tile [0] h (tok kindSTOP (levelOf t) 0)))
      ∧ (kindOf h = 5 → kindOf t = 5 → ∃ s' y, exec (.repeatOp f) s = .next s' ∧ su? s' g gi tile = some y ∧ y.st.ended = true)
      ∧ (routedIn gr tile 1 = true → isValue h = true → isValue t = true → t.payload ≠ 0 →
          exec (.filter f) s = .next (put (eat (eat s g gi tile 0 h true) g gi tile 1 t (sampledOf h)) g gi tile [0] h h))
      ∧ (routedIn gr tile 1 = true → isValue h = true → (isValue t = true ∧ t.payload = 0) ∨ isEmpty t = true →
          exec (.filter f) s = .next (eat (eat s g gi tile 0 h false) g gi tile 1 t false)))
    ∧ (SuGo s g gi tile x gr u suOuts [0] → suIn gr tile 0 = some t →
      (kindOf t = 0 → f.redop.toNat < 10 →
        (u.fold = none → exec (.reduce f) s = .next (modSu (eat s g gi tile 0 t true) g gi tile fun u => { u with fold := some t, cnt := u.cnt + 1 }))
        ∧ (∀ a, u.fold = some a → kindOf a = 0 →
          exec (.reduce f) s = .next (modSu (eat s g gi tile 0 t false) g gi tile fun u =>
            { u with fold := some { a with payload := BitVec.ofNat 64 (redopFn f.redop.toNat 64 a.payload.toNat t.payload.toNat) }, cnt := u.cnt + 1 })))
      ∧ (isEmpty t = true → exec (.reduce f) s = .next (eat s g gi tile 0 t false))
      ∧ (kindOf t = 4 → levelOf t = 0 → u.err = none →
        (∀ a, u.fold = some a → f.redop ≠ 10 → ∃ s', exec (.reduce f) s = .next s' ∧ s' = modSu (put (eat s g gi tile 0 t true) g gi tile [0] a (tok (kindOf a) 0 a.payload.toNat)) g gi tile
            fun u => { u with fold := none, cnt := 0 })
        ∧ (u.fold = none → exec (.reduce f) s = .next (modSu (put (eat s g gi tile 0 t true) g gi tile [0] t (tok kindEMPTY 0 0)) g gi tile fun u => { u with fold := none, cnt := 0 })))
      ∧ (kindOf t = 5 → u.fold = none → ∃ s' y, exec (.reduce f) s = .next s' ∧ su? s' g gi tile = some y ∧ y.st.ended = true))
    ∧ (SuGo s g gi tile x gr u suOuts [0] → suIn gr tile 0 = some t →
      (isValue t = true → exec (.split f) s = .next (put (eat s g gi tile 0 t true) g gi tile
          [((if hasCoord t then coordOf t else fieldOf t.payload 0 32) >>> fieldOf f.param 0 5) % (fieldOf f.param 5 2 + 1)] t t))
      ∧ (isEmpty t = true → exec (.split f) s = .next (eat s g gi tile 0 t false))
      ∧ (kindOf t = 4 → exec (.split f) s = .next (put (eat s g gi tile 0 t true) g gi tile (List.range (fieldOf f.param 5 2 + 1)) t t))))
  ∧ (∀ (f : SuFrame) (s : State) (g gi tile : Nat) (x : Group) (gr : Graph) (u : SuState) (t : Token),
    SuGo s g gi tile x gr u [0, 1, 2, 3] [0, 1] → u.spill = 0 → u.recorded = [] →
    let epoch := fun s' : State => modSu (put (put s' g gi tile [0] t (stopOf (errOf t) f.level.toNat)) g gi tile [1] t (tok kindVAL 0 u.cnt)) g gi tile
      fun u => { u with cnt := 0, gate := .loop }
    let drained := fun s' : State => modSu (put s' g gi tile [0] t (tok kindDONE 0 0)) g gi tile fun u => { u with gate := .drain }
    (u.gate = .seed → suIn gr tile 0 = some t →
      (isValue t = true → exec (.gate f) s = .next (modSu (put (eat s g gi tile 0 t true) g gi tile [0] t t) g gi tile fun u => { u with cnt := u.cnt + 1 }))
      ∧ (kindOf t = 5 →
        let s' := modSu (eat s g gi tile 0 t true) g gi tile fun u => { u with inDone := 0 :: u.inDone }
        (u.cnt ≠ 0 → exec (.gate f) s = .next (epoch s')) ∧ (u.cnt = 0 → exec (.gate f) s = .next (drained s'))))
    ∧ (u.gate = .loop → suIn gr tile 1 = some t →
      (isValue t = true → exec (.gate f) s = .next (modSu (put (eat s g gi tile 1 t true) g gi tile [0] t t) g gi tile fun u => { u with cnt := u.cnt + 1 }))
      ∧ (isStop t = true → levelOf t = f.level.toNat →
        (u.cnt ≠ 0 → exec (.gate f) s = .next (epoch (eat s g gi tile 1 t true))) ∧ (u.cnt = 0 → exec (.gate f) s = .next (drained (eat s g gi tile 1 t true))))
      ∧ (kindOf t = 5 → exec (.gate f) s = .next (elemFreeze s g gi tile TOKEN_ALIGN)))
    ∧ (u.gate = .drain → suIn gr tile 1 = some t → kindOf t = 5 → ∃ s' y, exec (.gate f) s = .next s' ∧ su? s' g gi tile = some y ∧ y.st.ended = true))

/-- R222, R223: LWRC writes crd[n] and, at the close of fibre f, seg[f + 1] := n; LWRB sets the bit of a coordinate in its fibre's words; LWRD writes VALBASE + 8n; an index outside the array
writes nothing and adds 1 to RANGEERR; after DONE a writer has ended.
The model's own choices here: notes/assumptions 34. -/
def Obligations.LevelWritersComplete : Prop :=
  ∀ (f : SuFrame) (s : State) (g gi tile : Nat) (x : Group) (gr : Graph) (u : SuState) (t : Token),
    Sound s → SuGo s g gi tile x gr u suOuts [0] → suIn gr tile 0 = some t → t.log = none → u.zeroed = true →
    let stored := fun (i : Instr) (key n v : Nat) => ∃ s' y, exec i s = .next s' ∧ s'.mem = cellsWrite s.mem key (bytesOf n v) ∧ su? s' g gi tile = some y ∧ y.st.n = u.n + 1
    let refused := fun i : Instr => ∃ s' x', exec i s = .next s' ∧ s'.mem = s.mem ∧ grp? s' g = some x'
      ∧ x'.streamerr = setField x.streamerr 16 16 (Nat.min 0xFFFF (fieldOf x.streamerr 16 16 + 1))
    (hasCoord t = true → u.n < f.len.toNat → stored (.lwrc f) (padAt x tile f 4 (f.crdbase.toNat + 4 * u.n)) 4 (coordOf t))
    ∧ (hasCoord t = true → f.len.toNat ≤ u.n → refused (.lwrc f))
    ∧ (isStop t = true → ∃ s' y, exec (.lwrc f) s = .next s' ∧ s'.mem = cellsWrite s.mem (padAt x tile f 4 (f.segbase.toNat + 4 * (u.fibre + 1))) (bytesOf 4 u.n)
        ∧ su? s' g gi tile = some y ∧ y.st.fibre = u.fibre + 1 ∧ y.st.errFibres = u.errFibres + (if kindOf t = 10 then 1 else 0))
    ∧ (hasCoord t = true → coordOf t < f.len.toNat →
        let key := padAt x tile f 8 (f.crdbase.toNat + 8 * ((f.len.toNat + 63) / 64 * u.fibre + coordOf t / 64))
        stored (.lwrb f) key 8 (rdNum s key 8 ||| 2 ^ (coordOf t % 64)))
    ∧ (hasCoord t = true → f.len.toNat ≤ coordOf t → refused (.lwrb f))
    ∧ (isValue t = true ∨ isEmpty t = true → u.n < f.len.toNat →
        stored (.lwrd f) (padAt x tile f 8 (f.valbase.toNat + 8 * u.n)) 8 (if isEmpty t then 0 else t.payload.toNat))
    ∧ (isValue t = true ∨ isEmpty t = true → f.len.toNat ≤ u.n → refused (.lwrd f))
    ∧ (kindOf t = 5 → ∀ i ∈ [Instr.lwrc f, .lwrb f, .lwrd f], ∃ s' y, exec i s = .next s' ∧ su? s' g gi tile = some y ∧ y.st.ended = true)
/-! ## Element events of a resident graph -/

/-- R29, R33, R36, R39, R40, R145, R208: KRD sends its frame's counter once an iteration; a beat crosses to the next node when that has space, and a CE that drives the channel then sends what it has staged; the next free frame in ring order takes the next iteration, with each used counter's value
start + step × index; a join unit acts on both sides as the outcome of its compare says and passes a pair when a side delivers; an element at whose inputs the cut's MARK waits saves its
state for the cut.
The model's own choices here: notes/assumptions 14, 37. -/
def Obligations.ElementEventsComplete : Prop :=
  ∀ (s : State) (g gi tile : Nat) (x : Group) (gr : Graph), grp? s g = some x → graph? s g gi = some gr →
    (∀ ch node next c nd nn b r, Unwatched s → elemLive s g gi c.tile = true → gr.chans[ch]? = some c → c.nodes[node]? = some nd → nd.beats = b :: r → nd.sink = none → nd.next = [next] →
      next ≠ node → c.nodes[next]? = some nn → nodeSpace nn = true → nn.ended = false → nn.late = false → (∀ t ∈ b.dropLast, kindOf t ≠ 5) →
      ∃ t gr' c', exec (.beat g gi ch node) s = .next (ceFlush t g gi c.tile) ∧ OnlyGroup s t g ∧ graph? t g gi = some gr' ∧ gr'.chans[ch]? = some c'
        ∧ c'.nodes[node]? = some { nd with beats := r } ∧ c'.nodes[next]? = some (nodePush s.dtime b nn)
        ∧ ∀ i, i ≠ node → i ≠ next → c'.nodes[i]? = c.nodes[i]?)
    ∧ (∀ (f : WFields) fr slot c h k, ce? s g gi tile = some c → frame? c fr = some h → h.ks[f.ksel.toNat]? = some k →
      OnceCompletes (.krd f) f.pr f.t0 f.t1 s g gi tile fr slot gr c [tok kindVAL 0 k.toNat])
    ∧ (∀ c n j, ElemAt s g gi tile x gr → ce? s g gi tile = some c → savedCut x c.marks = false → j < 8 → n = (c.lastFrame + 1 + j) % 8 →
      (∃ h, c.frames[n]? = some h ∧ h.live = false) → (∀ i, i < j → ∃ h, c.frames[(c.lastFrame + 1 + i) % 8]? = some h ∧ h.live = true) → iterationDue gr c tile = true →
      let used := c.counters.takeWhile fun k => decide (k.count ≠ 0)
      let next := nextIndex used c.idx
      let ks := (used.zip c.idx).map fun p => p.1.start + p.1.step.signExtend 32 * BitVec.ofNat 32 p.2
      ∃ w, exec (.frameAssign g gi tile) s = .next (ceSettle (modCe s g gi tile fun c =>
        { c with frames := modAt c.frames n fun _ =>
                   { live := true, iter := c.nextIter, ks := ks ++ List.replicate (4 - ks.length) 0, wraps := w, entries := c.carry, closed := [], fired := [] }
                 nextIter := c.nextIter + 1, lastFrame := n, noMore := !used.isEmpty && decide (w.length = used.length), idx := next, carry := [] }) g gi tile))
    ∧ (∀ c upper p bind a b, ElemAt s g gi tile x gr → ce? s g gi tile = some c → savedCut x c.marks = false → p = (if upper then 2 else 0) → c.ports[p]? = some bind → bind.join = true →
      ((c.dlv[p]?).getD []).length < 16 → ((c.dlv[p + 1]?).getD []).length < 16 → sideHead gr c tile p = some a → sideHead gr c tile (p + 1) = some b →
      has c.doneIn (4 + p) = false → has c.doneIn (4 + (p + 1)) = false →
      (sideResets bind.jact 0 = true → ((c.fib[p]?).getD []).length ≤ 256) → (sideResets bind.jact 1 = true → ((c.fib[p + 1]?).getD []).length ≤ 256) →
      (hasCoord a = true → hasCoord b = true → (∀ l, (c.last[p]?).bind id = some l → l < coordOf a) → (∀ l, (c.last[p + 1]?).bind id = some l → l < coordOf b) →
        let acts := actsOf bind.jact (coordOf a) (coordOf b)
        let s' := sideDoes (sideDoes s g gi tile p (sideResets bind.jact 0) acts.1 a) g gi tile (p + 1) (sideResets bind.jact 1) acts.2 b
        exec (.joinCompare g gi tile upper) s = .next (if acts.1 = 0 ∨ acts.2 = 0 then
          passPair s' g gi tile p (if acts.1 = 0 then a else tok kindEMPTY 0 0) (if acts.2 = 0 then b else tok kindEMPTY 0 0) else s'))
      ∧ (kindOf a = 4 → kindOf b = 4 → levelOf a = levelOf b →
        exec (.joinCompare g gi tile upper) s = .next (passPair (sideTake (sideTake (sinkAll s g gi tile [b]) g gi tile p false a) g gi tile (p + 1) false b) g gi tile p
          (heir a (tok kindSTOP (levelOf a) 0)) (heir a (tok kindSTOP (levelOf a) 0)))))
    ∧ (∀ port, ElemAt s g gi tile x gr → x.state = .cutting → x.marksGo = true → x.markStill = false →
      (∀ u, su? s g gi tile = some u → ce? s g gi tile = none → fieldOf u.frame 0 10 ≠ 0x20A → has u.st.marks x.cutNo = false → openIns gr tile [0, 1, 2] u.st.inDone ≠ [] →
        (∀ i ∈ openIns gr tile [0, 1, 2] u.st.inDone, ∃ t, portHead gr tile i = some t ∧ kindOf t = 7 ∧ fieldOf t.payload 0 32 = x.cutNo) → roomOn gr tile [0, 1, 2, 3] = true →
        ∃ t y, exec (.mark g gi tile port) s = .next t ∧ su? t g gi tile = some y ∧ has y.st.marks x.cutNo = true)
      ∧ (∀ c, ce? s g gi tile = some c → has c.marks x.cutNo = false → c.waits = [] → c.stage = [] → c.doneIn = [] → c.doneOut = [] →
        (∀ i ∈ openIns gr tile [0, 1, 2, 3] [], ∃ t, portHead gr tile i = some t ∧ kindOf t = 7 ∧ fieldOf t.payload 0 32 = x.cutNo) → roomOn gr tile (List.range 8) = true →
        ∃ t y, exec (.mark g gi tile port) s = .next t ∧ ce? t g gi tile = some y ∧ has y.marks x.cutNo = true))

/-! ## Memory tiles -/

/-- R228, R229, R230, R231: AGLIN and AGND read the elements of their pattern in order, with STOP and DONE after the last; results leave in order; AGGATH reads the element that an
index names and sends EMPTY for one beyond the pattern; AGSCAT writes the element; AGRANGE reads the elements of its range; a write stream counts its elements, and its count and DONE go
once every write has performed.
The model's own choices here: notes/assumptions 19, 35, 36. -/
def Obligations.AddressGeneratorsComplete : Prop :=
  ∀ (f : AgFrame) (s : State) (g gi tile lane : Nat) (x : Group) (gr : Graph) (a : AgState), Sound s → Unwatched s → AgLive s g gi tile lane x gr a →
    mtFnOp s g gi tile ≠ 0x288 → mtFnOp s g gi tile ≠ 0x289 →
    (s.site = .elem g gi tile lane → s.part = 0 →
    (∀ i ∈ [Instr.aglin f, .agnd f], ∀ i0 i1 i2 i3 key, f.wr = false → a.queue = [] → a.inDone = false → a.i = [i0, i1, i2, i3] → agKeyAt x tile f (patternAt f i0 i1 i2 i3) key →
      let v : Word := BitVec.ofNat 64 (rdNum s key (Ty.width f.ty / 8))
      (i0 < f.cnt0.toNat → ∃ t y, exec i s = .next t ∧ OnlyGroup s t g ∧ ag? t g gi tile lane = some y
        ∧ y = { a with i := [i0 + 1, i1, i2, i3], queue := [(0, { payload := v, tag := 0, log := none }, true)] })
      ∧ (i0 = f.cnt0.toNat → f.ndim = 0 → ∃ t y, exec i s = .next t ∧ OnlyGroup s t g ∧ ag? t g gi tile lane = some y ∧ y.inDone = true
        ∧ y.queue = [(0, { payload := v, tag := 0, log := none }, true), (0, tok kindSTOP 0 0, true), (0, tok kindDONE 0 0, true)]))
    ∧ (∀ i ∈ [Instr.aglin f, .agnd f, .aggath f], ∀ l, f.wr = false → a.inDone = true → l = ((a.queue.takeWhile fun q => q.2.2).take 16).map (fun q => q.2.1) → l ≠ [] →
      canSend gr tile (2 * lane) = true →
      exec i s = .next (modAg (send s g gi tile (2 * lane) l) g gi tile lane fun a => { a with queue := a.queue.drop l.length, ended := l.any fun t => decide (kindOf t = 5) }))
    ∧ (∀ i ∈ [Instr.aglin f, .agnd f], ∀ i0 i1 i2 i3 key t, f.wr = true → a.owed = none → a.zeroed = false → a.i = [i0, i1, i2, i3] → suBad gr tile [] [2 * lane + 1] = false →
      suIn gr tile (2 * lane + 1) = some t → Plain t →
      (isValue t = true → agKeyAt x tile f (patternAt f i0 i1 i2 i3) key →
        ∃ s' y, exec i s = .next s' ∧ ag? s' g gi tile lane = some y ∧ y.written = a.written + 1
          ∧ s'.mem = cellsWrite s.mem key (bytesOf (Ty.width f.ty / 8) (t.payload.toNat % 2 ^ Ty.width f.ty)))
      ∧ (kindOf t = 5 → ∃ s' y, exec i s = .next s' ∧ ag? s' g gi tile lane = some y ∧ y.owed = some a.written ∧ s'.mem = s.mem))
    ∧ (∀ t key, a.queue = [] → a.inDone = false → suBad gr tile [] [2 * lane] = false → suIn gr tile (2 * lane) = some t → isValue t = true → Plain t →
      let n := if kindOf t = 1 then fieldOf t.payload 32 32 else fieldOf t.payload 0 32
      (n ≤ f.cnt0.toNat → agKeyAt x tile f n key → ∃ s' y, exec (.aggath f) s = .next s' ∧ ag? s' g gi tile lane = some y ∧ s'.mem = s.mem
          ∧ ∃ q, y.queue = [q] ∧ q.2.1.payload.toNat = rdNum s key (Ty.width f.ty / 8) % 2 ^ 64 ∧ kindOf q.2.1 = 0 ∧ q.2.2 = true)
      ∧ (f.cnt0.toNat < n → ∃ s' y, exec (.aggath f) s = .next s' ∧ RangeErr s s' g ∧ ag? s' g gi tile lane = some y ∧ ∃ q, y.queue = [q] ∧ kindOf q.2.1 = 6))
    ∧ (∀ t d key, a.owed = none → suBad gr tile [] [2 * lane, 2 * lane + 1] = false → suIn gr tile (2 * lane) = some t → suIn gr tile (2 * lane + 1) = some d →
      isValue t = true → isValue d = true → Plain t → Plain d →
      let n := if kindOf t = 1 then fieldOf t.payload 32 32 else fieldOf t.payload 0 32
      (n ≤ f.cnt0.toNat → agKeyAt x tile f n key → ∃ s' y, exec (.agscat f) s = .next s' ∧ ag? s' g gi tile lane = some y ∧ y.written = a.written + 1
          ∧ s'.mem = cellsWrite s.mem key (bytesOf (Ty.width f.ty / 8) (d.payload.toNat % 2 ^ Ty.width f.ty)))
      ∧ (f.cnt0.toNat < n → ∃ s', exec (.agscat f) s = .next s' ∧ RangeErr s s' g ∧ s'.mem = s.mem))
    ∧ (f.wr = false → a.queue = [] → a.inDone = false → a.owed = none →
      (∀ t, a.range = [] → suBad gr tile [] [2 * lane] = false → suIn gr tile (2 * lane) = some t → kindOf t = 0 → fieldOf t.payload 32 32 ≠ 0 →
        exec (.agrange f) s = .next (modAg (agEat s g gi tile lane (2 * lane) t true) g gi tile lane fun a => { a with range := [(fieldOf t.payload 0 32, fieldOf t.payload 32 32, t)] }))
      ∧ (∀ i n src r key, a.range = (i, n, src) :: r → r ≠ [] ∨ 64 < n ∨ suIn gr tile (2 * lane) = none → i ≤ f.cnt0.toNat → agKeyAt x tile f i key →
        ∃ s' y, exec (.agrange f) s = .next s' ∧ OnlyGroup s s' g ∧ ag? s' g gi tile lane = some y ∧ y.range = (if n ≤ 1 then r else (i + 1, n - 1, src) :: r)
          ∧ y.queue = (0, withValue (heir src (tok kindVAL 0 0)) (rdNum s key (Ty.width f.ty / 8)), true)
              :: (if n ≤ 1 then [(0, heir src (tok kindSTOP 0 0), true)] else []))))
    ∧ (∀ n, a.owed = some n → canSend gr tile (2 * lane) = true → a.circuit = none → a.writesOwed = 0 →
      let like := fun (src : Option Token) t => heir (src.getD t) t
      exec (.completionToken g gi tile lane) s = .next (modAg (send s g gi tile (2 * lane) [like a.first (tok kindVAL 0 n), like a.closing (tok kindDONE 0 0)]) g gi tile lane
        fun a => { a with owed := none, ended := true }))

/-- R192, R193, R232, R233, R235, R322: MTCMPR sends an element whose bits are not all zero and drops the others, MTEXPD writes the element that a CV token names, MTOWN updates its word and
answers the old value, MTSYNC serves the oldest reader of a filled word, an LDE emptying it, and MTINV takes the oldest invocation under the lowest free tag and answers with the result.
The model's own choices here: notes/assumptions 18, 39. -/
def Obligations.TileFunctionsComplete : Prop :=
  ∀ (f : MtFrame) (s : State) (g gi tile : Nat) (x : Group) (gr : Graph) (m : MtState), Sound s → s.ownerWrites = [] → Unwatched s → MtLive s g gi tile x gr m →
    ((∃ lane, s.site = .elem g gi tile lane) →
    (∀ a id t r, ag? s g gi tile 0 = some a → a.queue = (id, t, true) :: r → canSend gr tile 0 = true →
      let s' := modAg s g gi tile 0 fun a => { a with queue := r, ended := kindOf t = 5 }
      (kindOf t = 1 → fieldOf t.payload 0 32 = 0 → exec (.mtcmpr f) s = .next (wake s' g))
      ∧ ((kindOf t = 1 → fieldOf t.payload 0 32 ≠ 0) → exec (.mtcmpr f) s = .next (send s' g gi tile 0 [t])))
    ∧ (∀ a t key, ag? s g gi tile 0 = some a → savedCut x a.marks = false → a.owed = none → a.ended = false → a.stopped = none → a.zeroed = true → suBad gr tile [] [1] = false →
      suIn gr tile 1 = some t → kindOf t = 1 → Plain t → a.run < runCount (agFrameOf a.frame) → coordOf t ≤ agCnt (agFrameOf a.frame) 0 →
      agKeyAt x tile (agFrameOf a.frame) (agOffset (agFrameOf a.frame) (runIndex (agFrameOf a.frame) a.run (coordOf t))) key →
      ∃ s' y, exec (.mtexpd f) s = .next s' ∧ ag? s' g gi tile 0 = some y ∧ y.written = a.written + 1
        ∧ s'.mem = cellsWrite s.mem key (bytesOf (Ty.width (agFrameOf a.frame).ty / 8) (fieldOf t.payload 0 (Ty.width (agFrameOf a.frame).ty))))
    ∧ (∀ t, canSend gr tile 2 = true → m.inDone = false → suBad gr tile [] [2] = false → suIn gr tile 2 = some t → kindOf t = 1 → Plain t → f.param.getLsbD 4 = false →
      let a := f.base.toNat + 4 * fieldOf t.payload 32 32
      let key := upKey (clusterOfTile x tile) (tileInCluster tile * 131072 + a)
      (fieldOf f.param 0 4 ≠ 9 → a < f.limit.toNat → ∃ s', exec (.mtown f) s = .next s'
        ∧ AtomicLeaves s s' true key 4 (updated (fieldOf f.param 0 4) (rdNum s key 4) (fieldOf t.payload 0 32)))
      ∧ (fieldOf f.param 0 4 ≠ 9 → f.limit.toNat ≤ a → ∃ s', exec (.mtown f) s = .next s' ∧ RangeErr s s' g ∧ s'.mem = s.mem))
    ∧ (∀ t i v, canSend gr tile 2 = true → m.inDone = false → suBad gr tile [] [2] = false → suIn gr tile 2 = some t → kindOf t = 1 → f.param.getLsbD 4 = true → fieldOf f.param 0 4 ≠ 9 →
      i = fieldOf t.payload 32 32 → v = fieldOf t.payload 0 32 → f.base.toNat + 4 * i < f.limit.toNat →
      let s0 := eat s g gi tile 2 t true
      let key := upKey (clusterOfTile x tile) (tileInCluster tile * 131072 + (f.base.toNat + 4 * i))
      exec (.mtown f) s = .next (put { s0 with ownerWrites := [(key, 4, updated (fieldOf f.param 0 4) (rdNum s0 key 4) v)] } g gi tile [2] t (tok kindCV 0 (i * 2 ^ 32 + rdNum s0 key 4))))
    ∧ (∀ v arg r tag, suBad gr tile [] [2] = false → suIn gr tile 2 = none → m.waiting = (v, arg) :: r → v.spawned = false → v.site = .none → freeTag m = some tag → canSend gr tile 2 = true →
      exec (.mtinv f) s = .next (send (modMtFn s g gi tile fun m => { m with waiting := r, invs := m.invs ++ [{ v with tag := tag }] }) g gi tile 2 [tok kindVAL 0 arg.toNat]))
    ∧ (∀ v t z g' th b slot, suBad gr tile [] [2] = false → suIn gr tile 2 = some t → kindOf t = 3 → m.invs.find? (fun v => v.spawned && decide (v.tag = t.payload.toNat)) = some v →
      v.packet = none → v.site = .block g' th b slot → (portTokens gr tile 2)[1]? = some z → kindOf z = 0 →
      exec (.mtinv f) s = .next (answerSpawn (modMtFn (eat (eat s g gi tile 2 t false) g gi tile 2 z false) g gi tile
        fun m => { m with invs := m.invs.filter fun w => decide (w.tag ≠ v.tag) }) (.block g' th b slot) v.pos (some z.payload))))
    ∧ (∀ byte w g' th b slot k r rest, mtSync? s g gi tile = some m → m.sync.find? (fun p => p.2.serving) = some (byte, w) → w.readers = r :: rest → r.site = .block g' th b slot →
      block? s g' th b = some k → ∀ i, i = .parkedReaderServed g gi tile ∨ (i = .mtsync f ∧ ∃ lane, s.site = .elem g gi tile lane) →
      ∃ s' m', exec i s = .next s' ∧ s'.mem = s.mem ∧ mtSync? s' g gi tile = some m' ∧ (syncWord m' byte).readers = rest ∧ (r.take = true → (syncWord m' byte).full = false)
        ∧ (∃ k', block? s' g' th b = some k' ∧ k'.perf = true))

/-! ## Matrix cells -/

/-- R243, R245, R248, R249, R250, R251, R252: a sweep reaches a cell that has fewer than four queued once its neighbours west and north have it; MMA and MMAS take the tokens of A in order and pass
them east, MPASS passes them alone; a K-block of 32 rows is accumulated, each entry rounded once, MMAS's first replacing what was there; MZERO makes the accumulator +0; MDRAIN sends the
cell's row converted; and each pass ends after its last step. -/
def Obligations.MatrixCellsComplete : Prop :=
  ∀ (f : McFrame) (s : State) (g gi tile : Nat) (x : Group) (gr : Graph) (m : Mc), Sound s → Unwatched s →
    (ElemAt s g gi tile x gr → mc? s g gi tile = some m → ∀ w h o p, cellPos m.frames = some (w, h, 0, 0) → regionOrigin gr m = some o → m.sweeps.length < 4 →
      (regionState gr o).injected[m.rcvd]? = some p → ∃ t y, exec (.sweep g gi tile) s = .next t ∧ mc? t g gi tile = some y ∧ y.rcvd = m.rcvd + 1
        ∧ (m.pass ≠ none → y.sweeps = m.sweeps ++ [p] ∧ y.pass = m.pass) ∧ (m.pass = none → m.sweeps = [] → m.lastSeen = false → y.pass = some p ∧ y.sweeps = []))
    ∧ (McGo s g gi tile x gr m → ∀ t, m.row < 32 → suIn gr tile 0 = some t → badToken t = false → m.aDone = false → kindOf t = 0 → (f.mxs = true → m.tok ≠ 0) → canSend gr tile 0 = true →
      let len := 32 * Ty.width f.aty / 64 + (if f.mxs then 1 else 0)
      (∀ i ∈ [Instr.mma f, .mmas f], ∃ s' y, exec i s = .next s' ∧ mc? s' g gi tile = some y
          ∧ (if m.tok + 1 < len then y.tok = m.tok + 1 ∧ y.row = m.row else y.tok = 0 ∧ y.row = m.row + 1)
          ∧ y.arows = (if m.tok = (if f.mxs then 1 else 0) then m.arows ++ [[t]] else modAt m.arows m.row fun r => r ++ [t]))
      ∧ (m.tok + 1 < len → ∃ s' y, exec (.mpass f) s = .next s' ∧ mc? s' g gi tile = some y ∧ y = { m with tok := m.tok + 1 }))
    ∧ (McLive s g gi tile x gr m → ∀ fr, m.pass.bind (fun p => mcConfig m p.1) = some fr → mcOp fr = 0x240 ∨ mcOp fr = 0x241 → s.part = 0 → m.seen = [] → m.row = 32 → m.arows.length = 32 → m.scales.length = 32 →
      let f := mcFrameOf fr
      ∃ t x', exec (.kblockAccumulate g gi tile) s = .next t ∧ grp? t g = some x' ∧ t.mem = s.mem
        ∧ (∀ i j r sc, i < 32 → j < 32 → m.arows[i]? = some r → m.scales[i]? = some sc →
            accBits x' tile (accFmt f.aty) f.acc.toNat i j
              = accUpdate (mcOp fr == 0x241 && decide (m.kb = 0)) f (rowElems f.aty r)
                  ((List.range 32).map fun k => columnBits s x tile j f m.kb / 2 ^ (Ty.width f.bty * k) % 2 ^ Ty.width f.bty)
                  (if f.mxs then e8m0 sc.toNat else .fin false 1 1)
                  (if f.mxs then e8m0 (columnBits s x tile j f m.kb / 2 ^ (32 * Ty.width f.bty) % 256) else .fin false 1 1)
                  (accBits x tile (accFmt f.aty) f.acc.toNat i j) % (match accFmt f.aty with | .f32 => 2 ^ 32 | .f64 => 2 ^ 64 | _ => 2 ^ 36))
        ∧ (m.kb < f.kblk.toNat → ∃ y, mc? t g gi tile = some y ∧ y.kb = m.kb + 1 ∧ y.row = 0 ∧ y.arows = [])
        ∧ (f.kblk.toNat ≤ m.kb → PassOver t g gi tile m))
    ∧ (McGo s g gi tile x gr m →
      (∃ t x', exec (.mzero f) s = .next t ∧ grp? t g = some x' ∧ (∀ i j, i < 32 → j < 32 → accBits x' tile f.bty f.acc.toNat i j = 0) ∧ PassOver t g gi tile m)
      ∧ (∀ w h y px, cellPos m.frames = some (w, h, y, px) → suIn gr tile 0 = none → canSendN gr tile 1 (32 * Ty.width f.aty / 64 + 1) = true → 32 * y ≤ m.north → m.drained < 31 →
        exec (.mdrain f) s = .next (modMc (graphFlags (send s g gi tile 1 (drainRow x tile f m.drained).1) g gi tile (drainRow x tile f m.drained).2) g gi tile
          fun m => { m with drained := m.drained + 1 }))
      ∧ (∀ w h y px t, cellPos m.frames = some (w, h, y, px) → suIn gr tile 0 = none → canSendN gr tile 1 1 = true → m.north < 32 * y → suIn gr tile 1 = some t → badToken t = false →
        kindOf t ≠ 5 → exec (.mdrain f) s = .next (modMc (put (eat s g gi tile 1 t true) g gi tile [1] t t) g gi tile fun m => { m with north := m.north + (if isStop t then 1 else 0) })))

/-! ## Queues, contexts, barriers -/

/-- R283, R284, R286, R287, R288, R289, R300, R306, R340, R443: a doorbell takes PIDX, or is QBADDB; the head packet is read until SEQ is CIDX, 64 re-polls at most; a packet that is not valid
for its TYPE completes BADPKT; each command does at its start what its row says and its 16-byte record is written at CQBASE + 16 × (seq mod SIZE).
The model's own choices here: notes/assumptions 98, 99, 100. -/
def Obligations.CommandsStart : Prop :=
  ∀ (s : State) (q : Nat) (x : Queue), devReady s = true → queue s q = x →
    (∀ fn v, reachQueue s fn q = true → queueOpen x = true → queueFed x = false →
      ((x.pidx - x.cidx).toNat ≤ (v - x.cidx).toNat → (v - x.cidx).toNat ≤ queueSize x →
        exec (.doorbell fn q 0 4 v) s = .next (setQueue s q { x with pidx := v, st := if x.st = .idle ∧ v ≠ x.cidx then .active else x.st }))
      ∧ ((v - x.cidx).toNat < (x.pidx - x.cidx).toNat ∨ queueSize x < (v - x.cidx).toNat →
        exec (.doorbell fn q 0 4 v) s = .next (event s (ownerOf s (queueCtx x)) 4 (queueCtx x) q 0 (x.cidx.toNat % 2 ^ 24))))
    ∧ (∀ i n first, x.st = .active → x.head = none → (i = .packetRead q ∧ n = 0 ∧ first = s.dtime ∧ x.polls = none ∧ x.pidx ≠ x.cidx)
        ∨ (∃ m, i = .repoll q ∧ x.polls = some (m, first) ∧ n = m + 1 ∧ first + 32 * n ≤ s.dtime) →
        let c := queueCtx x
        let stalled (code err : Nat) : State :=
          event (setQueue s q { x with st := .stalled, head := none, polls := none }) (ownerOf s c) code c q err (x.cidx.toNat % 2 ^ 24)
        (∀ l, ownRead s c (x.qbase.toNat + 128 * (x.cidx.toNat % queueSize x)) 128 = .ok l →
            (natOfBytes (l.take 4) = x.cidx.toNat → ∃ w, exec i s = .next (setQueue s q { x with head := some w, polls := none })
              ∧ w.length = 16 ∧ ∀ j < 16, w[j]? = some (BitVec.ofNat 64 (natOfBytes ((l.drop (8 * j)).take 8))))
            ∧ (natOfBytes (l.take 4) ≠ x.cidx.toNat → n < 64 → exec i s = .next (setQueue s q { x with polls := some (n, first) }))
            ∧ (natOfBytes (l.take 4) ≠ x.cidx.toNat → 64 ≤ n → exec i s = .next (stalled 2 0)))
          ∧ (∀ cause, ownRead s c (x.qbase.toNat + 128 * (x.cidx.toNat % queueSize x)) 128 = .error cause → exec i s = .next (stalled 5 cause)))
    ∧ (∀ l i typ, HeadGo s q x l → packetType ((l[0]?).getD 0) = typ → i = .commandStart q ∨ (i = commandInstr q typ ∧ typ ≤ 8) →
        let s1 := headStarted s q x l
        let c := queueCtx x
        (packetBad x l = true → exec i s = .next (headDone s1 q x l 1 0))
        ∧ (packetBad x l = false →
          (typ = 0 → exec i s = .next (headDone s1 q x l 0 0))
          ∧ (typ = 1 → Sound s → (∀ d, launchReject s1 c l = some d → exec i s = .next (headDone s1 q x l 2 d))
            ∧ (launchReject s1 c l = none → s.groups.length < Config.maxGroups → ∀ g, freeGrp s = g → grp? s g = none →
              ∃ t y, exec i s = .next t ∧ grp? t g = some y ∧ queue t q = queue s1 q ∧ t.mem = s.mem ∧ y.state = .admitted ∧ y.ctx = c ∧ y.queue = q ∧ y.seq = x.cidx.toNat
                ∧ y.kid = pkt l 1 % 2 ^ 16 ∧ y.entry = pkt l 1 / 2 ^ 16 % 2 ^ 16 ∧ y.ncl = pkt l 1 / 2 ^ 32 % 2 ^ 9 ∧ y.dl = pkt l 2 ∧ y.budget = pkt l 3 % 2 ^ 32
                ∧ y.dpbase = pkt l 4 % 2 ^ 14 ∧ y.dpsize = pkt l 4 / 2 ^ 14 % 2 ^ 14 ∧ y.args = l.drop 6 ∧ (y.gang = none ↔ pkt l 5 % 2 ^ 32 = 0)
                ∧ y.effClass = queueClass x ∧ y.key = (if pkt l 2 ≠ 0 then pkt l 2 else s.dtime + implOf s (queueClass x)) ∧ y.ending = none))
          ∧ (typ = 2 → barFor s1 (pkt l 1 % 2 ^ 12) c = true → (barrier s1 (pkt l 1 % 2 ^ 12)).st ≠ .broken → (barrier s1 (pkt l 1 % 2 ^ 12)).due = false →
              exec i s = .next (headDone (arriveAt s1 (pkt l 1 % 2 ^ 12) none) q x l 0 0))
          ∧ (typ = 3 → barFor s1 (pkt l 1 % 2 ^ 12) c = true →
              (satisfied (barrier s1 (pkt l 1 % 2 ^ 12)) (pkt l 2 % 2 ^ 32) = true → exec i s = .next (headDone s1 q x l 0 0))
              ∧ (satisfied (barrier s1 (pkt l 1 % 2 ^ 12)) (pkt l 2 % 2 ^ 32) = false → (barrier s1 (pkt l 1 % 2 ^ 12)).st ≠ .broken → exec i s = .next (wakeQueue s1 q)))
          ∧ (typ = 2 ∨ typ = 3 → barFor s1 (pkt l 1 % 2 ^ 12) c = false → exec i s = .next (headDone s1 q x l 2 10))
          ∧ (typ = 4 → (∀ d, kloadReject s1 c l = some d → exec i s = .next (headDone (plainReport s1 c (pkt l 4)) q x l 2 d))
            ∧ (kloadReject s1 c l = none → exec i s = .next (wakeQueue { s1 with kernels := s1.kernels ++
                [{ ctx := c, kid := pkt l 1 % 2 ^ 16, st := .loading, base := ccUsed s1, units := (pkt l 3 + 65535) / 65536, imgaddr := pkt l 2, imglen := pkt l 3, report := pkt l 4
                   cmd := some (q, x.cidx.toNat), unload := false, copied := [] }] } q)))
          ∧ (typ = 5 → (ctx s1 c).st = .closing → exec i s = .next (headDone s1 q x l 2 5))
          ∧ (typ = 5 → (ctx s1 c).st ≠ .closing → (kernel? s1 c (pkt l 1 % 2 ^ 16) = none → exec i s = .next (headDone s1 q x l 2 4))
            ∧ (∀ k, kernel? s1 c (pkt l 1 % 2 ^ 16) = some k → k.st = .resident →
              exec i s = .next (wakeQueue (kevictSettle (modKernel s1 c (pkt l 1 % 2 ^ 16) fun k =>
                { k with st := .evicting, cmd := some (q, x.cidx.toNat), unload := (pkt l 1).testBit 16 }) c (pkt l 1 % 2 ^ 16)) q)))
          ∧ (typ = 6 → (∀ s2, ownWrite s1 c (pkt l 1) (bytesOf 8 s.dtime) = .ok s2 → exec i s = .next (headDone s2 q x l 0 0))
            ∧ (∀ cause, ownWrite s1 c (pkt l 1) (bytesOf 8 s.dtime) = .error cause → exec i s = .next (headDone s1 q x l 4 (0x800 + cause))))
          ∧ (typ = 7 → ((ctx s1 c).dbgcons.getLsbD 0 = false → exec i s = .next (headDone s1 q x l 6 0))
            ∧ ((ctx s1 c).dbgcons.getLsbD 0 = true → (ctx s1 c).trace ≠ none → exec i s = .next (headDone s1 q x l 2 12))
            ∧ ((ctx s1 c).dbgcons.getLsbD 0 = true → (ctx s1 c).trace = none →
              ∀ s2, ownWrite s1 c (pkt l 1) (bytesOf 16 0 ++ bytesOf 8 s.dtime ++ bytesOf 8 0 ++ bytesOf 8 1 ++ bytesOf 24 0) = .ok s2 →
                exec i s = .next (headDone (modCtx s2 c fun y => { y with trace := some { buf := pkt l 1, size := pkt l 2, written := 0, dropped := 0, opened := s2.dtime } }) q x l 0 0)))
          ∧ (typ = 8 → exec i s = .next (headDone (traceClose s1 c false) q x l 0 0))))
    ∧ (∀ seq typ status detail t k, x.cmds.find? (fun k => decide (k.seq = seq ∧ k.typ = typ)) = some k → k.ring = (queueCtx x, x.cqbase.toNat, queueSize x) → x.st ≠ .resetting →
        ownWrite s (queueCtx x) (x.cqbase.toNat + 16 * (seq % queueSize x)) (recordBytesOf seq typ status detail s.dtime) = .ok t →
        complete s q seq typ status detail = setQueue t q { x with cmds := x.cmds.filter fun k => !decide (k.seq = seq ∧ k.typ = typ) })

/-- R119, R120, R282, R288, R295, R297, R301, R304: a store reaches its serving point and performs there; the oldest request of the PCIe link completes; a load ends RESIDENT, with a REJECT or
with its image's cause, its report before its record; QCMD's CREATE, RESET, RESUME and DESTROY act in the states that allow them, and elsewhere leave their ERR and event.
The model's own choices here: notes/assumptions 7, 28, 33, 101, 119. -/
def Obligations.LoadsServingAndQueueCommands : Prop :=
  ∀ (s : State),
    (∀ cl k e, coreUp s = true → (cluster s cl).frozen = none → (cluster s cl).writeq[k]? = some e → Here e.bytes → e.bytes ≠ [] → e.rel = false → e.acq = false → e.pad = false → e.sent = false → e.note = none → Sound s →
      (∀ d ∈ (cluster s cl).writeq.take k, (∀ p ∈ d.bytes, ∀ r ∈ e.bytes, p.1 / 8 ≠ r.1 / 8) ∧ (d.bytes = [] → d.party ≠ e.party)) →
      exec (.servingPointArrival cl k) s = .next (afterStores (putBytes (setCluster s cl { cluster s cl with writeq := eraseAt (cluster s cl).writeq k }) e.bytes)))
    ∧ (∀ r rest, devReady s = true → s.pcie = r :: rest → hostUp s = true →
      (∀ l p, r = .write l p none → exec (.pcieCompletion true) s = .next (afterStores (putBytes { s with pcie := rest } l)))
      ∧ (∀ key n dest, r = .read key n dest → exec (.pcieCompletion true) s = .next (afterStores (answer { s with pcie := rest } dest (rdBytes s key n))))
      ∧ (∀ key n op b c dest, r = .atomic key n op b c dest → n = 4 ∨ n = 8 → op ≠ .fadd →
        exec (.pcieCompletion true) s = .next (afterStores (answer
          (wrNum { s with pcie := rest } key n (atomicResult op (if n = 4 then .n32 else .n64) (rdNum s key n) (b.toNat % 2 ^ (8 * n)) (c.toNat % 2 ^ (8 * n)))) dest (bytesOf n (rdNum s key n))))))
    ∧ (∀ c kid k, LoadAt s c kid k →
      (imageBytes s c k.imgaddr (k.imglen / 32 + 1) k.imglen = none →
        exec (.kernelLoadEnd c kid) s = .next (loadOver (dropKernel (plainReport s c k.report) c kid) c kid k 2 8))
      ∧ ∀ l, imageBytes s c k.imgaddr (k.imglen / 32 + 1) k.imglen = some l →
        let s2 := wrBytes s (copyKey s k) l
        (∀ cause idx, imageVerdict s2 (copyKey s k) k.imglen = some (cause, idx) →
          exec (.kernelLoadEnd c kid) s = .next (loadOver (dropKernel (writeReport s2 c k.report cause (idx.getD 0xFFFFFFFF)) c kid) c kid k 4 cause))
        ∧ (imageVerdict s2 (copyKey s k) k.imglen = none →
          exec (.kernelLoadEnd c kid) s = .next (loadOver (plainReport (modKernel s2 c kid fun k => { k with st := .resident, cmd := none, copied := [] }) c k.report) c kid k 0 0)))
    ∧ (∀ fn q v x, queue s q = x →
      (∀ i code, (i = .qcmdCreate fn q v ∧ code = 1) ∨ (i = .qcmdReset fn q v ∧ code = 2) ∨ (i = .qcmdResume fn q v ∧ code = 3) ∨ (i = .qcmdDestroy fn q v ∧ code = 4) →
        (devReady s = true → reachQueue s fn q = true → v.toNat % 16 = code →
          (x.st = .resetting → exec i s = .next (setQueue s q { x with err := 7 }))
          ∧ (x.st ≠ .resetting → 16 ≤ v.toNat → exec i s = .next (queueEndsAs (if code = 2 then 3 else 8) s q 1))
          ∧ (v.toNat = code → (code = 1 ∧ (x.st = .idle ∨ x.st = .active ∨ x.st = .stalled)) ∨ (code = 3 ∧ (x.st = .idle ∨ x.st = .active)) ∨ (code ≠ 1 ∧ x.st = .free) →
            exec i s = .next (queueEndsAs (if code = 2 then 3 else 8) s q 2))))
      ∧ (CmdOk s (reachQueue s fn q) 1 v → x.st = .free →
        let n := x.cfg.toNat / 2 ^ 15 % 2 ^ 5
        ((ctx s (queueCtx x)).st = .free → exec (.qcmdCreate fn q v) s = .next (queueEnds s q 3))
        ∧ ((ctx s (queueCtx x)).st ≠ .free → ¬ (4 ≤ n ∧ n ≤ 16 ∧ x.qbase.toNat % 4096 = 0 ∧ x.cqbase.toNat % 64 = 0) → exec (.qcmdCreate fn q v) s = .next (queueEnds s q 4))
        ∧ ((ctx s (queueCtx x)).st ≠ .free → 4 ≤ n → n ≤ 16 → x.qbase.toNat % 4096 = 0 → x.cqbase.toNat % 64 = 0 →
          exec (.qcmdCreate fn q v) s = .next (queueEnds (setQueue (keepCommands s q) q
            { x with st := .idle, pidx := 0, cidx := 0, head := none, polls := none, cmds := oldCommands x, waiters := [], destroying := false, resetCode := 0 }) q 0)))
      ∧ (CmdOk s (reachQueue s fn q) 3 v → x.st = .stalled →
        exec (.qcmdResume fn q v) s = .next (queueEnds (setQueue s q { x with st := .active, head := none, polls := none }) q 0))
      ∧ (x.st = .idle ∨ x.st = .active ∨ x.st = .stalled →
        (CmdOk s (reachQueue s fn q) 2 v → exec (.qcmdReset fn q v) s = .next (resetQueue s q 3))
        ∧ (CmdOk s (reachQueue s fn q) 4 v → exec (.qcmdDestroy fn q v) s = .next (resetQueue s q 8))
        ∧ (x.pidx = x.cidx → x.cmds = [] → x.waiters = [] → (∀ p ∈ s.groups, p.2.queue ≠ q) → (ctx s (queueCtx x)).trace = none →
          ∃ y, resetQueue s q 3 = event (setQueue s q y) (ctx s (queueCtx x)).owner.toNat 3 (queueCtx x) q 0 (x.cidx.toNat % 2 ^ 24)
            ∧ y = { x with st := .idle, err := 0, head := none, polls := none, destroying := false, resetCode := 0 })))

/-- R270, R272, R273, R275, R276, R328, R329, R331, R332, R339: CTXCMD's CREATE makes an OPEN context with its registers as at a creation; SUSPEND of a context without groups makes it SUSPENDED,
RESUME of an untouched save area OPEN; DESTROY closes it, and once nothing of it remains it is FREE; BCMD's CREATE, RESET and DESTROY; a timeout breaks its barrier and fails its
waits; an external arrival of the current phase counts, and of another one is dropped and counted in BEXTDROP, which a read clears.
The model's own choices here: notes/assumptions 47, 103, 105, 106, 107. -/
def Obligations.ContextAndBarrierCommands : Prop :=
  ∀ (s : State), devReady s = true →
    (∀ fn c v x, c < Config.objects → ctx s c = x → reachCtx s fn c = true →
      (v.toNat = 1 → x.st = .free → x.busy = false →
        (CreateOk s fn c x → exec (.ctxcmdCreate fn c v) s = .next (ctxEnds (setCtx s c
          { x with st := .opened, stallcyc := 0x100000, samprate := 0, dbgcons := 0, ctime := s.dtime, creates := x.creates + 1, destroyDuringSwitch := false, suspended := []
                   saveCells := none, trace := none, invals := [], nextInval := 0 }) c 0))
        ∧ ((∃ p ∈ s.contexts, p.1 ≠ c ∧ p.2.st ≠ .free ∧ p.2.asid = x.asid) → exec (.ctxcmdCreate fn c v) s = .next (ctxEnds s c 3)))
      ∧ (v.toNat = 2 → x.st = .opened ∨ x.st = .active → x.busy = false →
        (x.csasize.toNat < saveNeed s c → exec (.ctxcmdSuspend fn c v) s = .next (ctxEnds s c 8))
        ∧ (saveNeed s c ≤ x.csasize.toNat → x.destroyDuringSwitch = false → (∀ p ∈ s.groups, p.2.ctx ≠ c) →
          ∃ t y, exec (.ctxcmdSuspend fn c v) s = .next t ∧ ctx t c = y ∧ y.st = .suspended ∧ y.busy = false ∧ y.err = 0 ∧ y.saveCells ≠ none))
      ∧ (v.toNat = 3 → x.st = .suspended → x.busy = false → poisoned s (hbmKey (csaBase x)) (csaBytes x) = false →
        (x.saveCells ≠ some (areaNow s (csaBase x) (csaBytes x)) → exec (.ctxcmdResume fn c v) s = .next (ctxEnds s c 6))
        ∧ (x.saveCells = some (areaNow s (csaBase x) (csaBytes x)) → (∀ p ∈ s.groups, p.2.ctx ≠ c) →
          exec (.ctxcmdResume fn c v) s = .next (ctxEnds (setCtx s c { x with st := .opened, suspended := [], saveCells := none }) c 0)))
      ∧ (v.toNat = 4 → x.st = .opened ∨ x.st = .active ∨ x.st = .suspended → x.busy = false →
        exec (.ctxcmdDestroy fn c v) s = .next (destroyCtx (setCtx s c { x with busy := true }) c)
          ∧ ((∀ p ∈ s.queues, queueOf p.2 c = false ∧ (queueCtx p.2 = c → p.2.cmds = [])) → (∀ k ∈ s.kernels, k.ctx ≠ c) →
              (∀ p ∈ s.barriers, p.2.st = .free ∨ barCtx p.2 ≠ c) → x.trace = none →
            ∃ t y, exec (.ctxcmdDestroy fn c v) s = .next t ∧ ctx t c = y ∧ y.st = .closing ∧ y.busy = true ∧ t.mem = s.mem ∧ t.groups = s.groups))
      ∧ (x.st = .closing → x.destroyDuringSwitch = false → ctxEmpty s c = true → x.busy = true →
        exec (.teardownComplete c) s = .next (ctxEnds (setCtx s c { x with st := .free, suspended := [], saveCells := none }) c 0)))
    ∧ (∀ fn b v x, b < Config.objects → barrier s b = x → reachBarrier s fn b = true → x.cmd = none → x.due = false →
      (v.toNat = 1 → x.st = .free →
        ((ctx s (barCtx x)).st = .free → exec (.bcmdCreate fn b v) s = .next (barEnds s b fn 3))
        ∧ ((ctx s (barCtx x)).st ≠ .free → 1 ≤ barScope x → barScope x ≤ 5 → barExpect x ≠ 0 → (barExt x = true → barScope x = 5) →
          exec (.bcmdCreate fn b v) s = .next (barEnds (setBarrier s b { x with st := .opened, gen := x.gen + 1, phase := 0, arrived := 0, timer := none, parties := [] }) b (ownerOf s (barCtx x)) 0))
        ∧ ((ctx s (barCtx x)).st ≠ .free → ¬ (1 ≤ barScope x ∧ barScope x ≤ 5 ∧ barExpect x ≠ 0 ∧ (barExt x = true → barScope x = 5)) →
          exec (.bcmdCreate fn b v) s = .next (barEnds s b fn 4)))
      ∧ (v.toNat = 2 → x.st ≠ .free →
        ∃ s1, s1 = releaseWaits (setBarrier s b { x with cmd := some (fn, 2, v) }) b true
          ∧ exec (.bcmdReset fn b v) s = .next (barEnds (wakeBarrier (setBarrier s1 b { barrier s1 b with st := .opened, arrived := 0, phase := (barrier s1 b).phase + 1, timer := none, parties := [] }) b) b
              (ownerOf s1 (barCtx (barrier s1 b))) 0))
      ∧ (v.toNat = 3 → x.st ≠ .free →
        ∃ s1, s1 = releaseWaits (setBarrier s b { x with cmd := some (fn, 3, v) }) b true
          ∧ exec (.bcmdDestroy fn b v) s = .next (barEnds (setBarrier s1 b { barrier s1 b with st := .free, cmd := none, due := false, arrived := 0, timer := none, parties := [] }) b (ownerOf s (barCtx x)) 0))
      ∧ exec (.bextdropRead fn b) s = .next (setBarrier s b { x with extdrop := 0 }))
    ∧ (∀ b x t0, barrier s b = x → x.st = .opened → x.timer = some t0 → x.armedTmo ≠ 0 → t0 + x.armedTmo * 1000 ≤ s.dtime →
      ∃ s1 y, exec (.barrierTimeout b) s = .next (setBarrier s1 b y) ∧ s1 = releaseWaits (barTimeoutRecords s b) b true ∧ y = { barrier s1 b with st := .broken, timer := none })
    ∧ (∀ fn b v r x, barrier s b = x → x.st ≠ .free → x.due = false → barExt x = true → reachCtx s fn (barCtx x) = true →
      (x.st = .opened → v = x.phase → exec (.externalArrival fn b 0 4 v r) s = .next (arriveAt s b none))
      ∧ (x.st = .broken ∨ v ≠ x.phase → exec (.externalArrival fn b 0 4 v r) s = .next (setBarrier s b
          { x with extdrop := BitVec.ofNat 32 (min (x.extdrop.toNat + 1) (2 ^ 32 - 1)) })))
    ∧ (∀ b x, barrier s b = x → x.st = .opened → x.due = false →
      (x.arrived + 1 < barExpect x → 0 < x.arrived → arriveAt s b none = setBarrier s b { x with arrived := x.arrived + 1 })
      ∧ (x.arrived = 0 → 1 < barExpect x → arriveAt s b none = setBarrier s b { x with arrived := 1, timer := some s.dtime, armedTmo := x.tmo.toNat })
      ∧ (barExpect x ≤ x.arrived + 1 → (∀ p ∈ s.groups, p.2.image.threads = []) → x.parties = [] → (∀ p ∈ s.queues, p.2.cmds = []) →
        ∃ t, arriveAt s b none = t ∧ (barrier t b).phase = x.phase + 1 ∧ (barrier t b).arrived = 0 ∧ (barrier t b).timer = none ∧ t.mem = s.mem))

/-! ## Groups and gangs -/

/-- R302, R303, R307, R308, R312, R313, R315, R316, R320: the Sluice places a launch or a SAVED group that fits where none more urgent fits, or cuts victims for the most urgent; a placed launch
starts with zero spaces, its windows and its entry's block; a waiting launch is promoted a class, has clusters held for it, and loses urgency with its budget; a deadline is missed once; a
group that has waited for 1,024 cycles is parked.
The model's own choices here: notes/assumptions 97, 114. -/
def Obligations.SluiceDecides : Prop :=
  ∀ (s : State) (g : Nat) (x : Group), GroupAt s g x →
    (∀ pl, s.d3Pending = false → s.wave = none → placeable s x = true → s.level < 2 → (∀ p ∈ (waitingLaunches s).takeWhile (fun p => decide (p.1 ≠ g)), fitsNow s p.1 p.2 [] = false) →
      placeFits (availFor s g []) (dpFree s x []) x.ncl pl = true → placeLiked s g x pl = true →
      let place := pl.zipIdx.map fun (p, i) => (i, p)
      (∀ l, x.state = .admitted → x.gang = none → windowImage s x.ctx x = .ok l →
        ∃ t y, exec (.sluiceDecision g pl []) s = .next t ∧ NowIs s t g y ∧ (ctx t x.ctx).st = .active
          ∧ y = { x with place := place, held := none, placedTime := s.dtime, idleSince := s.cycle, seedPlace := place, cutNo := 1, started := false, loaded := false
                         windows := l, stallcyc := stallcycOf (ctx s x.ctx).stallcyc, samprate := (ctx s x.ctx).samprate.toNat, state := .running })
      ∧ (x.state = .admitted → (∀ cause, windowImage s x.ctx x = .error cause → exec (.sluiceDecision g pl []) s = .next (removeGroup s g x 4 (0x3200 + cause))))
      ∧ (x.state = .saved → x.stopHeld = false → ∀ l, readArea s g x = .ok l →
        ∃ t y, exec (.sluiceDecision g pl []) s = .next t ∧ grp? t g = some y ∧ (ctx t x.ctx).st = .active ∧ y.state = .running ∧ y.place = place ∧ y.cutNo = x.cutNo
          ∧ y.image.threads.map (·.1) = x.image.threads.map (·.1) ∧ y.area = none ∧ y.poolUnits = 0
          ∧ t.mem = (fillSpaces s { x with place := place, held := none, placedTime := s.dtime, idleSince := s.cycle } l).mem))
    ∧ (∀ vs, s.d3Pending = false → s.wave = none → placeable s x = true → s.level < 2 → (waitingLaunches s).head?.map (·.1) = some g → fitsNow s g x [] = false → vs = victimsFor s g x → vs ≠ [] →
      ∃ t, exec (.sluiceDecision g [] vs) s = .next t ∧ t = { s with groups := t.groups }
        ∧ (∀ h ∈ vs, ∀ y, grp? s h = some y → grp? t h = some { y with cutWhy := some .preempt, poolUnits := areaUnits y }) ∧ ∀ h, h ∉ vs → grp? t h = grp? s h)
    ∧ (∀ k e b, Sound s → x.state = .running → x.started = false → kernel? s x.ctx x.kid = some k → (kernelEntries s (copyKey s k))[x.entry]? = some e → e.block = some b →
      ∃ t y, exec (.groupStart g) s = .next t ∧ grp? t g = some y ∧ y.started = true ∧ y.state = .running
        ∧ ∀ th < 4 * x.ncl, ∃ h, thread? t g th = some h ∧ h.run = .running ∧ h.pc = k.imgaddr + dirOff (imgDir s (copyKey s k) b) ∧ h.blocks = [] ∧ h.callers = [] ∧ h.trapMode = false ∧ h.window.tail = x.windows
          ∧ ∃ w, h.window.head? = some w ∧ (∀ j < 10, lane w j = (x.args[j]?).getD 0) ∧ (lane w 10).toNat = g % 2 ^ 64 ∧ (lane w 12).toNat = x.ncl % 2 ^ 64 ∧ (lane w 13).toNat = x.dl % 2 ^ 64)
    ∧ (Runs s g x → x.state = .running → x.idleSince + 1024 ≤ s.cycle → (∀ p ∈ x.image.threads, threadIdle s g p.1 p.2 = true) → gangWaits s g x = false →
      ∃ t, exec (.groupPark g) s = .next t ∧ NowIs s t g { x with state := .parked })
    ∧ (x.state = .admitted ∨ x.state = .saved → 2 ≤ x.effClass → 0 < promoteOf s x.effClass → x.waitStart + promoteOf s x.effClass ≤ s.dtime →
      ∃ t, exec (.promote g) s = .next t ∧ OnlyGroup s t g ∧ NowIs s t g { x with effClass := x.effClass - 1, waitStart := s.dtime })
    ∧ (∀ r, waitingLaunches s = (g, x) :: r → x.effClass ≤ 1 → x.held = none → x.waitStart + 1000000 ≤ s.dtime →
      ∃ t, exec (.clusterHold g) s = .next t ∧ t = { s with groups := t.groups }
        ∧ ∀ h y, grp? s h = some y → grp? t h = some { y with held := if h = g then some 0 else none })
    ∧ (0 < x.budget → x.budget * 1000 ≤ consumed s x →
      ∃ t, exec (.budget g) s = .next t ∧ OnlyGroup s t g ∧ NowIs s t g { x with effClass := 3, key := x.startTime + implOf s 3, budget := 0 })
    ∧ (x.dl ≠ 0 → x.missed = false → x.dl < s.dtime → (∀ p ∈ s.queues, ∀ w ∈ p.2.waiters, w.1 ≠ g) →
      ∃ t, exec (.deadline g) s = .next t ∧ NowIs s t g { x with missed := true })

/-- R128, R276, R309, R310, R311, R317, R318, R319, R367, R368, R369, R370: a configuration that has drained gives way to the next; a group whose threads have halted and whose last configuration
has drained ends with OK; a cut discards blocks in flight and delivers MARK; once it completes it is the rollback point and the group goes on, stops or is saved; a freeze rolls
a group back to its rollback point once, or ends it with FAULT.
The model's own choices here: notes/assumptions 86, 87, 90, 91, 104. -/
def Obligations.GroupsAreCutAndEnd : Prop :=
  ∀ (s : State) (g : Nat) (x : Group),
    (Runs s g x → drained s g x x.config = true → quadBusy x (configQuads s x (x.config + 1)) = false →
      (x.config + 1 < configCount s x → exec (.configDrain g) s = .next (loadConfig (unloadDrained s g x.config) g (x.config + 1)))
      ∧ (configCount s x ≤ x.config + 1 → exec (.configDrain g) s = .next (unloadDrained s g x.config)))
    ∧ (Runs s g x → (∀ p ∈ x.image.threads, p.2.run = .halted) → configCount s x ≤ x.config + 1 → drained s g x x.config = true → x.gang = none →
      (∀ p ∈ x.image.graphs, ∀ t ∈ p.2.tiles, lingers p.2 t.2 = false) → ∃ t, exec (.groupComplete g) s = .next t ∧ GroupEnds t g 0 g)
    ∧ (GroupAt s g x → x.state = .running ∨ x.state = .parked → x.started = true → x.cutWhy ≠ none → x.freeze = none →
      ∃ t y, exec (.cut g) s = .next t ∧ NowIs s t g y ∧ y.state = .cutting ∧ y.cutNo = x.cutNo + 1 ∧ y.cutWhy = x.cutWhy
        ∧ (y.marksGo = true ↔ stoppedVas x = []) ∧ ∀ p ∈ y.image.threads, p.2.blocks = [])
    ∧ (GroupAt s g x → x.state = .cutting → x.marksGo = false → x.saving = false → x.idleSince + 64 ≤ s.cycle → groupOut s g = false →
      ∃ t, exec (.quiescent g) s = .next t ∧ OnlyGroup s t g ∧ NowIs s t g { x with marksGo := true, markStill := true })
    ∧ (CutEnds s g x →
      ∃ t y, exec (.cutComplete g) s = .next t ∧ NowIs s t g y ∧ y.rollback = some (x.cutNo, clearMarks x.cutNo (ringsKept s x)) ∧ y.rollbackUsed = false ∧ y.cutNo = x.cutNo
        ∧ (x.cutWhy = some .check → y.state = .running ∧ y.cutWhy = none)
        ∧ (x.cutWhy = some .debug → y.state = .stopped ∧ y.cutWhy = none ∧ ∀ u d, unitOf s g = some (u, d) → d.st = .stopping → (dbg t u).st = .stopped ∧ (dbg t u).cutNo.toNat = x.cutNo % 2 ^ 32)
        ∧ (x.cutWhy = some .preempt ∨ x.cutWhy = some .suspend → y.state = .cutting ∧ y.saving = true))
    ∧ (GroupAt s g x → Sound s → x.saving = true → (ctx s x.ctx).destroyDuringSwitch = false → (ctx s x.ctx).st ≠ .switching → ∀ pa, poolPlace s (areaUnits x) = some pa →
      ∃ t y, exec (.saveComplete g) s = .next t ∧ grp? t g = some y ∧ y.state = .saved ∧ y.saving = false ∧ y.cutWhy = none ∧ y.area = some pa ∧ y.savedSpaces = spaceCells s x
        ∧ y.image = x.image)
    ∧ (∀ f, GroupAt s g x → s.wave = none → x.freeze = some f → placed x = true → x.gang = none →
      (∀ c im, x.rollback = some (c, im) → x.rollbackUsed = false → x.cutWhy = none →
        ∃ t y, exec (.freezeLine g) s = .next t ∧ grp? t g = some y ∧ y.state = .running ∧ y.freeze = none ∧ y.rollbackUsed = true
          ∧ (Ringless im → t.mem = s.mem)
          ∧ y.image.threads = im.threads.map fun p => (p.1, { p.2 with lastProgress := s.cycle, barWait := p.2.barWait.filter (stillWaits s) }))
      ∧ (x.rollback = none ∨ x.rollbackUsed = true → ∃ t, exec (.freezeLine g) s = .next t ∧ GroupEnds t g 4 (f.code % 256 * 256 + f.cause % 256)))

/-- R325, R326: each member's ARM, GO, GOACK, ALLGO, DONE and GANGDONE move the gang on, a member that disagrees, an ABORT or an expired timer ends its members with GANG_ABORT, and GANGDONE
completes them.
The model's own choices here: notes/assumptions 84. -/
def Obligations.GangsMove : Prop :=
  ∀ (s : State) (id : BitVec 32) (g : Nat) (x : Group) (y : Gang), OnlyMember s id g x y →
    (y.midx = 0 → ∀ m nmem gto,
      let heard := fun y : Gang => { y with pkgs := if m = 0 then y.pkgs else Tab.set y.pkgs m (gangFrom s).toNat }
      (nmem.toNat ≠ y.nmem ∨ gto.toNat ≠ y.gto → ∃ t, exec (.gangArm id m nmem gto) s = .next t ∧ GroupEnds t g 5 0)
      ∧ (nmem.toNat = y.nmem → gto.toNat = y.gto → y.go = false → allMembers y (m :: y.arms) = false →
        ∃ t, exec (.gangArm id m nmem gto) s = .next t ∧ OnlyGroup s t g ∧ GangIs t g x.state (heard { y with arms := m :: y.arms }))
      ∧ (nmem.toNat = y.nmem → gto.toNat = y.gto → y.go = false → x.state = .armed → allMembers y (m :: y.arms) = true → y.goacks = [] → 0 < y.nmem →
        ∃ t, exec (.gangArm id m nmem gto) s = .next t ∧ GangIs t g .running (heard { y with arms := m :: y.arms, go := true, goacks := [0] })))
    ∧ (y.midx ≠ 0 → x.state = .armed → y.go = false → ∃ t, exec (.gangGo id) s = .next t ∧ GangIs t g .running { y with go := true, pkgs := Tab.set y.pkgs 0 (gangFrom s).toNat })
    ∧ (y.midx = 0 → ∀ m, allMembers y (m :: y.goacks) = false → ∃ t, exec (.gangGoack id m) s = .next t ∧ OnlyGroup s t g ∧ GangIs t g x.state { y with goacks := m :: y.goacks })
    ∧ (y.midx = 0 → ∀ m, allMembers y (m :: y.goacks) = true → y.go = true → y.allgo = false → Settled s →
      ∃ t, exec (.gangGoack id m) s = .next t ∧ GangIs t g x.state { y with goacks := m :: y.goacks, allgo := true })
    ∧ (Settled s → ∃ t, exec (.gangAllgo id) s = .next t ∧ GangIs t g x.state { y with allgo := true })
    ∧ (∃ t, exec (.gangAbort id) s = .next t ∧ GroupEnds t g 5 0)
    ∧ (y.midx = 0 → ∀ m, allMembers y (m :: y.dones) = false → ∃ t, exec (.gangDone id m) s = .next t ∧ OnlyGroup s t g ∧ GangIs t g x.state { y with dones := m :: y.dones })
    ∧ (y.midx = 0 → ∀ m, allMembers y (m :: y.dones) = true → y.done = true → ∃ t, exec (.gangDone id m) s = .next t ∧ GroupEnds t g 0 g)
    ∧ (y.done = true → ∃ t, exec (.gangdone id) s = .next t ∧ GroupEnds t g 0 g)
    ∧ (placed x = true → y.allgo = false → y.timerStart + y.gto * 1000 ≤ s.dtime → ∃ t, exec (.gangTimeout g) s = .next t ∧ GroupEnds t g 5 0)

/-! ## Registers, pages, links -/

/-- R269, R282, R296, R314, R347, R351, R352, R385, R462: a register takes what its row lets be written, in the states that allow it; an undefined command code ends with ERR 0x01; a one written
to OVF clears it; RPZERO zeroes units of a region; an invalidation drops the extents of its range, and completes once what used them has performed.
The model's own choices here: notes/assumptions 46, 75, 77. -/
def Obligations.RegistersAndInvalidations : Prop :=
  ∀ (s : State), devReady s = true →
    (∀ fn v, fn < 64 →
      exec (.registerWrite fn 0x2000 v) s = .next (setFn s fn { fnOf s fn with evbase := BitVec.ofNat 64 (v.toNat / 2 ^ 6 * 2 ^ 6) })
      ∧ exec (.registerWrite fn 0x2018 v) s = .next (setFn s fn { fnOf s fn with evcons := v.setWidth 32 })
      ∧ (v.toNat % 2 ^ 5 = 0 ∨ 4 ≤ v.toNat % 2 ^ 5 ∧ v.toNat % 2 ^ 5 ≤ 16 → exec (.registerWrite fn 0x2008 v) s = .next (setFn s fn { fnOf s fn with evsize := v.setWidth 5 }))
      ∧ (v.getLsbD 0 = true → exec (.evstatWrite fn v) s = .next (setFn s fn { fnOf s fn with ovf := false }))
      ∧ (v.getLsbD 0 = false → exec (.evstatWrite fn v) s = .next s)
      ∧ (∀ q x, q < 4096 → queue s q = x → x.st = .free → fn = 0 →
          exec (.registerWrite fn (0x2000000 + 4096 * q + 0x010) v) s = .next (setQueue s q { x with cfg := BitVec.ofNat 64 (v.toNat % 2 ^ 20) })
          ∧ exec (.registerWrite fn (0x2000000 + 4096 * q + 0x018) v) s = .next (setQueue s q { x with qbase := v })
          ∧ (v.toNat % 16 = 0 ∨ 5 ≤ v.toNat % 16 → exec (.registerWrite fn (0x2000000 + 4096 * q) v) s = .next (queueEnds s q 1)))
      ∧ (∀ c x, c < 4096 → ctx s c = x → reachCtx s fn c = true →
          exec (.registerWrite fn (0x1000000 + 4096 * c + 0x238) v) s = .next (setCtx s c { x with pgiva := BitVec.ofNat 64 (v.toNat / 2 ^ 16 % 2 ^ 41 * 2 ^ 16) })
          ∧ exec (.registerWrite fn (0x1000000 + 4096 * c + 0x240) v) s = .next (setCtx s c { x with pgilen := v.setWidth 32 })
          ∧ exec (.registerWrite fn (0x1000000 + 4096 * c + 0x090) v) s = .next (setCtx s c { x with stallcyc := v.setWidth 32 })
          ∧ (x.st ≠ .free → ∀ off, off = 0x218 ∨ off = 0x220 ∨ off = 0x228 ∨ off = 0x230 ∨ off = 0x268 → exec (.registerWrite fn (0x1000000 + 4096 * c + off) v) s = .next s)))
    ∧ (∀ v, exec (.registerWrite 0 0x0050 v) s = .next (if 1000 ≤ v.toNat % 2 ^ 13 ∧ v.toNat % 2 ^ 13 ≤ 6000 then { s with pcap := v.setWidth 13 } else s)
      ∧ (∀ i < 4, ∃ t, exec (.registerWrite 0 (0x4020 + 8 * i) v) s = .next t ∧ t = { s with clscfg := t.clscfg }
          ∧ ∀ j, t.clscfg[j]? = if j = i then (s.clscfg[j]?).map fun _ => v else s.clscfg[j]?)
      ∧ (∀ k < 4096, exec (.registerWrite 0 (0x8000 + 8 * k) v) s = .next { s with rtab := Tab.set s.rtab k (v.setWidth 36) })
      ∧ (s.kernels = [] → exec (.registerWrite 0 0x3000 v) s = .next { s with ccbase := BitVec.ofNat 64 (v.toNat / 2 ^ 16 % 2 ^ 36 * 2 ^ 16) })
      ∧ (0 < ccUsed s → exec (.registerWrite 0 0x3000 v) s = .next s))
    ∧ (∀ fn off v, off % 8 ≠ 0 → exec (.registerWrite fn off v) s = .next s)
    ∧ (∀ die v, die < 8 → Tab.get? s.rpzero die = none →
      let r := (Tab.get s.rpcfg die 0).toNat
      (r % 2 ^ 14 ≤ v.toNat % 2 ^ 14 → v.toNat % 2 ^ 14 + v.toNat / 2 ^ 14 % 2 ^ 14 ≤ r % 2 ^ 14 + r / 2 ^ 14 % 2 ^ 14 →
        exec (.rpzero 0 die v) s = .next { s with rpzero := Tab.set s.rpzero die (v.toNat % 2 ^ 14, v.toNat / 2 ^ 14 % 2 ^ 14) }))
    ∧ (∀ die first count, Tab.get? s.rpzero die = some (first, count) → first + count ≤ 16384 → Memory.wf s.mem = true →
      ∃ t, exec (.rpzeroComplete die) s = .next t ∧ Tab.get? t.rpzero die = none
        ∧ ∀ k, cellRead t.mem k = if dieKey die (first * 65536) ≤ k ∧ k < dieKey die (first * 65536) + count * 65536 then 0 else cellRead s.mem k)
    ∧ (∀ fn c x, c < Config.objects → ctx s c = x → reachCtx s fn c = true →
      ∃ i, exec (.pgicmdStart fn c 1) s = .next (setCtx s c { x with invals := x.invals ++ [i], nextInval := x.nextInval + 1 })
        ∧ i.va = x.pgiva.toNat % 2 ^ 57 / 65536 * 65536 ∧ i.pginv = none ∧ i.started = false
        ∧ i.n = if x.pgilen.toNat = 0 then 0 else min x.pgilen.toNat ((2 ^ 57 - x.pgiva.toNat % 2 ^ 57 / 65536 * 65536) / 65536))
    ∧ (∀ c x i rest, ctx s c = x → x.invals = i :: rest → i.started = false → i.pginv = none → (∀ p ∈ s.groups, p.2.ctx ≠ c) → (∀ p ∈ s.clusters, p.2.writeq = []) →
      ∃ t, exec (.invalidation c) s = .next t ∧ (ctx t c).invals = rest ∧ (ctx t c).pgidone = x.pgidone + 1 ∧ t.mem = s.mem
        ∧ ∀ h, ∀ e ∈ Tab.get t.extents h [], e ∈ Tab.get s.extents h [] ∧ (e.ctx = c → i.n ≠ 0 ∧ (i.va + i.n * 65536 ≤ e.base ∨ e.base + 2 ^ e.size ≤ i.va)))

/-- R386, R389, R390, R391, R392, R403: ENABLE and RETRAIN put a link in TRAINING, where it trains within 10 ms or goes DOWN with ERR 0x08; DISABLE takes it DOWN; a failed lane narrows it, its
last lane and the eighth resend of a flit fail it; flits are checked by CRC and SEQ, GRANTED and SENT move forward only; a read of the counters clears them; link 36 fails and comes back.
The model's own choices here: notes/assumptions 41, 49, 50, 51, 54, 56, 153. -/
def Obligations.LinksComplete : Prop :=
  ∀ (s : State) (n : Nat) (l : Link), QuietLink s n l →
    (∀ v : Word, v.toNat = 1 → l.busy = false → l.st = .down → ∃ t, exec (.lcmdEnable 0 n v) s = .next t ∧ link t n = { l with st := .training, busy := true, trainStart := s.dtime, lanes := 0 } ∧ t.mem = s.mem)
    ∧ (∀ v : Word, v.toNat = 2 → l.busy = false → l.st ≠ .down → ∃ t, exec (.lcmdDisable 0 n v) s = .next t
        ∧ link t n = { l with st := .down, peerKeys := false, ownKeys := false, revoking := false, lanes := 0, busy := false, err := 0 })
    ∧ (∀ v : Word, v.toNat = 3 → l.busy = false → l.st = .up ∨ l.st = .failed → ∃ t, exec (.lcmdRetrain 0 n v) s = .next t
        ∧ link t n = { l with st := .training, peerKeys := false, ownKeys := false, revoking := false, busy := true, trainStart := s.dtime, lanes := 0 })
    ∧ (∀ lanes sw peer, l.st = .training → s.dtime ≤ l.trainStart + 10000000 → fullGroup lanes = true →
      ∃ t l', exec (.linkTrained n lanes sw peer none) s = .next t ∧ link t n = l' ∧ l'.st = .up ∧ l'.lanes = lanes ∧ l'.peersw = sw ∧ l'.peer = peer ∧ l'.replayed = 0 ∧ l'.crcFail = 0
        ∧ l'.resyncs = 0 ∧ l'.sent = [0, 0, 0] ∧ l'.seqs = [] ∧ l'.epoch = l.epoch ∧ l'.busy = false)
    ∧ (l.st = .training → l.trainStart + 10000000 ≤ s.dtime → ∃ t, exec (.trainingTimeout n) s = .next t ∧ link t n = { l with st := .down, err := 8, busy := false })
    ∧ (∀ lane < 16, linkCounts l = true → l.lanes.getLsbD lane = true →
      (l.lanes &&& ~~~(1#16 <<< lane) = 0 → l.st = .up → ∃ t, exec (.laneFail n lane) s = .next t ∧ (link t n).st = .failed ∧ (link t n).lanes = 0)
      ∧ (l.lanes.getLsbD (lane ^^^ 1) = true → (∃ g < 8, l.packetGroups.getLsbD g = true ∧ (l.lanes.getLsbD (2 * g) && l.lanes.getLsbD (2 * g + 1)) = true) →
        ∃ t, exec (.laneFail n lane) s = .next t ∧ link t n = { l with lanes := l.lanes &&& ~~~(1#16 <<< lane) } ∧ t.mem = s.mem))
    ∧ (l.st = .up → (∃ q ∈ l.seqs, ∃ f ∈ q.2.replay, 8 ≤ f.2) → ∃ t, exec (.replayLimit n) s = .next t ∧ (link t n).st = .failed)
    ∧ exec (.lreplayRead 0 n) s = .next (setLink s n { l with replayed := 0, crcFail := 0 })
    ∧ exec (.lresyncRead 0 n) s = .next (setLink s n { l with resyncs := 0 })
    ∧ (∀ q (f : FlitIn), linkCounts l = true → q ≤ 6 →
      let x := seqOfLink l q
      (f.crcOk = false ∨ 5 ≤ f.ftype.toNat ∨ f.resv ≠ 0 → exec (.flit n q f) s = .next (nakSent (setLink s n { l with crcFail := l.crcFail + 1, seqs := Tab.set l.seqs q { x with nakOwed := true } }) n q x))
      ∧ (f.crcOk = true → f.resv = 0 → f.ftype = 0 → f.nak = false → (∀ r ∈ x.replay, (f.ack - BitVec.ofNat 12 r.1).toNat < 2048) → (l.accepted + 1) % 1024 ≠ 0 →
        (f.seq = x.rxSeq → f.tagOk = true →
          exec (.flit n q f) s = .next (setLink s n { l with seqs := Tab.set l.seqs q { x with replay := [], rxSeq := x.rxSeq + 1, nakOwed := false }, accepted := l.accepted + 1 }))
        ∧ (f.seq ≠ x.rxSeq →
          let t := setLink s n { l with seqs := Tab.set l.seqs q { x with replay := [], nakOwed := true } }
          exec (.flit n q f) s = .next (if x.nakOwed then t else nakSent t n q x))
        ∧ (f.seq = x.rxSeq → f.tagOk = false → l.st = .trusted → s.wave = none → ∃ t, exec (.flit n q f) s = .next t ∧ t.fatal = 0x41 ∧ t.wave ≠ none)))
    ∧ (∀ g0 g1 g2, linkCounts l = true → exec (.creditFlit n g0 g1 g2) s = .next (setLink s n { l with granted := l.granted.zipWith laterCount [g0, g1, g2] }))
    ∧ (∀ g0 g1 g2 r0 r1 r2, linkCounts l = true →
      ∃ t l' p, exec (.resyncFlit n g0 g1 g2 r0 r1 r2) s = .next t ∧ link t n = l' ∧ l'.granted = l.granted.zipWith laterCount [g0, g1, g2] ∧ l'.sent = l.sent.zipWith laterCount [r0, r1, r2]
        ∧ t.outbox = s.outbox ++ [(n, 32, p)] ∧ p.data = (l.rgranted ++ l.rcount).flatMap fun x => bytesOf 4 x.toNat)
    ∧ ((link s 36).st ≠ .failed → s.pcie = [] → ∃ t, exec .hostLinkFail s = .next t ∧ link t 36 = { link s 36 with st := .failed } ∧ t.mem = s.mem)
    ∧ ((link s 36).st ≠ .up → ∃ t, exec .hostLinkUp s = .next t ∧ link t 36 = { link s 36 with st := .up } ∧ t.mem = s.mem)

/-- R346, R388, R393, R394, R395, R397, R398, R402, R413, R415: the home of a peer access reads, writes or performs it and responds, or refuses; an invocation waits at its MTINV; a response ends
its request with its data or as a refusal; a circuit begins, is released and completes; steps, plan requests and plans of a collective reach its meeting; 1 ms without a response
ends a request as unreachable.
The model's own choices here: notes/assumptions 41, 42, 43, 44, 153. -/
def Obligations.PacketsComplete : Prop :=
  ∀ (s : State) (n : Nat) (p : Packet), PacketGo s n p → Sound s →
    (∀ len s2, p.flag.toNat = len → 0 < len → len ≤ 992 → p.va.toNat % 65536 + len ≤ 65536 → homeHeld s p.hasid.toNat p.va.toNat = false →
      (∀ k, homePlace (taken s n 0 p) p.hasid.toNat p.jobid.toNat p.va.toNat .read = (s2, some (.store k)) → RoomFor s n p len →
        ∃ t, exec (.readRequest n p) s = .next t ∧ Responds s t n 1 p 0 (rdBytes s k len) ∧ t.mem = s.mem)
      ∧ (homePlace (taken s n 0 p) p.hasid.toNat p.jobid.toNat p.va.toNat .read = (s2, none) → RoomFor s n p 0 →
        ∃ t, exec (.readRequest n p) s = .next t ∧ Responds s t n 1 p 1 [] ∧ t.mem = s.mem))
    ∧ (p.flag.toNat = 0 ∨ 992 < p.flag.toNat → homeHeld s p.hasid.toNat p.va.toNat = false → RoomFor s n p 0 → ∃ t, exec (.readRequest n p) s = .next t ∧ Responds s t n 1 p 1 [] ∧ t.mem = s.mem)
    ∧ (∀ s2, p.dst ≠ 0xFFF → p.va.toNat % 65536 + p.data.length ≤ 65536 → homeHeld s p.hasid.toNat p.va.toNat = false → RoomFor s n p 0 →
      (∀ k, homePlace (taken s n 2 p) p.hasid.toNat p.jobid.toNat p.va.toNat .write = (s2, some (.store k)) →
        ∃ t, exec (.writeRequest n p) s = .next t ∧ Responds s t n 3 p 0 [] ∧ t.mem = cellsWrite s.mem k p.data)
      ∧ (homePlace (taken s n 2 p) p.hasid.toNat p.jobid.toNat p.va.toNat .write = (s2, none) → ∃ t, exec (.writeRequest n p) s = .next t ∧ Responds s t n 3 p 1 [] ∧ t.mem = s.mem))
    ∧ (∀ op t k s2, p.flag.toNat = AtomOp.code op * 16 + Ty.code t → atomicTy op t → p.va.toNat % (Ty.width t / 8) = 0 → homeHeld s p.hasid.toNat p.va.toNat = false →
      homePlace (taken s n 4 p) p.hasid.toNat p.jobid.toNat p.va.toNat .atomic = (s2, some (.store k)) → RoomFor s n p (Ty.width t / 8) →
        let w := Ty.width t
        ∃ t', exec (.atomicRequest n p) s = .next t' ∧ Responds s t' n 5 p 0 (bytesOf (w / 8) (rdNum s k (w / 8)))
          ∧ t'.mem = cellsWrite s.mem k (bytesOf (w / 8) (atomicResult op t (rdNum s k (w / 8)) (natOfBytes (p.data.take 8) % 2 ^ w) (natOfBytes ((p.data.drop 8).take 8) % 2 ^ w))))
    ∧ (∀ c leaf size s2 g gi, homeCtx s p.hasid.toNat = some c → invalBlocks s c p.va.toNat = false → (ctx s c).ctxjob.toNat = 2 ^ 32 + p.jobid.toNat →
      homeTranslate (taken s n 6 p) c p.va.toNat = (s2, .ok (leaf, size)) → entryKind leaf = 2 → invTarget s2 c (leaf.toNat / 2 ^ 16 % 2 ^ 18) = some (g, gi) →
        exec (.invocation n p) s = .next (invoke s2 g gi (leaf.toNat / 2 ^ 16 % 2 ^ 18) .none 0 (some (n, p)) false (BitVec.ofNat 64 (natOfBytes (p.data.take 8)))))
    ∧ (∀ i ptype data refused r,
      (i = .readResponse n p ∧ ptype = 1 ∧ data = p.data ∧ refused = p.flag.getLsbD 0) ∨ (i = .writeAcknowledgement n p ∧ ptype = 3 ∧ data = [] ∧ refused = p.flag.getLsbD 0)
        ∨ (i = .atomicResponse n p ∧ ptype = 5 ∧ data = p.data ∧ refused = p.flag.getLsbD 0)
        ∨ (i = .invocationResult n p ∧ ptype = 7 ∧ data = (if p.flag.getLsbD 0 then [] else p.data.take 8) ∧ refused = p.flag.getLsbD 1) →
      s.reqs.find? (fun r => decide (r.tag = p.tag.toNat) && decide (r.ptype = ptype - 1) && decide (r.home = p.src.toNat)) = some r →
        (refused = false → exec i s = .next (afterStores (answer (answered (unqueue (taken s n ptype p) r) r.tag) r.dest data)))
        ∧ (refused = true → exec i s = .next (afterStores (refuse (answered (unqueue (taken s n ptype p) r) r.tag) r.dest r.ptype r.pkt 6))))
    ∧ (∀ r g th j, s.reqs.find? (fun r => decide (r.tag = p.tag.toNat) && decide (r.home = 0xFFF)) = some r → r.dest = .multicast g th j → j % 128 = 64 →
      exec (.multicastAcknowledgement n p) s = .next (afterStores ((List.range r.pkt.flag.toNat).foldl (fun s m =>
        engAnswer s g th .cl (memberKey (m + 128 * (j / 128))) [if (natOfBytes (p.data.take 8)).testBit m then 1 else 0]) (answered (taken s n 11 p) r.tag))))
    ∧ (p.flag = 0 → natOfBytes ((p.data.drop 64).take 8) < 6 → (∀ c ∈ s.hcircs, ¬ (c.link = n ∧ c.lg = natOfBytes ((p.data.drop 64).take 8))) →
      (agFrameOf (BitVec.ofNat 256 (natOfBytes (p.data.take 32)))).wr = true → 8 ≤ Ty.width (agFrameOf (BitVec.ofNat 256 (natOfBytes (p.data.take 32)))).ty →
      ∃ t c, exec (.circuitSetup n p) s = .next t ∧ t.hcircs = s.hcircs ++ [c] ∧ c.link = n ∧ c.lg = natOfBytes ((p.data.drop 64).take 8) ∧ c.src = p.src.toNat ∧ c.hasid = p.hasid.toNat
        ∧ c.tag = p.tag.toNat ∧ c.count = 0 ∧ c.buf = [] ∧ c.ended = false ∧ c.bad = false ∧ c.frame.toNat = natOfBytes (p.data.take 32))
    ∧ (∀ c, p.flag = 2 → s.hcircs.find? (fun c => decide (c.link = n) && decide (c.src = p.src.toNat) && decide (c.tag = p.tag.toNat)) = some c → RoomFor s n p 8 →
      ∃ t, exec (.circuitSetup n p) s = .next t ∧ Responds s t n 8 p 1 (bytesOf 8 c.count) ∧ ∀ d ∈ t.hcircs, ¬ (d.link = c.link ∧ d.lg = c.lg))
    ∧ (∀ r, p.flag.getLsbD 0 = true → s.reqs.find? (fun r => decide (r.tag = p.tag.toNat) && decide (r.ptype = 8) && decide (r.home = p.src.toNat)) = some r →
      exec (.circuitCompletion n p) s = .next (afterStores (circEnds (taken s n 11 p) r (p.flag.getLsbD 1) (natOfBytes (p.data.take 8)))))
    ∧ (∀ i, (i = .collectiveStep n p ∧ stepKind p < 3) ∨ (i = .planRequest n p ∧ stepKind p = 3) ∨ (i = .plan n p ∧ stepKind p = 4) →
      let num := natOfBytes (p.data.take 4)
      let rank := natOfBytes (p.data.take 8) / 2 ^ 32 % 256
      let rest := p.data.drop 16
      let words := (List.range (rest.length / 8)).map fun i => natOfBytes ((rest.drop (8 * i)).take 8)
      ∃ t m, exec i s = .next t ∧ t.mem = s.mem ∧ m ∈ t.meetings ∧ m.job = p.jobid.toNat ∧ m.commid = p.va.toNat ∧ m.num = num
        ∧ (stepKind p = 0 → Tab.get? m.heads rank = some words) ∧ (stepKind p = 2 → m.failed ≠ 0 ∨ natOfBytes ((p.data.drop 8).take 8) = 0)
        ∧ (stepKind p = 3 → Tab.get? m.reqs rank = some words) ∧ (stepKind p = 4 → m.plan = some (natOfBytes ((p.data.drop 8).take 8))))
    ∧ (∀ (tag : BitVec 20) r, s.reqs.find? (fun r => decide (r.tag = tag.toNat)) = some r → r.ptype ≠ 8 → r.sent + 1000000 ≤ s.dtime → (∀ g th j, r.dest = .multicast g th j → j % 128 ≠ 64) → (∀ q ∈ s.groups, q.2.gang = none) →
      exec (.requestTimeout tag) s = .next (afterStores (refuse (answered (unqueue s r) r.tag) r.dest r.ptype r.pkt 6)))

/-! ## Trust domains, debug units, the recorder -/

/-- R405, R406, R407, R409, R410, R417, R419, R272: OPEN takes a job key and a manifest's entries; ATTEST begins on an UP link; a response whose measurements match an entry of the manifest makes
the link TRUSTED, any other one and 200 ms without one leave it UP; the peer's own attestation; REVOKE retrains a link without traffic and destroys its keys; CLOSE frees a slot that
holds no link; IDE_KM sets the coverage of a function.
The model's own choices here: notes/assumptions 50, 57, 59, 60, 121. -/
def Obligations.TrustCompletes : Prop :=
  ∀ (s : State),
    (∀ j x v, JobCmdOk s j x v 1 false →
      (x.st = .free → exec (.jcmdOpen 0 j v) s = .next (match openJob s j with
        | .error e => jobEnds s j 1 e
        | .ok (key, es) => jobEnds (setJob { s with pairCounts := s.pairCounts.filter (fun p => decide (p.1 / 4096 ≠ x.jobid.toNat))
                                                    nonces := s.nonces.filter fun p => decide (p.1 / 4096 ≠ x.jobid.toNat) } j
            { x with st := .opened, key := some key, entries := es, trusted := 0, reducers := 0 }) j 1 0))
      ∧ (x.st ≠ .free → exec (.jcmdOpen 0 j v) s = .next (jobEnds s j 1 2)))
    ∧ (∀ j x v n l, JobCmdOk s j x v 2 true → n = v.toNat / 2 ^ 8 → link s n = l → x.st = .opened →
      (l.st ≠ .up ∨ l.heldBy = true → exec (.jcmdAttest 0 j v) s = .next (jobEnds s j 2 0x0A))
      ∧ (l.st = .up → l.heldBy = false → ∃ t, exec (.jcmdAttest 0 j v) s = .next t ∧ job t j = { x with busy := true } ∧ t.mem = s.mem
          ∧ link t n = { l with st := .attesting, attestJob := some j, attestStart := s.dtime, ownKeys := false }))
    ∧ (∀ n j l x, AttestAt s n j l → job s j = x → l.ownKeys = false →
      (∀ digest, ∃ t, exec (.spdmResponse n false digest) s = .next t ∧ (link t n).st = .up ∧ (link t n).attestJob = none ∧ (job t j).err = 6 ∧ (job t j).busy = false)
      ∧ (∀ digest, (∀ e ∈ x.entries, ¬ (e.1 = digest ∧ e.2.1 = l.peersw)) →
        ∃ t, exec (.spdmResponse n true digest) s = .next t ∧ (link t n).st = .up ∧ (job t j).err = 9 ∧ (job t j).busy = false)
      ∧ (∀ digest e, x.entries.find? (fun e => decide (e.1 = digest) && e.2.1 == l.peersw) = some e → l.peersw = true ∨ l.peerKeys = true →
        ∃ t, exec (.spdmResponse n true digest) s = .next t ∧ (link t n).st = .trusted ∧ (link t n).epoch = l.epoch + 1 ∧ (link t n).heldBy = true ∧ (link t n).jobSlot = j
          ∧ (job t j).trusted.getLsbD n = true ∧ (job t j).err = 0 ∧ (job t j).busy = false)
      ∧ (l.attestStart + 200000000 ≤ s.dtime → ∃ t, exec (.spdmTimeout n) s = .next t ∧ (link t n).st = .up ∧ (job t j).err = 6 ∧ (job t j).busy = false)
      ∧ (l.peersw = false → ∃ t, exec (.peerAttestationRequest n false false) s = .next t ∧ (link t n).st = .up ∧ (job t j).err = 6))
    ∧ (∀ n j l, AttestAt s n j l → l.peersw = false → l.ownKeys = true →
      ∃ t, exec (.peerAttestationRequest n true true) s = .next t ∧ (link t n).st = .trusted ∧ (link t n).peerKeys = true ∧ (link t n).epoch = l.epoch + 1)
    ∧ (∀ j x v n l, JobCmdOk s j x v 3 true → n = v.toNat / 2 ^ 8 → link s n = l → x.st = .opened →
      (l.heldBy = false ∨ l.jobSlot ≠ j → exec (.jcmdRevoke 0 j v) s = .next (jobEnds s j 3 0x0A))
      ∧ (l.heldBy = true → l.jobSlot = j → exec (.jcmdRevoke 0 j v) s = .next (setLink (setJob s j { x with busy := true }) n { l with revoking := true })))
    ∧ (∀ n l x, devReady s = true → n < 36 → link s n = l → l.revoking = true → l.heldBy = true → l.attestJob = none → job s l.jobSlot = x → x.st = .opened → l.holders = [] → linkBusy s n = false →
        (∀ c ∈ s.hcircs, c.link ≠ n) → (∀ q ∈ s.groups, q.2.gang = none) → Settled s →
      ∃ t, exec (.revokeComplete n) s = .next t ∧ (link t n).st = .training ∧ (link t n).heldBy = false ∧ (link t n).ownKeys = false ∧ (link t n).peerKeys = false ∧ (link t n).revoking = false
        ∧ (link t n).lanes = 0 ∧ (job t l.jobSlot).busy = false ∧ (job t l.jobSlot).err = 0 ∧ (job t l.jobSlot).trusted = x.trusted &&& ~~~(1#36 <<< n))
    ∧ (∀ j x v, JobCmdOk s j x v 4 false → x.st = .opened →
      ((∃ p ∈ s.contexts, p.2.st ≠ .free ∧ p.2.ctxjob.toNat = 2 ^ 32 + x.jobid.toNat) → exec (.jcmdClose 0 j v) s = .next (jobEnds s j 4 2))
      ∧ ((∀ p ∈ s.contexts, p.2.st = .free ∨ p.2.ctxjob.toNat ≠ 2 ^ 32 + x.jobid.toNat) → (∀ p ∈ s.links, p.2.heldBy = false ∨ p.2.jobSlot ≠ j) →
        ∃ t, exec (.jcmdClose 0 j v) s = .next t ∧ job t j = { x with st := .free, key := none, entries := [], trusted := 0, reducers := 0, busy := false, err := 0 }))
    ∧ (∀ ide fns, devReady s = true →
      ∃ t, exec (.spdmRequest ide fns) s = .next t ∧ t = { s with fns := t.fns } ∧ ∀ f, fnOf t f = if f < 64 ∧ f ∈ fns then { fnOf s f with ide := ide } else fnOf s f)

/-- R373, R430, R431, R432, R433, R434, R437, R444, R445, R448, R449, R450: debug-unit commands attach, stop, read, resume and let go a group, in the states that allow them; a fatal fault starts
the freeze wave, each cluster stops with its FREEZE record, the last one freezes the module, and SEC seals its capsule; a view is exported and the capsule acknowledged; FLIP inverts
two data bits of a word and breaks its check bits.
The model's own choices here: notes/assumptions 58, 61, 63, 65, 71. -/
def Obligations.DebugCompletes : Prop :=
  ∀ (s : State),
    (∀ u d v x, UnitCmdOk s u d v 1 → d.st = .free → grp? s (d.grp.toNat % 2 ^ 16) = some x → x.ctx = d.grp.toNat / 2 ^ 16 % 2 ^ 12 → x.ending = none → x.state ≠ .admitted →
      ((ctx s x.ctx).conf = true ∨ (ctx s x.ctx).dbgcons.getLsbD 1 = false → exec (.dbgcmdAttach 0 u v) s = .next (unitEnds s u 5))
      ∧ ((ctx s x.ctx).conf = false → (ctx s x.ctx).dbgcons.getLsbD 1 = true → (∀ p ∈ s.dbgs, p.2.st = .free ∨ p.2.grp.toNat % 2 ^ 16 ≠ d.grp.toNat % 2 ^ 16) →
        ∃ t, exec (.dbgcmdAttach 0 u v) s = .next t ∧ (dbg t u).st = .attached ∧ (dbg t u).err = 0 ∧ (dbg t u).grp = d.grp ∧ grp? t (d.grp.toNat % 2 ^ 16) = some x))
    ∧ (∀ u d v, UnitCmdOk s u d v 2 → d.st ≠ .free →
      (∀ x, grp? s (d.grp.toNat % 2 ^ 16) = some x → x.state = .stopped → (ctx s x.ctx).st ≠ .switching →
        ∃ t y, exec (.dbgcmdDetach 0 u v) s = .next t ∧ (dbg t u).st = .free ∧ (dbg t u).wpcfg = [] ∧ (dbg t u).tbcfg = [] ∧ grp? t (d.grp.toNat % 2 ^ 16) = some y ∧ y.state = .running)
      ∧ (grp? s (d.grp.toNat % 2 ^ 16) = none → ∃ t, exec (.dbgcmdDetach 0 u v) s = .next t ∧ (dbg t u).st = .free ∧ (dbg t u).err = 0))
    ∧ (∀ u d v x, UnitCmdOk s u d v 3 → d.st = .attached → grp? s (d.grp.toNat % 2 ^ 16) = some x → x.gang = none → x.cutWhy = none → x.state ≠ .saved →
      ∃ t y, exec (.dbgcmdStop 0 u v) s = .next t ∧ (dbg t u).st = .stopping ∧ (dbg t u).why = 0 ∧ (dbg t u).err = 0 ∧ grp? t (d.grp.toNat % 2 ^ 16) = some y ∧ y.cutWhy = some .debug)
    ∧ (∀ u d v x, UnitCmdOk s u d v 4 → d.st = .stopped → Tab.get? s.dbgs u = some d → grp? s (d.grp.toNat % 2 ^ 16) = some x → x.gang = none → x.state = .stopped → (ctx s x.ctx).st ≠ .switching →
      ∃ t y, exec (.dbgcmdResume 0 u v) s = .next t ∧ (dbg t u).st = .attached ∧ (dbg t u).err = 0 ∧ grp? t (d.grp.toNat % 2 ^ 16) = some y ∧ y.state = .running)
    ∧ (∀ u d v x n, UnitCmdOk s u d v 5 → d.st = .stopped → grp? s (d.grp.toNat % 2 ^ 16) = some x → Sound s →
      (dbgRead s (d.grp.toNat % 2 ^ 16) x d.sel = (some n, false) → exec (.dbgcmdRead 0 u v) s = .next (unitEnds (setDbg s u { d with data := BitVec.ofNat 64 n }) u 0))
      ∧ (dbgRead s (d.grp.toNat % 2 ^ 16) x d.sel = (none, false) → exec (.dbgcmdRead 0 u v) s = .next (unitEnds (setDbg s u { d with data := 0 }) u 8))
      ∧ (∀ k rank off, d.sel.toNat = off + rank * 2 ^ 49 → off < 2 ^ 32 → rank < x.ncl → rank < 2 ^ 9 → padKey x .up (physCluster x rank) 8 off = some k →
        dbgRead s (d.grp.toNat % 2 ^ 16) x d.sel = (some (natOfBytes (rdBytes s k 8)), false)))
    ∧ (coreUp s = true → s.wave = none →
      (∃ t w, exec .secWdog s = .next t ∧ t.fatal = 0x43 ∧ t.wave = some w ∧ w.code = 0x43 ∧ w.origin = none ∧ w.next = 0 ∧ w.todo = waveOrder s none)
      ∧ (∀ cl detail, s.present.getLsbD cl = true →
        ∃ t w, exec (.securityViolation cl detail) s = .next t ∧ t.fatal = 0x42 ∧ t.wave = some w ∧ w.code = 0x42 ∧ w.origin = some cl ∧ w.next = 0 ∧ w.todo = waveOrder s (some cl)))
    ∧ (∀ w cl rest skid, s.power = true → s.wave = some w → w.todo = cl :: rest →
      (cl < 288 → (cluster s cl).frozen = none → s.capsule.resetPending = false →
        ∃ t w', exec (.freezeWave cl skid) s = .next t ∧ (cluster t cl).frozen = some (w.next, skid.toNat) ∧ (cluster t cl).ringq = [] ∧ t.wave = some w' ∧ w'.todo = rest ∧ w'.next = w.next + 1
          ∧ (rest ≠ [] → t.dev = s.dev) ∧ (rest = [] → t.dev = .frozen ∧ (s.capsule.held = false → t.capsule.sealing = true)))
      ∧ (cl = 288 → rest ≠ [] → ∃ t w', exec (.freezeWave cl skid) s = .next t ∧ t.wave = some w' ∧ w'.hub = true ∧ w'.todo = rest ∧ devReady t = false ∧ t.mem = s.mem))
    ∧ (∀ w, s.power = true → s.wave = some w → w.todo = [] → s.capsule.sealing = true →
      (s.capsule.resetPending = false → ∃ t, exec .capsuleSeal s = .next t ∧ t.capsule.held = true ∧ t.capsule.sealing = false ∧ t.capsule.cseq = s.capsule.cseq + 1 ∧ t.capsule.ftime = w.time
        ∧ t.capsule.stime = s.dtime ∧ t.capsule.presentMap = s.present ∧ t.mem = s.mem)
      ∧ (s.capsule.resetPending = true → ∃ t, exec .capsuleSeal s = .next t ∧ t.capsule.held = true ∧ t.capsule.cseq = s.capsule.cseq + 1 ∧ t.dev = .booting ∧ t.groups = [] ∧ t.dtime = s.dtime))
    ∧ (∀ fn x, fn < 64 → s.power = true → s.dstate = 0 → fnOf s fn = x → x.capBusy = false →
      (∀ v full tenant, v.toNat = 1 + tenant * 2 ^ 4 + boolBit full * 2 ^ 16 → tenant < 2 ^ 12 →
        (s.capsule.held = false → exec (.capcmdExport fn v) s = .next (capEnds s fn 2))
        ∧ (s.capsule.held = true → x.caplen.toNat < 113335296 → exec (.capcmdExport fn v) s = .next (capEnds s fn 4))
        ∧ (s.capsule.held = true → 113335296 ≤ x.caplen.toNat → fn = 0 →
          exec (.capcmdExport fn v) s = .next (setFn s fn { x with capBusy := true, exportWhat := some (full, tenant, x.capbuf.toNat) })))
      ∧ (∀ v : Word, v.toNat = 2 + s.capsule.cseq.toNat * 2 ^ 32 →
        (s.capsule.held = false → fn = 0 → exec (.capcmdAck fn v) s = .next (capEnds s fn 2))
        ∧ (fn ≠ 0 → exec (.capcmdAck fn v) s = .next (capEnds s fn 5))
        ∧ (s.capsule.held = true → fn = 0 → ∃ t, exec (.capcmdAck fn v) s = .next t ∧ t.capsule.held = false ∧ t.capsule.cseq = s.capsule.cseq ∧ (fnOf t 0).capErr = 0)))
    ∧ (∀ fn x full tenant dest, s.power = true → s.dstate = 0 → fnOf s fn = x → x.exportWhat = some (full, tenant, dest) → s.capsule.held = true → dest < 2 ^ 40 ∨ hostUp s = true →
      ∃ s1 k, exec (.exportComplete fn true) s = .next (capEnds (setFn s1 fn { fnOf s1 fn with exportWhat := none, capdone := k }) fn 0) ∧ k.toNat = 113335296
        ∧ s1.mem = cellsWrite s.mem (physKey dest) ((viewBytes' s.capsule (if full then none else some tenant)).take 113335296))
    ∧ (∀ v cl sp o k, devReady s = true → v.toNat = 1 + cl * 2 ^ 4 + sp * 2 ^ 13 → cl < 288 → sp < 3 → o = s.einjoff.toNat → sp = 2 ∨ o < 2 ^ 23 → s.present.getLsbD cl = true →
      (∀ p ∈ s.groups, placed p.2 = true → cl ∈ clustersOf p.2 → (ctx s p.2.ctx).conf = false) → k = (if sp = 0 then upKey cl o else if sp = 1 then cpKey cl o else bsKey cl o) →
      ∃ s1, exec (.einjcmdFlip 0 v) s = .next (flipEnds s1 0) ∧ s1.mem = cellWrite s.mem k (cellRead s.mem k ^^^ 3#8) ∧ s1.einjcount = s.einjcount + 1
        ∧ (k / 8 ∉ s.poison → k / 8 ∈ s1.poison) ∧ (k / 8 ∈ s.poison → k / 8 ∉ s1.poison) ∧ ∀ w, w ≠ k / 8 → (w ∈ s1.poison ↔ w ∈ s.poison))

/-! ## Resets, bring-up, power -/

/-- R438, R457, R458, R459, R460, R461, R462, R463, R464, R466: power-good starts DTIME at 0 and bring-up at step 1; each step ends in the next one, in RECOVERY or in FAILED; a recovery image
that verifies resumes bring-up; a warm reset keeps the capsule, SEC's count and DTIME; a function-level reset destroys the function's contexts; sags, temperature and power change the
droop counts and LEVEL; gating loses a cluster's pads; D3hot saves what holds clusters and D0 ungates; the management controller is answered.
The model's own choices here: notes/assumptions 66, 67, 69, 71, 72, 73, 80, 81. -/
def Obligations.PowerCompletes : Prop :=
  ∀ (s : State),
    (s.power = false → ∃ t, exec .powerGood s = .next t ∧ t.power = true ∧ t.dev = .booting ∧ t.bootStep = 1 ∧ t.dtime = 0 ∧ t.dstate = 0 ∧ t.groups = [] ∧ t.contexts = [] ∧ t.pcap = 0x15E0
        ∧ t.capsule.held = false ∧ t.capsule.cseq = s.capsule.cseq ∧ ∀ c ∈ t.mem, 2 ^ 64 ≤ c.1)
    ∧ (s.power = true → ∃ t, exec .powerLoss s = .next t ∧ t.power = false ∧ t.groups = [] ∧ t.capsule.held = false ∧ t.capsule.cseq = s.capsule.cseq)
    ∧ (s.power = true → s.dev = .booting → ∀ failed atomok,
      (s.bootStep = 1 → exec (.bringupStep true failed atomok) s = .next { s with bootStep := 2 }
        ∧ exec (.bringupStep false failed atomok) s = .next { s with dev := .recovery, booterr := 1 })
      ∧ (s.bootStep = 2 → ∃ t, exec (.bringupStep true failed atomok) s = .next t ∧ t = { s with bootStep := 3, present := t.present }
          ∧ ∀ c, t.present.getLsbD c = true ↔ c < 288 ∧ c ∉ failed)
      ∧ (s.bootStep = 3 → exec (.bringupStep true failed atomok) s = .next { s with bootStep := 4 }
        ∧ exec (.bringupStep false failed atomok) s = .next { s with dev := .failed, booterr := 3 })
      ∧ (s.bootStep = 4 → exec (.bringupStep false failed atomok) s = .next { s with dev := .failed, booterr := 4 }
        ∧ ∃ t, exec (.bringupStep true failed atomok) s = .next t ∧ t.bootStep = 5 ∧ (∀ c ∈ t.mem, c.1 < 2 ^ 60 ∨ 2 ^ 64 ≤ c.1)
            ∧ ∀ c < 288, s.present.getLsbD c = true → (cluster t c).ring.length = 1 ∧ (cluster t c).lastTime = some s.dtime)
      ∧ (s.bootStep = 5 → ∃ t, exec (.bringupStep true failed atomok) s = .next t ∧ t.dev = .ready ∧ t.bootStep = 0 ∧ (link t 36).atomok = atomok ∧ t.mem = s.mem))
    ∧ (s.power = true → s.dev = .recovery → exec (.reccmdLoad 0 false) s = .next { s with booterr := 2 }
        ∧ (hostUp s = true → s.reclen.toNat ≤ 8388608 → exec (.reccmdLoad 0 true) s = .next { s with dev := .booting, bootStep := 2 }))
    ∧ (s.power = true → s.dev ≠ .failed → s.capsule.sealing = false → (∀ w, s.wave = some w → w.todo = []) → ∀ i,
      (i = .rstcmdWarm 0 1 ∧ s.dstate = 0) ∨ i = .warmrst ∨ (i = .functionLevelReset 0 ∧ s.dev = .frozen) →
        ∃ t, exec i s = .next t ∧ t.dev = .booting ∧ t.bootStep = 1 ∧ t.power = true ∧ t.dtime = s.dtime ∧ t.capsule.held = s.capsule.held ∧ t.capsule.cseq = s.capsule.cseq
          ∧ t.capsule.sections = s.capsule.sections ∧ t.groups = [] ∧ t.contexts = [] ∧ t.queues = [] ∧ t.wave = none ∧ (∀ c ∈ t.mem, 2 ^ 64 ≤ c.1))
    ∧ (∀ fn, devReady s = true → fn < 64 → s.dev ≠ .frozen → (∀ p ∈ s.contexts, p.2.owner.toNat = fn → p.2.st = .free ∨ p.2.st = .closing) → exec (.functionLevelReset fn) s = .next s)
    ∧ (∀ fn c x, devReady s = true → fn < 64 → s.contexts = [(c, x)] → x.owner.toNat = fn → x.st = .opened ∨ x.st = .suspended ∨ x.st = .active →
        exec (.functionLevelReset fn) s = .next (destroyCtx (setCtx s c { x with busy := false }) c))
    ∧ (∀ cl k, coreUp s = true → s.present.getLsbD cl = true → cluster s cl = k → k.frozen = none →
      (∀ amount : BitVec 4, amount ≠ 0 → exec (.supplySag cl amount) s = .next (setCluster s cl
        { k with droopCycles := k.droopCycles + 1, droopMax := max k.droopMax (min amount.toNat 8), droopNow := min amount.toNat 8, droopClean := s.cycle }))
      ∧ (0 < k.droopCycles → k.droopClean + 64 ≤ s.cycle →
        ∃ t k', exec (.droopEpisodeEnd cl) s = .next t ∧ cluster t cl = k' ∧ k'.droopCycles = 0 ∧ k'.droopMax = 0 ∧ k'.droopNow = 0 ∧ t.mem = s.mem))
    ∧ (s.power = true → ∀ watts (temp : BitVec 8),
      (125 ≤ temp.toNat → ∃ t, exec (.thermal watts temp) s = .next t ∧ t.power = false)
      ∧ (temp.toNat < 125 → ∃ t, exec (.thermal watts temp) s = .next t ∧ t.watts = watts ∧ t.junction = temp ∧ t.mem = s.mem
          ∧ (115 ≤ temp.toNat → t.level = 2) ∧ (temp.toNat < 115 → (s.pcap.toNat < watts.toNat ∨ 105 ≤ temp.toNat) → t.level = 1)
          ∧ (temp.toNat < 105 → watts.toNat ≤ s.pcap.toNat → s.level = 0 → t.level = 0)))
    ∧ (∀ t0, s.power = true → s.clearSince = some t0 → s.level ≠ 0 → s.watts.toNat ≤ s.pcap.toNat → s.junction.toNat < 105 → t0 + 1000000 ≤ s.dtime →
      ∃ t, exec .throttleClear s = .next t ∧ t.level = 0 ∧ t.clearSince = none ∧ t.mem = s.mem)
    ∧ (∀ v cl, GateOk s v 1 cl →
      ∃ s1, exec (.gatecmdGate 0 v) s = .next (gateEnds s1 0) ∧ s1.gated = s.gated ||| (1#288 <<< cl)
        ∧ ∀ p ∈ s1.mem, p ∈ s.mem ∧ ¬ (upKey cl 0 ≤ p.1 ∧ p.1 < upKey cl 0 + 2 ^ 23) ∧ ¬ (cpKey cl 0 ≤ p.1 ∧ p.1 < cpKey cl 0 + 2 ^ 23) ∧ ¬ (bsKey cl 0 ≤ p.1 ∧ p.1 < bsKey cl 0 + 2 ^ 25))
    ∧ (∀ v cl, GateOk s v 2 cl → ∃ s1, exec (.gatecmdUngate 0 v) s = .next (gateEnds s1 0) ∧ s1.gated = s.gated &&& ~~~(1#288 <<< cl) ∧ s1.mem = s.mem)
    ∧ (s.power = true → s.dstate = 0 → s.wave = none → s.dev = .ready → s.d3Pending = false → s.groups = [] → s.dbgs = [] → (∀ p ∈ s.contexts, p.2.trace = none) →
      ∃ t, exec .d3hot s = .next t ∧ t.dstate = 3 ∧ t.d3Pending = false ∧ ∀ c < 288, s.present.getLsbD c = true → t.gated.getLsbD c = true)
    ∧ (s.power = true → s.dstate ≠ 0 → ∃ t, exec .d0 s = .next t ∧ t.dstate = 0 ∧ t.groups = s.groups ∧ ∀ c < 288, s.present.getLsbD c = true → t.gated.getLsbD c = false)
    ∧ (s.power = true →
      exec .getstat s = .next { s with mctpReply := [devstat s, capstat s 0, pwrstat s] }
      ∧ exec .getpres s = .next { s with mctpReply := (List.range 5).map (clpresent s) ++ (List.range 5).map (clgated s) }
      ∧ (∀ w : BitVec 13, 1000 ≤ w.toNat → w.toNat ≤ 6000 → exec (.setpcap w) s = .next { s with pcap := w, mctpReply := [BitVec.ofNat 64 w.toNat] })
      ∧ (∀ w : BitVec 13, w.toNat < 1000 ∨ 6000 < w.toNat → exec (.setpcap w) s = .next { s with mctpReply := [BitVec.ofNat 64 s.pcap.toNat] })
      ∧ exec .mctpControl s = .next { s with mctpReply := [] })

/-! ## The machine as a whole -/

/-- R64–R74, R87–R90: a word that decodes is the word its instruction encodes to, and a well-formed instruction's word decodes to it with every operand at every value its fields admit; the same of
the frames of SU, MC, AG and MT function.  No two words and no two frames stand for one instruction, and no field is dropped. -/
def Obligations.WordAndFrameRoundTrip : Prop :=
  (∀ (m : Mode) (w : Word) (i : Instr), decodeWord m w = .ok i → Instr.wf m i = true ∧ encode i = some w)
  ∧ (∀ (m : Mode) (i : Instr), Instr.wf m i = true → Instr.frameOp i = none → ∃ w, encode i = some w ∧ decodeWord m w = .ok i)
  ∧ (∀ (k : FrameKind) (f : Frame) (i : Instr), decodeFrame k f = .ok i → Instr.frameOp i = some (fieldOf f 0 10) ∧ kindOfOp (fieldOf f 0 10) = k ∧ encodeFrame i = some f)
  ∧ (∀ (m : Mode) (i : Instr) (op : Nat), Instr.wf m i = true → Instr.frameOp i = some op → ∃ f, encodeFrame i = some f ∧ fieldOf f 0 10 = op ∧ decodeFrame (kindOfOp op) f = .ok i)

/-- A word of format G as R67 lays it out, without rounding, negation or saturation. -/
def gWord (pr : Pred) (ty : Ty) (t0 t1 : Option Target) (i : Bool) (imm : BitVec 20) : GFields :=
  { pr := pr, ty := ty, t0 := t0, t1 := t1, i := i, rnd := .rne, na := false, nb := false, nc := false, sat := false, imm := imm }

def eWord (ty : Ty) (pop push : Option Qu) : EFields := { pr := .always, ty := ty, pop := pop, push := push }

/-- R64, R66–R73, R75, R87–R90: words and frames laid out by hand from those rules decode to the instructions they stand for; an OP that no row has, a target with V clear and SLOT set, a
reserved bit and an opcode outside its mode are rejected with the causes of R92. -/
def Obligations.DecodeSamples : Prop :=
  decodeWord .block 0x054487C008020064#64 = .ok (.cmp (gWord .always .i32 (some ⟨7, .p⟩) none true 100) .lt)
  ∧ decodeWord .block 0x0247C10008000007#64 = .ok (.and (gWord .always .n64 (some ⟨65, .a⟩) none true 7))
  ∧ decodeWord .block 0x4084942540407FE0#64 = .ok (.ldx { pr := .always, ty := .i32, t0 := some ⟨20, .a⟩, t1 := some ⟨21, .a⟩, seq := 2, pseq := 1, sseq := 127, spc := .gm, pol := .rlx, scope := .tile })
  ∧ decodeWord .block 0x32A0000008010005#64 = .ok (.null (gWord .ifFalse .i8 none none true 5) .st0)
  ∧ decodeWord .block 0x57C0000000800000#64 = .ok (.enop (eWord .i8 none (some .tm)) .ct)
  ∧ decodeWord .block 0x6040830008000007#64 = .ok (.barw (gWord .always .i8 (some ⟨3, .a⟩) none true 7))
  ∧ decodeWord .block 0x5487000000420000#64 = .ok (.ratom (eWord .n64 none (some .ct)) .add .gm)
  ∧ decodeFrame .su 0x211#256 = .ok (.reduce { valbase := 0, param := 0, len := 0, segbase := 0, crdbase := 0, mtsel := 0, bcout := false, bcin := false, level := 0, redop := 0, duppol := 0, strict := false })
  ∧ decodeFrame .ag ((0x3F00000010 <<< 64) + 0xC6680#256) = .ok (.aglin { stride3 := 0, stride2 := 0, stride1 := 0, cnt3 := 0, cnt2 := 0, cnt1 := 0, cnt0 := 63, base := 0x1000000000, spc := .gm, ndim := 0, ty := .i64, irel := false, wr := true })
  ∧ decodeFrame .mtf 0x288#256 = .ok (.mtcmpr { ovfbase := 0, limit := 0, base := 0, param := 0 })
  ∧ decodeWord .block 0xFFC0000000000000#64 = .error 1
  ∧ decodeWord .block 0x0247C10008000007#64 ≠ decodeWord .block 0x0247C10008000006#64
  ∧ decodeWord .block 0x0247410008000007#64 = .error 7
  ∧ decodeWord .block 0x57C0000080800000#64 = .error 7
  ∧ decodeWord .graph 0x32A0000008010005#64 = .error 3

/-- R10, R15, R64, R171, R195: a step runs the instruction that the site at the agenda's head holds: the word of a block's slot or of a CE's slot, the word of the engine instruction that acts next, the
frame of an element; an event runs as itself and a soft error takes effect; DTIME moves on by the head's nanoseconds, the head leaves the agenda, and a barrier whose timer expired meanwhile is BROKEN before
(R333); with an empty agenda one cycle passes. (That the agenda names the next agent is the model's choice: notes/assumptions 1; soft errors as agenda entries: notes/assumptions 45.) -/
def Obligations.StepRunsDecoded : Prop :=
  ∀ (s : State),
    (s.agenda = [] → step s = .next (passTime (ownerSettle s) 0 1))
    ∧ ∀ (a : Sched) (rest : List Sched), s.agenda = a :: rest →
      let u := begin_ s a rest
      let t := breakOverdue u
      (u.agenda = rest ∧ u.dtime = (s.dtime + a.ns) % 2 ^ 64 ∧ u.cycle = s.cycle + a.cycles ∧ u.groups = s.groups ∧ u.part = a.part
        ∧ (a.act = .fire → u.site = a.site)
        ∧ (a.cycles = 0 → a.act = .fire → u = { s with agenda := rest, site := a.site, part := a.part, tableError := s.tableError - 1, dtime := (s.dtime + a.ns) % 2 ^ 64 })
        ∧ ((∀ p ∈ s.barriers, timedOut u p.2 true = false) → t = u))
      ∧ (∀ i, a.act = .event i → (Instr.isEvent i = true → step s = exec i t) ∧ (Instr.isEvent i = false → step s = .next t))
      ∧ (∀ e, a.act = .upset e → step s = .next (upset t e))
      ∧ (a.act = .fire →
        (∀ g th b slot k w i, t.site = .block g th b slot → block? t g th b = some k → k.words[slot]? = some w → decodeWord .block w = .ok i → step s = exec i t)
        ∧ (∀ g gi tile f slot c w i, t.site = .ce g gi tile f slot → ce? t g gi tile = some c → c.words[slot]? = some w → decodeWord .graph w = .ok i → step s = exec i t)
        ∧ (∀ g th q y e i, t.site = .engine g th q → thread? t g th = some y → engCurrent y q = some e → decodeWord .block e.word = .ok i → step s = exec i t)
        ∧ (∀ g gi tile lane x k f i, t.site = .elem g gi tile lane → tile? t g gi tile = some x → elemFrame x lane = some (k, f) → decodeFrame k f = .ok i → step s = exec i t))

/-- The part once BAR0 answers in full, with nothing else changed since reset. -/
def resetReady : State := { State.reset with dev := .ready, bootStep := 0 }

/-- R269, R277, R282, R314, R457, R458, R462 and the register tables of chapters 14 to 27: at reset bring-up stands at step 1 with DTIME 0, no context, queue, barrier, kernel or group is live, and every BAR0 register
that the physical function can read holds the Reset value of its table: 0 but for PWRCTL, the four CLSCFG, and in each context window CTXID and STALLCYC.
The model's own choice (notes/assumptions 3): memory that nothing has written reads 0. -/
def Obligations.ResetState : Prop :=
  State.reset.power = true ∧ State.reset.dev = .booting ∧ State.reset.bootStep = 1 ∧ State.reset.dtime = 0 ∧ State.reset.dstate = 0
  ∧ State.reset.contexts = [] ∧ State.reset.queues = [] ∧ State.reset.barriers = [] ∧ State.reset.kernels = [] ∧ State.reset.groups = []
  ∧ Memory.wf State.reset.mem = true ∧ (∀ k, rdByte State.reset k = 0)
  ∧ ∀ off, 8 ≤ off → regRead resetReady 0 off =
      if off % 8 ≠ 0 then 0
      else if off = 0x50 then 0x15E0
      else if off = 0x4020 then 0x00C8_0000_0000_03E8 else if off = 0x4028 then 0x00C8_0000_0000_3E80
      else if off = 0x4030 then 0x00C8_03E8_000F_4240 else if off = 0x4038 then 0x00C8_2710_0393_8700
      else if 0x1000000 ≤ off ∧ off < 0x2000000 ∧ off % 4096 = 0 then BitVec.ofNat 64 ((off - 0x1000000) / 4096)
      else if 0x1000000 ≤ off ∧ off < 0x2000000 ∧ off % 4096 = 0x90 then 0x100000
      else 0

/-- R4, R110, R111: whatever a step does, the storage keeps its canonical form (addresses strictly rising, none listed that holds what an unlisted one reads as), so that equal memories are equal data.
The model's own choices here: notes/assumptions 3. -/
def Obligations.StepKeepsMemory : Prop :=
  ∀ (s t : State), Memory.wf s.mem = true → step s = .next t → Memory.wf t.mem = true
end

