-- ==== Sys2Proof/Laws/Bits.lean ====
section
/-! SUPPORT. Fields, lanes and elements: what a packed pattern reads as. -/

namespace Sys2Proof.Laws

open Sys2Proof.Machine

/-- A field by division. -/
theorem fieldOf_eq {n : Nat} (v : BitVec n) (lo len : Nat) : fieldOf v lo len = v.toNat / 2 ^ lo % 2 ^ len := by
  simp [fieldOf, Nat.shiftRight_eq_div_pow]

theorem fieldOf_lt {n : Nat} (v : BitVec n) (lo len : Nat) : fieldOf v lo len < 2 ^ len := Nat.mod_lt _ (by positivity)

theorem elem_lt {n : Nat} (v : BitVec n) (w j : Nat) : elem v w j < 2 ^ w := fieldOf_lt ..

theorem elemTy_lt {n : Nat} (t : Ty) (v : BitVec n) (j : Nat) : elemTy t v j < 2 ^ Ty.width t := by
  cases t
  case a36 => exact (Nat.mod_lt _ (by decide)).trans (by decide)
  all_goals exact elem_lt ..

/-- The number that a list of elements packs to (R44). -/
def packNat (w : Nat) (l : List Nat) : Nat := l.foldr (fun x a => x % 2 ^ w + a * 2 ^ w) 0

theorem packNat_cons (w x : Nat) (r : List Nat) : packNat w (x :: r) = x % 2 ^ w + packNat w r * 2 ^ w := rfl

theorem packNat_lt (w : Nat) (l : List Nat) : packNat w l < 2 ^ (w * l.length) := by
  induction l with
  | nil => simp [packNat]
  | cons x r ih =>
    rw [packNat_cons, List.length_cons, Nat.mul_succ, Nat.pow_add]
    have h1 : x % 2 ^ w < 2 ^ w := Nat.mod_lt _ (by positivity)
    calc x % 2 ^ w + packNat w r * 2 ^ w < (packNat w r + 1) * 2 ^ w := by rw [Nat.add_mul]; omega
      _ ≤ 2 ^ (w * r.length) * 2 ^ w := Nat.mul_le_mul_right _ ih

theorem packNat_div (w : Nat) (l : List Nat) (j : Nat) : packNat w l / 2 ^ (w * j) % 2 ^ w = (l[j]?).getD 0 % 2 ^ w := by
  induction l generalizing j with
  | nil => simp [packNat]
  | cons x r ih =>
    rw [packNat_cons]
    cases j with
    | zero => simp
    | succ j =>
      have h1 : x % 2 ^ w < 2 ^ w := Nat.mod_lt _ (by positivity)
      rw [Nat.mul_succ, Nat.add_comm (w * j), Nat.pow_add, ← Nat.div_div_eq_div_mul, Nat.add_mul_div_right _ _ (by positivity), Nat.div_eq_of_lt h1, Nat.zero_add, ih]
      simp

/-- Element j of a packed list is its j-th number (R44). -/
theorem elem_packList {size w : Nat} (l : List Nat) (j : Nat) (h : w * l.length ≤ size) : elem (packList size w l) w j = (l[j]?).getD 0 % 2 ^ w := by
  have hlt : packNat w l < 2 ^ size := lt_of_lt_of_le (packNat_lt w l) (Nat.pow_le_pow_right (by norm_num) h)
  unfold elem
  rw [fieldOf_eq]
  show (BitVec.ofNat size (packNat w l)).toNat / _ % _ = _
  rw [BitVec.toNat_ofNat, Nat.mod_eq_of_lt hlt, packNat_div]

theorem foldl_pack (w n : Nat) (f : Nat → Nat) : (List.range n).foldl (fun a j => a + (f j % 2 ^ w) * 2 ^ (w * j)) 0 = packNat w ((List.range n).map f) := by
  have key : ∀ (m : Nat) (l : List Nat), packNat w (l ++ [m]) = packNat w l + m % 2 ^ w * 2 ^ (w * l.length) := by
    intro m l
    induction l with
    | nil => simp [packNat]
    | cons x r ih => rw [List.cons_append, packNat_cons, ih, packNat_cons, List.length_cons, Nat.mul_succ, Nat.pow_add]; ring
  induction n with
  | zero => rfl
  | succ n ih => rw [List.range_succ, List.foldl_append, List.map_append, List.map_singleton, key, ← ih]; simp

/-- Element j of a pattern made by a function (R44). -/
theorem elem_ofElems {size w n : Nat} (f : Nat → Nat) (j : Nat) (h : w * n ≤ size) (hj : j < n) : elem (ofElems size w n f) w j = f j % 2 ^ w := by
  have e : ofElems size w n f = packList size w ((List.range n).map f) := by
    unfold ofElems packList; rw [foldl_pack]; rfl
  rw [e, elem_packList _ _ (by simpa using h)]
  simp [hj]

theorem ofLanes_eq (f : Nat → Word) : ofLanes f = ofElems 1024 64 16 fun i => (f i).toNat := by
  unfold ofLanes ofElems
  congr 2
  funext a i
  rw [Nat.mod_eq_of_lt (f i).isLt]

theorem lane_toNat (v : Value) (i : Nat) : (lane v i).toNat = elem v 64 i := by simp [lane, elem, fieldOf, Nat.shiftRight_eq_div_pow]

/-- Lane i of a value made from its lanes (R4). -/
theorem lane_ofLanes (f : Nat → Word) {i : Nat} (h : i < 16) : lane (ofLanes f) i = f i := by
  apply BitVec.eq_of_toNat_eq
  rw [lane_toNat, ofLanes_eq, elem_ofElems _ _ (by norm_num) h, Nat.mod_eq_of_lt (f i).isLt]

theorem lane_splat (x : Word) {i : Nat} (h : i < 16) : lane (splat x) i = x := lane_ofLanes _ h

theorem lane_lane0 (x : Word) : lane (lane0 x) 0 = x := by
  apply BitVec.eq_of_toNat_eq
  have := x.isLt
  rw [lane_toNat]
  simp only [elem, lane0, fieldOf_eq, BitVec.toNat_setWidth]
  omega

/-- The bytes of a number, and the number of its bytes (R4). -/
theorem natOfBytes_bytesOf (n x : Nat) : natOfBytes (bytesOf n x) = x % 2 ^ (8 * n) := by
  unfold bytesOf natOfBytes
  have key : ∀ (m : Nat) (l : List Byte), (l ++ [BitVec.ofNat 8 m]).foldr (fun b a => b.toNat + 256 * a) 0
      = l.foldr (fun b a => b.toNat + 256 * a) 0 + 2 ^ (8 * l.length) * (m % 256) := by
    intro m l
    induction l with
    | nil => simp
    | cons b r ih => rw [List.cons_append, List.foldr_cons, ih, List.foldr_cons, List.length_cons, Nat.mul_succ, Nat.pow_add]; ring
  induction n with
  | zero => simp [Nat.mod_one]
  | succ n ih =>
    rw [List.range_succ, List.map_append, List.map_singleton, key, ih]
    simp only [List.length_map, List.length_range, Nat.shiftRight_eq_div_pow]
    rw [Nat.mul_succ, Nat.pow_add, Nat.mod_mul]

@[simp] theorem bytesOf_length (n x : Nat) : (bytesOf n x).length = n := by simp [bytesOf]

end Sys2Proof.Laws
end

