-- ==== Sys2Proof/Laws/Decode.lean ====
section
/-! SUPPORT. Decoding: a word or a frame that decodes reads the same without its checks, and decodes in one way. -/

namespace Sys2Proof.Laws

open Sys2Proof Sys2Proof.Machine

/-- A word that decodes is read as the same instruction where the step fetches it. -/
theorem readWord_of_decode {m : Mode} {w : Word} {i : Instr} (h : decodeWord m w = .ok i) : readWord w = some i := by
  unfold decodeWord at h
  unfold readWord
  split at h <;> try cases h
  split at h <;> try cases h
  split at h <;> simp_all

theorem frameInstr_of_decode {k : FrameKind} {f : Frame} {i : Instr} (h : decodeFrame k f = .ok i) : frameInstr k f = some i := by
  unfold decodeFrame at h
  split at h <;> try cases h
  split at h <;> simp_all

/-- A word decodes only if it breaks no rule of its own. -/
theorem causes_of_decode {m : Mode} {w : Word} {i : Instr} (h : decodeWord m w = .ok i) : lowestCause (wordCauses m w) = none := by
  unfold decodeWord at h
  split at h
  · cases h
  · assumption

/-- The instruction of a word's fields is not changed by writing its fields out (words). -/
theorem predOf_predCode (p : Pred) : predOf (predCode p) = p := by cases p <;> rfl
theorem opndOf_opndCode (o : Opnd) : opndOf (opndCode o) = o := by cases o <;> rfl
theorem rndOf_rndCode (r : Rnd) : rndOf (rndCode r) = r := by cases r <;> rfl
theorem spaceOf_spaceCode (x : Space) : spaceOf (spaceCode x) = x := by cases x <;> rfl
theorem polOf_polCode (p : Pol) : polOf (polCode p) = p := by cases p <;> rfl
theorem scopeOf_scopeCode (x : Scope) : scopeOf (scopeCode x) = x := by cases x <;> rfl
theorem popOf_popCode (q : Option Qu) : popOf (popCode q) = q := by rcases q with _ | q <;> [rfl; cases q <;> rfl]

/-- A target field reads back as its target (R66). -/
theorem targetOf_targetCode (t : Option Target) : targetOf (targetCode t) = t := by
  rcases t with _ | ⟨slot, o⟩
  · rfl
  · have h := slot.isLt
    have hc : opndCode o < 4 := by cases o <;> decide
    show targetOf (512 + slot.toNat * 4 + opndCode o) = _
    unfold targetOf
    rw [if_neg (by omega), show (512 + slot.toNat * 4 + opndCode o) % 4 = opndCode o by omega, opndOf_opndCode]
    congr 2
    apply BitVec.eq_of_toNat_eq
    rw [BitVec.toNat_ofNat]; omega

end Sys2Proof.Laws
end

