-- ==== Sys2Proof/Laws/State.lean ====
section
/-! SUPPORT. One lemma for each field of the state and each named update: what the update does to the field. No proof over the model unfolds a record update. -/

namespace Sys2Proof.Laws

open Sys2Proof.Machine

variable (s : State)

/-! ## modGrp -/

@[simp] theorem modGrp_agenda (g : Nat) (f : Group → Group) : (modGrp s g f).agenda = s.agenda := rfl
@[simp] theorem modGrp_site (g : Nat) (f : Group → Group) : (modGrp s g f).site = s.site := rfl
@[simp] theorem modGrp_part (g : Nat) (f : Group → Group) : (modGrp s g f).part = s.part := rfl
@[simp] theorem modGrp_fresh (g : Nat) (f : Group → Group) : (modGrp s g f).fresh = s.fresh := rfl
@[simp] theorem modGrp_dtime (g : Nat) (f : Group → Group) : (modGrp s g f).dtime = s.dtime := rfl
@[simp] theorem modGrp_cycle (g : Nat) (f : Group → Group) : (modGrp s g f).cycle = s.cycle := rfl
@[simp] theorem modGrp_mem (g : Nat) (f : Group → Group) : (modGrp s g f).mem = s.mem := rfl
@[simp] theorem modGrp_poison (g : Nat) (f : Group → Group) : (modGrp s g f).poison = s.poison := rfl
@[simp] theorem modGrp_soft (g : Nat) (f : Group → Group) : (modGrp s g f).soft = s.soft := rfl
@[simp] theorem modGrp_ownerWrites (g : Nat) (f : Group → Group) : (modGrp s g f).ownerWrites = s.ownerWrites := rfl
@[simp] theorem modGrp_tableError (g : Nat) (f : Group → Group) : (modGrp s g f).tableError = s.tableError := rfl
@[simp] theorem modGrp_pcie (g : Nat) (f : Group → Group) : (modGrp s g f).pcie = s.pcie := rfl
@[simp] theorem modGrp_power (g : Nat) (f : Group → Group) : (modGrp s g f).power = s.power := rfl
@[simp] theorem modGrp_dev (g : Nat) (f : Group → Group) : (modGrp s g f).dev = s.dev := rfl
@[simp] theorem modGrp_bootStep (g : Nat) (f : Group → Group) : (modGrp s g f).bootStep = s.bootStep := rfl
@[simp] theorem modGrp_booterr (g : Nat) (f : Group → Group) : (modGrp s g f).booterr = s.booterr := rfl
@[simp] theorem modGrp_fatal (g : Nat) (f : Group → Group) : (modGrp s g f).fatal = s.fatal := rfl
@[simp] theorem modGrp_dstate (g : Nat) (f : Group → Group) : (modGrp s g f).dstate = s.dstate := rfl
@[simp] theorem modGrp_present (g : Nat) (f : Group → Group) : (modGrp s g f).present = s.present := rfl
@[simp] theorem modGrp_gated (g : Nat) (f : Group → Group) : (modGrp s g f).gated = s.gated := rfl
@[simp] theorem modGrp_recaddr (g : Nat) (f : Group → Group) : (modGrp s g f).recaddr = s.recaddr := rfl
@[simp] theorem modGrp_reclen (g : Nat) (f : Group → Group) : (modGrp s g f).reclen = s.reclen := rfl
@[simp] theorem modGrp_pcap (g : Nat) (f : Group → Group) : (modGrp s g f).pcap = s.pcap := rfl
@[simp] theorem modGrp_watts (g : Nat) (f : Group → Group) : (modGrp s g f).watts = s.watts := rfl
@[simp] theorem modGrp_junction (g : Nat) (f : Group → Group) : (modGrp s g f).junction = s.junction := rfl
@[simp] theorem modGrp_level (g : Nat) (f : Group → Group) : (modGrp s g f).level = s.level := rfl
@[simp] theorem modGrp_clearSince (g : Nat) (f : Group → Group) : (modGrp s g f).clearSince = s.clearSince := rfl
@[simp] theorem modGrp_gateErr (g : Nat) (f : Group → Group) : (modGrp s g f).gateErr = s.gateErr := rfl
@[simp] theorem modGrp_clusters (g : Nat) (f : Group → Group) : (modGrp s g f).clusters = s.clusters := rfl
@[simp] theorem modGrp_wave (g : Nat) (f : Group → Group) : (modGrp s g f).wave = s.wave := rfl
@[simp] theorem modGrp_capsule (g : Nat) (f : Group → Group) : (modGrp s g f).capsule = s.capsule := rfl
@[simp] theorem modGrp_fns (g : Nat) (f : Group → Group) : (modGrp s g f).fns = s.fns := rfl
@[simp] theorem modGrp_contexts (g : Nat) (f : Group → Group) : (modGrp s g f).contexts = s.contexts := rfl
@[simp] theorem modGrp_queues (g : Nat) (f : Group → Group) : (modGrp s g f).queues = s.queues := rfl
@[simp] theorem modGrp_barriers (g : Nat) (f : Group → Group) : (modGrp s g f).barriers = s.barriers := rfl
@[simp] theorem modGrp_ccbase (g : Nat) (f : Group → Group) : (modGrp s g f).ccbase = s.ccbase := rfl
@[simp] theorem modGrp_ccsize (g : Nat) (f : Group → Group) : (modGrp s g f).ccsize = s.ccsize := rfl
@[simp] theorem modGrp_kernels (g : Nat) (f : Group → Group) : (modGrp s g f).kernels = s.kernels := rfl
@[simp] theorem modGrp_prbase (g : Nat) (f : Group → Group) : (modGrp s g f).prbase = s.prbase := rfl
@[simp] theorem modGrp_prsize (g : Nat) (f : Group → Group) : (modGrp s g f).prsize = s.prsize := rfl
@[simp] theorem modGrp_clscfg (g : Nat) (f : Group → Group) : (modGrp s g f).clscfg = s.clscfg := rfl
@[simp] theorem modGrp_nextGrp (g : Nat) (f : Group → Group) : (modGrp s g f).nextGrp = s.nextGrp := rfl
@[simp] theorem modGrp_startCount (g : Nat) (f : Group → Group) : (modGrp s g f).startCount = s.startCount := rfl
@[simp] theorem modGrp_groups (g : Nat) (f : Group → Group) : (modGrp s g f).groups = Tab.modify s.groups g f := rfl
@[simp] theorem modGrp_rpcfg (g : Nat) (f : Group → Group) : (modGrp s g f).rpcfg = s.rpcfg := rfl
@[simp] theorem modGrp_rpzero (g : Nat) (f : Group → Group) : (modGrp s g f).rpzero = s.rpzero := rfl
@[simp] theorem modGrp_extents (g : Nat) (f : Group → Group) : (modGrp s g f).extents = s.extents := rfl
@[simp] theorem modGrp_pkgid (g : Nat) (f : Group → Group) : (modGrp s g f).pkgid = s.pkgid := rfl
@[simp] theorem modGrp_rtab (g : Nat) (f : Group → Group) : (modGrp s g f).rtab = s.rtab := rfl
@[simp] theorem modGrp_links (g : Nat) (f : Group → Group) : (modGrp s g f).links = s.links := rfl
@[simp] theorem modGrp_jobs (g : Nat) (f : Group → Group) : (modGrp s g f).jobs = s.jobs := rfl
@[simp] theorem modGrp_reqs (g : Nat) (f : Group → Group) : (modGrp s g f).reqs = s.reqs := rfl
@[simp] theorem modGrp_outbox (g : Nat) (f : Group → Group) : (modGrp s g f).outbox = s.outbox := rfl
@[simp] theorem modGrp_pairCounts (g : Nat) (f : Group → Group) : (modGrp s g f).pairCounts = s.pairCounts := rfl
@[simp] theorem modGrp_nonces (g : Nat) (f : Group → Group) : (modGrp s g f).nonces = s.nonces := rfl
@[simp] theorem modGrp_meetings (g : Nat) (f : Group → Group) : (modGrp s g f).meetings = s.meetings := rfl
@[simp] theorem modGrp_collCounts (g : Nat) (f : Group → Group) : (modGrp s g f).collCounts = s.collCounts := rfl
@[simp] theorem modGrp_hcircs (g : Nat) (f : Group → Group) : (modGrp s g f).hcircs = s.hcircs := rfl
@[simp] theorem modGrp_earlyArms (g : Nat) (f : Group → Group) : (modGrp s g f).earlyArms = s.earlyArms := rfl
@[simp] theorem modGrp_dbgs (g : Nat) (f : Group → Group) : (modGrp s g f).dbgs = s.dbgs := rfl
@[simp] theorem modGrp_einjoff (g : Nat) (f : Group → Group) : (modGrp s g f).einjoff = s.einjoff := rfl
@[simp] theorem modGrp_einjerr (g : Nat) (f : Group → Group) : (modGrp s g f).einjerr = s.einjerr := rfl
@[simp] theorem modGrp_einjcount (g : Nat) (f : Group → Group) : (modGrp s g f).einjcount = s.einjcount := rfl
@[simp] theorem modGrp_mctpReply (g : Nat) (f : Group → Group) : (modGrp s g f).mctpReply = s.mctpReply := rfl
@[simp] theorem modGrp_timeJoined (g : Nat) (f : Group → Group) : (modGrp s g f).timeJoined = s.timeJoined := rfl
@[simp] theorem modGrp_d3Pending (g : Nat) (f : Group → Group) : (modGrp s g f).d3Pending = s.d3Pending := rfl

/-! ## modImage -/

@[simp] theorem modImage_agenda (g : Nat) (f : Image → Image) : (modImage s g f).agenda = s.agenda := rfl
@[simp] theorem modImage_site (g : Nat) (f : Image → Image) : (modImage s g f).site = s.site := rfl
@[simp] theorem modImage_part (g : Nat) (f : Image → Image) : (modImage s g f).part = s.part := rfl
@[simp] theorem modImage_fresh (g : Nat) (f : Image → Image) : (modImage s g f).fresh = s.fresh := rfl
@[simp] theorem modImage_dtime (g : Nat) (f : Image → Image) : (modImage s g f).dtime = s.dtime := rfl
@[simp] theorem modImage_cycle (g : Nat) (f : Image → Image) : (modImage s g f).cycle = s.cycle := rfl
@[simp] theorem modImage_mem (g : Nat) (f : Image → Image) : (modImage s g f).mem = s.mem := rfl
@[simp] theorem modImage_poison (g : Nat) (f : Image → Image) : (modImage s g f).poison = s.poison := rfl
@[simp] theorem modImage_soft (g : Nat) (f : Image → Image) : (modImage s g f).soft = s.soft := rfl
@[simp] theorem modImage_ownerWrites (g : Nat) (f : Image → Image) : (modImage s g f).ownerWrites = s.ownerWrites := rfl
@[simp] theorem modImage_tableError (g : Nat) (f : Image → Image) : (modImage s g f).tableError = s.tableError := rfl
@[simp] theorem modImage_pcie (g : Nat) (f : Image → Image) : (modImage s g f).pcie = s.pcie := rfl
@[simp] theorem modImage_power (g : Nat) (f : Image → Image) : (modImage s g f).power = s.power := rfl
@[simp] theorem modImage_dev (g : Nat) (f : Image → Image) : (modImage s g f).dev = s.dev := rfl
@[simp] theorem modImage_bootStep (g : Nat) (f : Image → Image) : (modImage s g f).bootStep = s.bootStep := rfl
@[simp] theorem modImage_booterr (g : Nat) (f : Image → Image) : (modImage s g f).booterr = s.booterr := rfl
@[simp] theorem modImage_fatal (g : Nat) (f : Image → Image) : (modImage s g f).fatal = s.fatal := rfl
@[simp] theorem modImage_dstate (g : Nat) (f : Image → Image) : (modImage s g f).dstate = s.dstate := rfl
@[simp] theorem modImage_present (g : Nat) (f : Image → Image) : (modImage s g f).present = s.present := rfl
@[simp] theorem modImage_gated (g : Nat) (f : Image → Image) : (modImage s g f).gated = s.gated := rfl
@[simp] theorem modImage_recaddr (g : Nat) (f : Image → Image) : (modImage s g f).recaddr = s.recaddr := rfl
@[simp] theorem modImage_reclen (g : Nat) (f : Image → Image) : (modImage s g f).reclen = s.reclen := rfl
@[simp] theorem modImage_pcap (g : Nat) (f : Image → Image) : (modImage s g f).pcap = s.pcap := rfl
@[simp] theorem modImage_watts (g : Nat) (f : Image → Image) : (modImage s g f).watts = s.watts := rfl
@[simp] theorem modImage_junction (g : Nat) (f : Image → Image) : (modImage s g f).junction = s.junction := rfl
@[simp] theorem modImage_level (g : Nat) (f : Image → Image) : (modImage s g f).level = s.level := rfl
@[simp] theorem modImage_clearSince (g : Nat) (f : Image → Image) : (modImage s g f).clearSince = s.clearSince := rfl
@[simp] theorem modImage_gateErr (g : Nat) (f : Image → Image) : (modImage s g f).gateErr = s.gateErr := rfl
@[simp] theorem modImage_clusters (g : Nat) (f : Image → Image) : (modImage s g f).clusters = s.clusters := rfl
@[simp] theorem modImage_wave (g : Nat) (f : Image → Image) : (modImage s g f).wave = s.wave := rfl
@[simp] theorem modImage_capsule (g : Nat) (f : Image → Image) : (modImage s g f).capsule = s.capsule := rfl
@[simp] theorem modImage_fns (g : Nat) (f : Image → Image) : (modImage s g f).fns = s.fns := rfl
@[simp] theorem modImage_contexts (g : Nat) (f : Image → Image) : (modImage s g f).contexts = s.contexts := rfl
@[simp] theorem modImage_queues (g : Nat) (f : Image → Image) : (modImage s g f).queues = s.queues := rfl
@[simp] theorem modImage_barriers (g : Nat) (f : Image → Image) : (modImage s g f).barriers = s.barriers := rfl
@[simp] theorem modImage_ccbase (g : Nat) (f : Image → Image) : (modImage s g f).ccbase = s.ccbase := rfl
@[simp] theorem modImage_ccsize (g : Nat) (f : Image → Image) : (modImage s g f).ccsize = s.ccsize := rfl
@[simp] theorem modImage_kernels (g : Nat) (f : Image → Image) : (modImage s g f).kernels = s.kernels := rfl
@[simp] theorem modImage_prbase (g : Nat) (f : Image → Image) : (modImage s g f).prbase = s.prbase := rfl
@[simp] theorem modImage_prsize (g : Nat) (f : Image → Image) : (modImage s g f).prsize = s.prsize := rfl
@[simp] theorem modImage_clscfg (g : Nat) (f : Image → Image) : (modImage s g f).clscfg = s.clscfg := rfl
@[simp] theorem modImage_nextGrp (g : Nat) (f : Image → Image) : (modImage s g f).nextGrp = s.nextGrp := rfl
@[simp] theorem modImage_startCount (g : Nat) (f : Image → Image) : (modImage s g f).startCount = s.startCount := rfl
@[simp] theorem modImage_rpcfg (g : Nat) (f : Image → Image) : (modImage s g f).rpcfg = s.rpcfg := rfl
@[simp] theorem modImage_rpzero (g : Nat) (f : Image → Image) : (modImage s g f).rpzero = s.rpzero := rfl
@[simp] theorem modImage_extents (g : Nat) (f : Image → Image) : (modImage s g f).extents = s.extents := rfl
@[simp] theorem modImage_pkgid (g : Nat) (f : Image → Image) : (modImage s g f).pkgid = s.pkgid := rfl
@[simp] theorem modImage_rtab (g : Nat) (f : Image → Image) : (modImage s g f).rtab = s.rtab := rfl
@[simp] theorem modImage_links (g : Nat) (f : Image → Image) : (modImage s g f).links = s.links := rfl
@[simp] theorem modImage_jobs (g : Nat) (f : Image → Image) : (modImage s g f).jobs = s.jobs := rfl
@[simp] theorem modImage_reqs (g : Nat) (f : Image → Image) : (modImage s g f).reqs = s.reqs := rfl
@[simp] theorem modImage_outbox (g : Nat) (f : Image → Image) : (modImage s g f).outbox = s.outbox := rfl
@[simp] theorem modImage_pairCounts (g : Nat) (f : Image → Image) : (modImage s g f).pairCounts = s.pairCounts := rfl
@[simp] theorem modImage_nonces (g : Nat) (f : Image → Image) : (modImage s g f).nonces = s.nonces := rfl
@[simp] theorem modImage_meetings (g : Nat) (f : Image → Image) : (modImage s g f).meetings = s.meetings := rfl
@[simp] theorem modImage_collCounts (g : Nat) (f : Image → Image) : (modImage s g f).collCounts = s.collCounts := rfl
@[simp] theorem modImage_hcircs (g : Nat) (f : Image → Image) : (modImage s g f).hcircs = s.hcircs := rfl
@[simp] theorem modImage_earlyArms (g : Nat) (f : Image → Image) : (modImage s g f).earlyArms = s.earlyArms := rfl
@[simp] theorem modImage_dbgs (g : Nat) (f : Image → Image) : (modImage s g f).dbgs = s.dbgs := rfl
@[simp] theorem modImage_einjoff (g : Nat) (f : Image → Image) : (modImage s g f).einjoff = s.einjoff := rfl
@[simp] theorem modImage_einjerr (g : Nat) (f : Image → Image) : (modImage s g f).einjerr = s.einjerr := rfl
@[simp] theorem modImage_einjcount (g : Nat) (f : Image → Image) : (modImage s g f).einjcount = s.einjcount := rfl
@[simp] theorem modImage_mctpReply (g : Nat) (f : Image → Image) : (modImage s g f).mctpReply = s.mctpReply := rfl
@[simp] theorem modImage_timeJoined (g : Nat) (f : Image → Image) : (modImage s g f).timeJoined = s.timeJoined := rfl
@[simp] theorem modImage_d3Pending (g : Nat) (f : Image → Image) : (modImage s g f).d3Pending = s.d3Pending := rfl

/-! ## modThread -/

@[simp] theorem modThread_agenda (g th : Nat) (f : Thread → Thread) : (modThread s g th f).agenda = s.agenda := rfl
@[simp] theorem modThread_site (g th : Nat) (f : Thread → Thread) : (modThread s g th f).site = s.site := rfl
@[simp] theorem modThread_part (g th : Nat) (f : Thread → Thread) : (modThread s g th f).part = s.part := rfl
@[simp] theorem modThread_fresh (g th : Nat) (f : Thread → Thread) : (modThread s g th f).fresh = s.fresh := rfl
@[simp] theorem modThread_dtime (g th : Nat) (f : Thread → Thread) : (modThread s g th f).dtime = s.dtime := rfl
@[simp] theorem modThread_cycle (g th : Nat) (f : Thread → Thread) : (modThread s g th f).cycle = s.cycle := rfl
@[simp] theorem modThread_mem (g th : Nat) (f : Thread → Thread) : (modThread s g th f).mem = s.mem := rfl
@[simp] theorem modThread_poison (g th : Nat) (f : Thread → Thread) : (modThread s g th f).poison = s.poison := rfl
@[simp] theorem modThread_soft (g th : Nat) (f : Thread → Thread) : (modThread s g th f).soft = s.soft := rfl
@[simp] theorem modThread_ownerWrites (g th : Nat) (f : Thread → Thread) : (modThread s g th f).ownerWrites = s.ownerWrites := rfl
@[simp] theorem modThread_tableError (g th : Nat) (f : Thread → Thread) : (modThread s g th f).tableError = s.tableError := rfl
@[simp] theorem modThread_pcie (g th : Nat) (f : Thread → Thread) : (modThread s g th f).pcie = s.pcie := rfl
@[simp] theorem modThread_power (g th : Nat) (f : Thread → Thread) : (modThread s g th f).power = s.power := rfl
@[simp] theorem modThread_dev (g th : Nat) (f : Thread → Thread) : (modThread s g th f).dev = s.dev := rfl
@[simp] theorem modThread_bootStep (g th : Nat) (f : Thread → Thread) : (modThread s g th f).bootStep = s.bootStep := rfl
@[simp] theorem modThread_booterr (g th : Nat) (f : Thread → Thread) : (modThread s g th f).booterr = s.booterr := rfl
@[simp] theorem modThread_fatal (g th : Nat) (f : Thread → Thread) : (modThread s g th f).fatal = s.fatal := rfl
@[simp] theorem modThread_dstate (g th : Nat) (f : Thread → Thread) : (modThread s g th f).dstate = s.dstate := rfl
@[simp] theorem modThread_present (g th : Nat) (f : Thread → Thread) : (modThread s g th f).present = s.present := rfl
@[simp] theorem modThread_gated (g th : Nat) (f : Thread → Thread) : (modThread s g th f).gated = s.gated := rfl
@[simp] theorem modThread_recaddr (g th : Nat) (f : Thread → Thread) : (modThread s g th f).recaddr = s.recaddr := rfl
@[simp] theorem modThread_reclen (g th : Nat) (f : Thread → Thread) : (modThread s g th f).reclen = s.reclen := rfl
@[simp] theorem modThread_pcap (g th : Nat) (f : Thread → Thread) : (modThread s g th f).pcap = s.pcap := rfl
@[simp] theorem modThread_watts (g th : Nat) (f : Thread → Thread) : (modThread s g th f).watts = s.watts := rfl
@[simp] theorem modThread_junction (g th : Nat) (f : Thread → Thread) : (modThread s g th f).junction = s.junction := rfl
@[simp] theorem modThread_level (g th : Nat) (f : Thread → Thread) : (modThread s g th f).level = s.level := rfl
@[simp] theorem modThread_clearSince (g th : Nat) (f : Thread → Thread) : (modThread s g th f).clearSince = s.clearSince := rfl
@[simp] theorem modThread_gateErr (g th : Nat) (f : Thread → Thread) : (modThread s g th f).gateErr = s.gateErr := rfl
@[simp] theorem modThread_clusters (g th : Nat) (f : Thread → Thread) : (modThread s g th f).clusters = s.clusters := rfl
@[simp] theorem modThread_wave (g th : Nat) (f : Thread → Thread) : (modThread s g th f).wave = s.wave := rfl
@[simp] theorem modThread_capsule (g th : Nat) (f : Thread → Thread) : (modThread s g th f).capsule = s.capsule := rfl
@[simp] theorem modThread_fns (g th : Nat) (f : Thread → Thread) : (modThread s g th f).fns = s.fns := rfl
@[simp] theorem modThread_contexts (g th : Nat) (f : Thread → Thread) : (modThread s g th f).contexts = s.contexts := rfl
@[simp] theorem modThread_queues (g th : Nat) (f : Thread → Thread) : (modThread s g th f).queues = s.queues := rfl
@[simp] theorem modThread_barriers (g th : Nat) (f : Thread → Thread) : (modThread s g th f).barriers = s.barriers := rfl
@[simp] theorem modThread_ccbase (g th : Nat) (f : Thread → Thread) : (modThread s g th f).ccbase = s.ccbase := rfl
@[simp] theorem modThread_ccsize (g th : Nat) (f : Thread → Thread) : (modThread s g th f).ccsize = s.ccsize := rfl
@[simp] theorem modThread_kernels (g th : Nat) (f : Thread → Thread) : (modThread s g th f).kernels = s.kernels := rfl
@[simp] theorem modThread_prbase (g th : Nat) (f : Thread → Thread) : (modThread s g th f).prbase = s.prbase := rfl
@[simp] theorem modThread_prsize (g th : Nat) (f : Thread → Thread) : (modThread s g th f).prsize = s.prsize := rfl
@[simp] theorem modThread_clscfg (g th : Nat) (f : Thread → Thread) : (modThread s g th f).clscfg = s.clscfg := rfl
@[simp] theorem modThread_nextGrp (g th : Nat) (f : Thread → Thread) : (modThread s g th f).nextGrp = s.nextGrp := rfl
@[simp] theorem modThread_startCount (g th : Nat) (f : Thread → Thread) : (modThread s g th f).startCount = s.startCount := rfl
@[simp] theorem modThread_rpcfg (g th : Nat) (f : Thread → Thread) : (modThread s g th f).rpcfg = s.rpcfg := rfl
@[simp] theorem modThread_rpzero (g th : Nat) (f : Thread → Thread) : (modThread s g th f).rpzero = s.rpzero := rfl
@[simp] theorem modThread_extents (g th : Nat) (f : Thread → Thread) : (modThread s g th f).extents = s.extents := rfl
@[simp] theorem modThread_pkgid (g th : Nat) (f : Thread → Thread) : (modThread s g th f).pkgid = s.pkgid := rfl
@[simp] theorem modThread_rtab (g th : Nat) (f : Thread → Thread) : (modThread s g th f).rtab = s.rtab := rfl
@[simp] theorem modThread_links (g th : Nat) (f : Thread → Thread) : (modThread s g th f).links = s.links := rfl
@[simp] theorem modThread_jobs (g th : Nat) (f : Thread → Thread) : (modThread s g th f).jobs = s.jobs := rfl
@[simp] theorem modThread_reqs (g th : Nat) (f : Thread → Thread) : (modThread s g th f).reqs = s.reqs := rfl
@[simp] theorem modThread_outbox (g th : Nat) (f : Thread → Thread) : (modThread s g th f).outbox = s.outbox := rfl
@[simp] theorem modThread_pairCounts (g th : Nat) (f : Thread → Thread) : (modThread s g th f).pairCounts = s.pairCounts := rfl
@[simp] theorem modThread_nonces (g th : Nat) (f : Thread → Thread) : (modThread s g th f).nonces = s.nonces := rfl
@[simp] theorem modThread_meetings (g th : Nat) (f : Thread → Thread) : (modThread s g th f).meetings = s.meetings := rfl
@[simp] theorem modThread_collCounts (g th : Nat) (f : Thread → Thread) : (modThread s g th f).collCounts = s.collCounts := rfl
@[simp] theorem modThread_hcircs (g th : Nat) (f : Thread → Thread) : (modThread s g th f).hcircs = s.hcircs := rfl
@[simp] theorem modThread_earlyArms (g th : Nat) (f : Thread → Thread) : (modThread s g th f).earlyArms = s.earlyArms := rfl
@[simp] theorem modThread_dbgs (g th : Nat) (f : Thread → Thread) : (modThread s g th f).dbgs = s.dbgs := rfl
@[simp] theorem modThread_einjoff (g th : Nat) (f : Thread → Thread) : (modThread s g th f).einjoff = s.einjoff := rfl
@[simp] theorem modThread_einjerr (g th : Nat) (f : Thread → Thread) : (modThread s g th f).einjerr = s.einjerr := rfl
@[simp] theorem modThread_einjcount (g th : Nat) (f : Thread → Thread) : (modThread s g th f).einjcount = s.einjcount := rfl
@[simp] theorem modThread_mctpReply (g th : Nat) (f : Thread → Thread) : (modThread s g th f).mctpReply = s.mctpReply := rfl
@[simp] theorem modThread_timeJoined (g th : Nat) (f : Thread → Thread) : (modThread s g th f).timeJoined = s.timeJoined := rfl
@[simp] theorem modThread_d3Pending (g th : Nat) (f : Thread → Thread) : (modThread s g th f).d3Pending = s.d3Pending := rfl

/-! ## modBlock -/

@[simp] theorem modBlock_agenda (g th b : Nat) (f : Block → Block) : (modBlock s g th b f).agenda = s.agenda := rfl
@[simp] theorem modBlock_site (g th b : Nat) (f : Block → Block) : (modBlock s g th b f).site = s.site := rfl
@[simp] theorem modBlock_part (g th b : Nat) (f : Block → Block) : (modBlock s g th b f).part = s.part := rfl
@[simp] theorem modBlock_fresh (g th b : Nat) (f : Block → Block) : (modBlock s g th b f).fresh = s.fresh := rfl
@[simp] theorem modBlock_dtime (g th b : Nat) (f : Block → Block) : (modBlock s g th b f).dtime = s.dtime := rfl
@[simp] theorem modBlock_cycle (g th b : Nat) (f : Block → Block) : (modBlock s g th b f).cycle = s.cycle := rfl
@[simp] theorem modBlock_mem (g th b : Nat) (f : Block → Block) : (modBlock s g th b f).mem = s.mem := rfl
@[simp] theorem modBlock_poison (g th b : Nat) (f : Block → Block) : (modBlock s g th b f).poison = s.poison := rfl
@[simp] theorem modBlock_soft (g th b : Nat) (f : Block → Block) : (modBlock s g th b f).soft = s.soft := rfl
@[simp] theorem modBlock_ownerWrites (g th b : Nat) (f : Block → Block) : (modBlock s g th b f).ownerWrites = s.ownerWrites := rfl
@[simp] theorem modBlock_tableError (g th b : Nat) (f : Block → Block) : (modBlock s g th b f).tableError = s.tableError := rfl
@[simp] theorem modBlock_pcie (g th b : Nat) (f : Block → Block) : (modBlock s g th b f).pcie = s.pcie := rfl
@[simp] theorem modBlock_power (g th b : Nat) (f : Block → Block) : (modBlock s g th b f).power = s.power := rfl
@[simp] theorem modBlock_dev (g th b : Nat) (f : Block → Block) : (modBlock s g th b f).dev = s.dev := rfl
@[simp] theorem modBlock_bootStep (g th b : Nat) (f : Block → Block) : (modBlock s g th b f).bootStep = s.bootStep := rfl
@[simp] theorem modBlock_booterr (g th b : Nat) (f : Block → Block) : (modBlock s g th b f).booterr = s.booterr := rfl
@[simp] theorem modBlock_fatal (g th b : Nat) (f : Block → Block) : (modBlock s g th b f).fatal = s.fatal := rfl
@[simp] theorem modBlock_dstate (g th b : Nat) (f : Block → Block) : (modBlock s g th b f).dstate = s.dstate := rfl
@[simp] theorem modBlock_present (g th b : Nat) (f : Block → Block) : (modBlock s g th b f).present = s.present := rfl
@[simp] theorem modBlock_gated (g th b : Nat) (f : Block → Block) : (modBlock s g th b f).gated = s.gated := rfl
@[simp] theorem modBlock_recaddr (g th b : Nat) (f : Block → Block) : (modBlock s g th b f).recaddr = s.recaddr := rfl
@[simp] theorem modBlock_reclen (g th b : Nat) (f : Block → Block) : (modBlock s g th b f).reclen = s.reclen := rfl
@[simp] theorem modBlock_pcap (g th b : Nat) (f : Block → Block) : (modBlock s g th b f).pcap = s.pcap := rfl
@[simp] theorem modBlock_watts (g th b : Nat) (f : Block → Block) : (modBlock s g th b f).watts = s.watts := rfl
@[simp] theorem modBlock_junction (g th b : Nat) (f : Block → Block) : (modBlock s g th b f).junction = s.junction := rfl
@[simp] theorem modBlock_level (g th b : Nat) (f : Block → Block) : (modBlock s g th b f).level = s.level := rfl
@[simp] theorem modBlock_clearSince (g th b : Nat) (f : Block → Block) : (modBlock s g th b f).clearSince = s.clearSince := rfl
@[simp] theorem modBlock_gateErr (g th b : Nat) (f : Block → Block) : (modBlock s g th b f).gateErr = s.gateErr := rfl
@[simp] theorem modBlock_clusters (g th b : Nat) (f : Block → Block) : (modBlock s g th b f).clusters = s.clusters := rfl
@[simp] theorem modBlock_wave (g th b : Nat) (f : Block → Block) : (modBlock s g th b f).wave = s.wave := rfl
@[simp] theorem modBlock_capsule (g th b : Nat) (f : Block → Block) : (modBlock s g th b f).capsule = s.capsule := rfl
@[simp] theorem modBlock_fns (g th b : Nat) (f : Block → Block) : (modBlock s g th b f).fns = s.fns := rfl
@[simp] theorem modBlock_contexts (g th b : Nat) (f : Block → Block) : (modBlock s g th b f).contexts = s.contexts := rfl
@[simp] theorem modBlock_queues (g th b : Nat) (f : Block → Block) : (modBlock s g th b f).queues = s.queues := rfl
@[simp] theorem modBlock_barriers (g th b : Nat) (f : Block → Block) : (modBlock s g th b f).barriers = s.barriers := rfl
@[simp] theorem modBlock_ccbase (g th b : Nat) (f : Block → Block) : (modBlock s g th b f).ccbase = s.ccbase := rfl
@[simp] theorem modBlock_ccsize (g th b : Nat) (f : Block → Block) : (modBlock s g th b f).ccsize = s.ccsize := rfl
@[simp] theorem modBlock_kernels (g th b : Nat) (f : Block → Block) : (modBlock s g th b f).kernels = s.kernels := rfl
@[simp] theorem modBlock_prbase (g th b : Nat) (f : Block → Block) : (modBlock s g th b f).prbase = s.prbase := rfl
@[simp] theorem modBlock_prsize (g th b : Nat) (f : Block → Block) : (modBlock s g th b f).prsize = s.prsize := rfl
@[simp] theorem modBlock_clscfg (g th b : Nat) (f : Block → Block) : (modBlock s g th b f).clscfg = s.clscfg := rfl
@[simp] theorem modBlock_nextGrp (g th b : Nat) (f : Block → Block) : (modBlock s g th b f).nextGrp = s.nextGrp := rfl
@[simp] theorem modBlock_startCount (g th b : Nat) (f : Block → Block) : (modBlock s g th b f).startCount = s.startCount := rfl
@[simp] theorem modBlock_rpcfg (g th b : Nat) (f : Block → Block) : (modBlock s g th b f).rpcfg = s.rpcfg := rfl
@[simp] theorem modBlock_rpzero (g th b : Nat) (f : Block → Block) : (modBlock s g th b f).rpzero = s.rpzero := rfl
@[simp] theorem modBlock_extents (g th b : Nat) (f : Block → Block) : (modBlock s g th b f).extents = s.extents := rfl
@[simp] theorem modBlock_pkgid (g th b : Nat) (f : Block → Block) : (modBlock s g th b f).pkgid = s.pkgid := rfl
@[simp] theorem modBlock_rtab (g th b : Nat) (f : Block → Block) : (modBlock s g th b f).rtab = s.rtab := rfl
@[simp] theorem modBlock_links (g th b : Nat) (f : Block → Block) : (modBlock s g th b f).links = s.links := rfl
@[simp] theorem modBlock_jobs (g th b : Nat) (f : Block → Block) : (modBlock s g th b f).jobs = s.jobs := rfl
@[simp] theorem modBlock_reqs (g th b : Nat) (f : Block → Block) : (modBlock s g th b f).reqs = s.reqs := rfl
@[simp] theorem modBlock_outbox (g th b : Nat) (f : Block → Block) : (modBlock s g th b f).outbox = s.outbox := rfl
@[simp] theorem modBlock_pairCounts (g th b : Nat) (f : Block → Block) : (modBlock s g th b f).pairCounts = s.pairCounts := rfl
@[simp] theorem modBlock_nonces (g th b : Nat) (f : Block → Block) : (modBlock s g th b f).nonces = s.nonces := rfl
@[simp] theorem modBlock_meetings (g th b : Nat) (f : Block → Block) : (modBlock s g th b f).meetings = s.meetings := rfl
@[simp] theorem modBlock_collCounts (g th b : Nat) (f : Block → Block) : (modBlock s g th b f).collCounts = s.collCounts := rfl
@[simp] theorem modBlock_hcircs (g th b : Nat) (f : Block → Block) : (modBlock s g th b f).hcircs = s.hcircs := rfl
@[simp] theorem modBlock_earlyArms (g th b : Nat) (f : Block → Block) : (modBlock s g th b f).earlyArms = s.earlyArms := rfl
@[simp] theorem modBlock_dbgs (g th b : Nat) (f : Block → Block) : (modBlock s g th b f).dbgs = s.dbgs := rfl
@[simp] theorem modBlock_einjoff (g th b : Nat) (f : Block → Block) : (modBlock s g th b f).einjoff = s.einjoff := rfl
@[simp] theorem modBlock_einjerr (g th b : Nat) (f : Block → Block) : (modBlock s g th b f).einjerr = s.einjerr := rfl
@[simp] theorem modBlock_einjcount (g th b : Nat) (f : Block → Block) : (modBlock s g th b f).einjcount = s.einjcount := rfl
@[simp] theorem modBlock_mctpReply (g th b : Nat) (f : Block → Block) : (modBlock s g th b f).mctpReply = s.mctpReply := rfl
@[simp] theorem modBlock_timeJoined (g th b : Nat) (f : Block → Block) : (modBlock s g th b f).timeJoined = s.timeJoined := rfl
@[simp] theorem modBlock_d3Pending (g th b : Nat) (f : Block → Block) : (modBlock s g th b f).d3Pending = s.d3Pending := rfl

/-! ## modGraph -/

@[simp] theorem modGraph_agenda (g gi : Nat) (f : Graph → Graph) : (modGraph s g gi f).agenda = s.agenda := rfl
@[simp] theorem modGraph_site (g gi : Nat) (f : Graph → Graph) : (modGraph s g gi f).site = s.site := rfl
@[simp] theorem modGraph_part (g gi : Nat) (f : Graph → Graph) : (modGraph s g gi f).part = s.part := rfl
@[simp] theorem modGraph_fresh (g gi : Nat) (f : Graph → Graph) : (modGraph s g gi f).fresh = s.fresh := rfl
@[simp] theorem modGraph_dtime (g gi : Nat) (f : Graph → Graph) : (modGraph s g gi f).dtime = s.dtime := rfl
@[simp] theorem modGraph_cycle (g gi : Nat) (f : Graph → Graph) : (modGraph s g gi f).cycle = s.cycle := rfl
@[simp] theorem modGraph_mem (g gi : Nat) (f : Graph → Graph) : (modGraph s g gi f).mem = s.mem := rfl
@[simp] theorem modGraph_poison (g gi : Nat) (f : Graph → Graph) : (modGraph s g gi f).poison = s.poison := rfl
@[simp] theorem modGraph_soft (g gi : Nat) (f : Graph → Graph) : (modGraph s g gi f).soft = s.soft := rfl
@[simp] theorem modGraph_ownerWrites (g gi : Nat) (f : Graph → Graph) : (modGraph s g gi f).ownerWrites = s.ownerWrites := rfl
@[simp] theorem modGraph_tableError (g gi : Nat) (f : Graph → Graph) : (modGraph s g gi f).tableError = s.tableError := rfl
@[simp] theorem modGraph_pcie (g gi : Nat) (f : Graph → Graph) : (modGraph s g gi f).pcie = s.pcie := rfl
@[simp] theorem modGraph_power (g gi : Nat) (f : Graph → Graph) : (modGraph s g gi f).power = s.power := rfl
@[simp] theorem modGraph_dev (g gi : Nat) (f : Graph → Graph) : (modGraph s g gi f).dev = s.dev := rfl
@[simp] theorem modGraph_bootStep (g gi : Nat) (f : Graph → Graph) : (modGraph s g gi f).bootStep = s.bootStep := rfl
@[simp] theorem modGraph_booterr (g gi : Nat) (f : Graph → Graph) : (modGraph s g gi f).booterr = s.booterr := rfl
@[simp] theorem modGraph_fatal (g gi : Nat) (f : Graph → Graph) : (modGraph s g gi f).fatal = s.fatal := rfl
@[simp] theorem modGraph_dstate (g gi : Nat) (f : Graph → Graph) : (modGraph s g gi f).dstate = s.dstate := rfl
@[simp] theorem modGraph_present (g gi : Nat) (f : Graph → Graph) : (modGraph s g gi f).present = s.present := rfl
@[simp] theorem modGraph_gated (g gi : Nat) (f : Graph → Graph) : (modGraph s g gi f).gated = s.gated := rfl
@[simp] theorem modGraph_recaddr (g gi : Nat) (f : Graph → Graph) : (modGraph s g gi f).recaddr = s.recaddr := rfl
@[simp] theorem modGraph_reclen (g gi : Nat) (f : Graph → Graph) : (modGraph s g gi f).reclen = s.reclen := rfl
@[simp] theorem modGraph_pcap (g gi : Nat) (f : Graph → Graph) : (modGraph s g gi f).pcap = s.pcap := rfl
@[simp] theorem modGraph_watts (g gi : Nat) (f : Graph → Graph) : (modGraph s g gi f).watts = s.watts := rfl
@[simp] theorem modGraph_junction (g gi : Nat) (f : Graph → Graph) : (modGraph s g gi f).junction = s.junction := rfl
@[simp] theorem modGraph_level (g gi : Nat) (f : Graph → Graph) : (modGraph s g gi f).level = s.level := rfl
@[simp] theorem modGraph_clearSince (g gi : Nat) (f : Graph → Graph) : (modGraph s g gi f).clearSince = s.clearSince := rfl
@[simp] theorem modGraph_gateErr (g gi : Nat) (f : Graph → Graph) : (modGraph s g gi f).gateErr = s.gateErr := rfl
@[simp] theorem modGraph_clusters (g gi : Nat) (f : Graph → Graph) : (modGraph s g gi f).clusters = s.clusters := rfl
@[simp] theorem modGraph_wave (g gi : Nat) (f : Graph → Graph) : (modGraph s g gi f).wave = s.wave := rfl
@[simp] theorem modGraph_capsule (g gi : Nat) (f : Graph → Graph) : (modGraph s g gi f).capsule = s.capsule := rfl
@[simp] theorem modGraph_fns (g gi : Nat) (f : Graph → Graph) : (modGraph s g gi f).fns = s.fns := rfl
@[simp] theorem modGraph_contexts (g gi : Nat) (f : Graph → Graph) : (modGraph s g gi f).contexts = s.contexts := rfl
@[simp] theorem modGraph_queues (g gi : Nat) (f : Graph → Graph) : (modGraph s g gi f).queues = s.queues := rfl
@[simp] theorem modGraph_barriers (g gi : Nat) (f : Graph → Graph) : (modGraph s g gi f).barriers = s.barriers := rfl
@[simp] theorem modGraph_ccbase (g gi : Nat) (f : Graph → Graph) : (modGraph s g gi f).ccbase = s.ccbase := rfl
@[simp] theorem modGraph_ccsize (g gi : Nat) (f : Graph → Graph) : (modGraph s g gi f).ccsize = s.ccsize := rfl
@[simp] theorem modGraph_kernels (g gi : Nat) (f : Graph → Graph) : (modGraph s g gi f).kernels = s.kernels := rfl
@[simp] theorem modGraph_prbase (g gi : Nat) (f : Graph → Graph) : (modGraph s g gi f).prbase = s.prbase := rfl
@[simp] theorem modGraph_prsize (g gi : Nat) (f : Graph → Graph) : (modGraph s g gi f).prsize = s.prsize := rfl
@[simp] theorem modGraph_clscfg (g gi : Nat) (f : Graph → Graph) : (modGraph s g gi f).clscfg = s.clscfg := rfl
@[simp] theorem modGraph_nextGrp (g gi : Nat) (f : Graph → Graph) : (modGraph s g gi f).nextGrp = s.nextGrp := rfl
@[simp] theorem modGraph_startCount (g gi : Nat) (f : Graph → Graph) : (modGraph s g gi f).startCount = s.startCount := rfl
@[simp] theorem modGraph_rpcfg (g gi : Nat) (f : Graph → Graph) : (modGraph s g gi f).rpcfg = s.rpcfg := rfl
@[simp] theorem modGraph_rpzero (g gi : Nat) (f : Graph → Graph) : (modGraph s g gi f).rpzero = s.rpzero := rfl
@[simp] theorem modGraph_extents (g gi : Nat) (f : Graph → Graph) : (modGraph s g gi f).extents = s.extents := rfl
@[simp] theorem modGraph_pkgid (g gi : Nat) (f : Graph → Graph) : (modGraph s g gi f).pkgid = s.pkgid := rfl
@[simp] theorem modGraph_rtab (g gi : Nat) (f : Graph → Graph) : (modGraph s g gi f).rtab = s.rtab := rfl
@[simp] theorem modGraph_links (g gi : Nat) (f : Graph → Graph) : (modGraph s g gi f).links = s.links := rfl
@[simp] theorem modGraph_jobs (g gi : Nat) (f : Graph → Graph) : (modGraph s g gi f).jobs = s.jobs := rfl
@[simp] theorem modGraph_reqs (g gi : Nat) (f : Graph → Graph) : (modGraph s g gi f).reqs = s.reqs := rfl
@[simp] theorem modGraph_outbox (g gi : Nat) (f : Graph → Graph) : (modGraph s g gi f).outbox = s.outbox := rfl
@[simp] theorem modGraph_pairCounts (g gi : Nat) (f : Graph → Graph) : (modGraph s g gi f).pairCounts = s.pairCounts := rfl
@[simp] theorem modGraph_nonces (g gi : Nat) (f : Graph → Graph) : (modGraph s g gi f).nonces = s.nonces := rfl
@[simp] theorem modGraph_meetings (g gi : Nat) (f : Graph → Graph) : (modGraph s g gi f).meetings = s.meetings := rfl
@[simp] theorem modGraph_collCounts (g gi : Nat) (f : Graph → Graph) : (modGraph s g gi f).collCounts = s.collCounts := rfl
@[simp] theorem modGraph_hcircs (g gi : Nat) (f : Graph → Graph) : (modGraph s g gi f).hcircs = s.hcircs := rfl
@[simp] theorem modGraph_earlyArms (g gi : Nat) (f : Graph → Graph) : (modGraph s g gi f).earlyArms = s.earlyArms := rfl
@[simp] theorem modGraph_dbgs (g gi : Nat) (f : Graph → Graph) : (modGraph s g gi f).dbgs = s.dbgs := rfl
@[simp] theorem modGraph_einjoff (g gi : Nat) (f : Graph → Graph) : (modGraph s g gi f).einjoff = s.einjoff := rfl
@[simp] theorem modGraph_einjerr (g gi : Nat) (f : Graph → Graph) : (modGraph s g gi f).einjerr = s.einjerr := rfl
@[simp] theorem modGraph_einjcount (g gi : Nat) (f : Graph → Graph) : (modGraph s g gi f).einjcount = s.einjcount := rfl
@[simp] theorem modGraph_mctpReply (g gi : Nat) (f : Graph → Graph) : (modGraph s g gi f).mctpReply = s.mctpReply := rfl
@[simp] theorem modGraph_timeJoined (g gi : Nat) (f : Graph → Graph) : (modGraph s g gi f).timeJoined = s.timeJoined := rfl
@[simp] theorem modGraph_d3Pending (g gi : Nat) (f : Graph → Graph) : (modGraph s g gi f).d3Pending = s.d3Pending := rfl

/-! ## modTile -/

@[simp] theorem modTile_agenda (g gi n : Nat) (f : Tile → Tile) : (modTile s g gi n f).agenda = s.agenda := rfl
@[simp] theorem modTile_site (g gi n : Nat) (f : Tile → Tile) : (modTile s g gi n f).site = s.site := rfl
@[simp] theorem modTile_part (g gi n : Nat) (f : Tile → Tile) : (modTile s g gi n f).part = s.part := rfl
@[simp] theorem modTile_fresh (g gi n : Nat) (f : Tile → Tile) : (modTile s g gi n f).fresh = s.fresh := rfl
@[simp] theorem modTile_dtime (g gi n : Nat) (f : Tile → Tile) : (modTile s g gi n f).dtime = s.dtime := rfl
@[simp] theorem modTile_cycle (g gi n : Nat) (f : Tile → Tile) : (modTile s g gi n f).cycle = s.cycle := rfl
@[simp] theorem modTile_mem (g gi n : Nat) (f : Tile → Tile) : (modTile s g gi n f).mem = s.mem := rfl
@[simp] theorem modTile_poison (g gi n : Nat) (f : Tile → Tile) : (modTile s g gi n f).poison = s.poison := rfl
@[simp] theorem modTile_soft (g gi n : Nat) (f : Tile → Tile) : (modTile s g gi n f).soft = s.soft := rfl
@[simp] theorem modTile_ownerWrites (g gi n : Nat) (f : Tile → Tile) : (modTile s g gi n f).ownerWrites = s.ownerWrites := rfl
@[simp] theorem modTile_tableError (g gi n : Nat) (f : Tile → Tile) : (modTile s g gi n f).tableError = s.tableError := rfl
@[simp] theorem modTile_pcie (g gi n : Nat) (f : Tile → Tile) : (modTile s g gi n f).pcie = s.pcie := rfl
@[simp] theorem modTile_power (g gi n : Nat) (f : Tile → Tile) : (modTile s g gi n f).power = s.power := rfl
@[simp] theorem modTile_dev (g gi n : Nat) (f : Tile → Tile) : (modTile s g gi n f).dev = s.dev := rfl
@[simp] theorem modTile_bootStep (g gi n : Nat) (f : Tile → Tile) : (modTile s g gi n f).bootStep = s.bootStep := rfl
@[simp] theorem modTile_booterr (g gi n : Nat) (f : Tile → Tile) : (modTile s g gi n f).booterr = s.booterr := rfl
@[simp] theorem modTile_fatal (g gi n : Nat) (f : Tile → Tile) : (modTile s g gi n f).fatal = s.fatal := rfl
@[simp] theorem modTile_dstate (g gi n : Nat) (f : Tile → Tile) : (modTile s g gi n f).dstate = s.dstate := rfl
@[simp] theorem modTile_present (g gi n : Nat) (f : Tile → Tile) : (modTile s g gi n f).present = s.present := rfl
@[simp] theorem modTile_gated (g gi n : Nat) (f : Tile → Tile) : (modTile s g gi n f).gated = s.gated := rfl
@[simp] theorem modTile_recaddr (g gi n : Nat) (f : Tile → Tile) : (modTile s g gi n f).recaddr = s.recaddr := rfl
@[simp] theorem modTile_reclen (g gi n : Nat) (f : Tile → Tile) : (modTile s g gi n f).reclen = s.reclen := rfl
@[simp] theorem modTile_pcap (g gi n : Nat) (f : Tile → Tile) : (modTile s g gi n f).pcap = s.pcap := rfl
@[simp] theorem modTile_watts (g gi n : Nat) (f : Tile → Tile) : (modTile s g gi n f).watts = s.watts := rfl
@[simp] theorem modTile_junction (g gi n : Nat) (f : Tile → Tile) : (modTile s g gi n f).junction = s.junction := rfl
@[simp] theorem modTile_level (g gi n : Nat) (f : Tile → Tile) : (modTile s g gi n f).level = s.level := rfl
@[simp] theorem modTile_clearSince (g gi n : Nat) (f : Tile → Tile) : (modTile s g gi n f).clearSince = s.clearSince := rfl
@[simp] theorem modTile_gateErr (g gi n : Nat) (f : Tile → Tile) : (modTile s g gi n f).gateErr = s.gateErr := rfl
@[simp] theorem modTile_clusters (g gi n : Nat) (f : Tile → Tile) : (modTile s g gi n f).clusters = s.clusters := rfl
@[simp] theorem modTile_wave (g gi n : Nat) (f : Tile → Tile) : (modTile s g gi n f).wave = s.wave := rfl
@[simp] theorem modTile_capsule (g gi n : Nat) (f : Tile → Tile) : (modTile s g gi n f).capsule = s.capsule := rfl
@[simp] theorem modTile_fns (g gi n : Nat) (f : Tile → Tile) : (modTile s g gi n f).fns = s.fns := rfl
@[simp] theorem modTile_contexts (g gi n : Nat) (f : Tile → Tile) : (modTile s g gi n f).contexts = s.contexts := rfl
@[simp] theorem modTile_queues (g gi n : Nat) (f : Tile → Tile) : (modTile s g gi n f).queues = s.queues := rfl
@[simp] theorem modTile_barriers (g gi n : Nat) (f : Tile → Tile) : (modTile s g gi n f).barriers = s.barriers := rfl
@[simp] theorem modTile_ccbase (g gi n : Nat) (f : Tile → Tile) : (modTile s g gi n f).ccbase = s.ccbase := rfl
@[simp] theorem modTile_ccsize (g gi n : Nat) (f : Tile → Tile) : (modTile s g gi n f).ccsize = s.ccsize := rfl
@[simp] theorem modTile_kernels (g gi n : Nat) (f : Tile → Tile) : (modTile s g gi n f).kernels = s.kernels := rfl
@[simp] theorem modTile_prbase (g gi n : Nat) (f : Tile → Tile) : (modTile s g gi n f).prbase = s.prbase := rfl
@[simp] theorem modTile_prsize (g gi n : Nat) (f : Tile → Tile) : (modTile s g gi n f).prsize = s.prsize := rfl
@[simp] theorem modTile_clscfg (g gi n : Nat) (f : Tile → Tile) : (modTile s g gi n f).clscfg = s.clscfg := rfl
@[simp] theorem modTile_nextGrp (g gi n : Nat) (f : Tile → Tile) : (modTile s g gi n f).nextGrp = s.nextGrp := rfl
@[simp] theorem modTile_startCount (g gi n : Nat) (f : Tile → Tile) : (modTile s g gi n f).startCount = s.startCount := rfl
@[simp] theorem modTile_rpcfg (g gi n : Nat) (f : Tile → Tile) : (modTile s g gi n f).rpcfg = s.rpcfg := rfl
@[simp] theorem modTile_rpzero (g gi n : Nat) (f : Tile → Tile) : (modTile s g gi n f).rpzero = s.rpzero := rfl
@[simp] theorem modTile_extents (g gi n : Nat) (f : Tile → Tile) : (modTile s g gi n f).extents = s.extents := rfl
@[simp] theorem modTile_pkgid (g gi n : Nat) (f : Tile → Tile) : (modTile s g gi n f).pkgid = s.pkgid := rfl
@[simp] theorem modTile_rtab (g gi n : Nat) (f : Tile → Tile) : (modTile s g gi n f).rtab = s.rtab := rfl
@[simp] theorem modTile_links (g gi n : Nat) (f : Tile → Tile) : (modTile s g gi n f).links = s.links := rfl
@[simp] theorem modTile_jobs (g gi n : Nat) (f : Tile → Tile) : (modTile s g gi n f).jobs = s.jobs := rfl
@[simp] theorem modTile_reqs (g gi n : Nat) (f : Tile → Tile) : (modTile s g gi n f).reqs = s.reqs := rfl
@[simp] theorem modTile_outbox (g gi n : Nat) (f : Tile → Tile) : (modTile s g gi n f).outbox = s.outbox := rfl
@[simp] theorem modTile_pairCounts (g gi n : Nat) (f : Tile → Tile) : (modTile s g gi n f).pairCounts = s.pairCounts := rfl
@[simp] theorem modTile_nonces (g gi n : Nat) (f : Tile → Tile) : (modTile s g gi n f).nonces = s.nonces := rfl
@[simp] theorem modTile_meetings (g gi n : Nat) (f : Tile → Tile) : (modTile s g gi n f).meetings = s.meetings := rfl
@[simp] theorem modTile_collCounts (g gi n : Nat) (f : Tile → Tile) : (modTile s g gi n f).collCounts = s.collCounts := rfl
@[simp] theorem modTile_hcircs (g gi n : Nat) (f : Tile → Tile) : (modTile s g gi n f).hcircs = s.hcircs := rfl
@[simp] theorem modTile_earlyArms (g gi n : Nat) (f : Tile → Tile) : (modTile s g gi n f).earlyArms = s.earlyArms := rfl
@[simp] theorem modTile_dbgs (g gi n : Nat) (f : Tile → Tile) : (modTile s g gi n f).dbgs = s.dbgs := rfl
@[simp] theorem modTile_einjoff (g gi n : Nat) (f : Tile → Tile) : (modTile s g gi n f).einjoff = s.einjoff := rfl
@[simp] theorem modTile_einjerr (g gi n : Nat) (f : Tile → Tile) : (modTile s g gi n f).einjerr = s.einjerr := rfl
@[simp] theorem modTile_einjcount (g gi n : Nat) (f : Tile → Tile) : (modTile s g gi n f).einjcount = s.einjcount := rfl
@[simp] theorem modTile_mctpReply (g gi n : Nat) (f : Tile → Tile) : (modTile s g gi n f).mctpReply = s.mctpReply := rfl
@[simp] theorem modTile_timeJoined (g gi n : Nat) (f : Tile → Tile) : (modTile s g gi n f).timeJoined = s.timeJoined := rfl
@[simp] theorem modTile_d3Pending (g gi n : Nat) (f : Tile → Tile) : (modTile s g gi n f).d3Pending = s.d3Pending := rfl

/-! ## modCe -/

@[simp] theorem modCe_agenda (g gi n : Nat) (f : Ce → Ce) : (modCe s g gi n f).agenda = s.agenda := rfl
@[simp] theorem modCe_site (g gi n : Nat) (f : Ce → Ce) : (modCe s g gi n f).site = s.site := rfl
@[simp] theorem modCe_part (g gi n : Nat) (f : Ce → Ce) : (modCe s g gi n f).part = s.part := rfl
@[simp] theorem modCe_fresh (g gi n : Nat) (f : Ce → Ce) : (modCe s g gi n f).fresh = s.fresh := rfl
@[simp] theorem modCe_dtime (g gi n : Nat) (f : Ce → Ce) : (modCe s g gi n f).dtime = s.dtime := rfl
@[simp] theorem modCe_cycle (g gi n : Nat) (f : Ce → Ce) : (modCe s g gi n f).cycle = s.cycle := rfl
@[simp] theorem modCe_mem (g gi n : Nat) (f : Ce → Ce) : (modCe s g gi n f).mem = s.mem := rfl
@[simp] theorem modCe_poison (g gi n : Nat) (f : Ce → Ce) : (modCe s g gi n f).poison = s.poison := rfl
@[simp] theorem modCe_soft (g gi n : Nat) (f : Ce → Ce) : (modCe s g gi n f).soft = s.soft := rfl
@[simp] theorem modCe_ownerWrites (g gi n : Nat) (f : Ce → Ce) : (modCe s g gi n f).ownerWrites = s.ownerWrites := rfl
@[simp] theorem modCe_tableError (g gi n : Nat) (f : Ce → Ce) : (modCe s g gi n f).tableError = s.tableError := rfl
@[simp] theorem modCe_pcie (g gi n : Nat) (f : Ce → Ce) : (modCe s g gi n f).pcie = s.pcie := rfl
@[simp] theorem modCe_power (g gi n : Nat) (f : Ce → Ce) : (modCe s g gi n f).power = s.power := rfl
@[simp] theorem modCe_dev (g gi n : Nat) (f : Ce → Ce) : (modCe s g gi n f).dev = s.dev := rfl
@[simp] theorem modCe_bootStep (g gi n : Nat) (f : Ce → Ce) : (modCe s g gi n f).bootStep = s.bootStep := rfl
@[simp] theorem modCe_booterr (g gi n : Nat) (f : Ce → Ce) : (modCe s g gi n f).booterr = s.booterr := rfl
@[simp] theorem modCe_fatal (g gi n : Nat) (f : Ce → Ce) : (modCe s g gi n f).fatal = s.fatal := rfl
@[simp] theorem modCe_dstate (g gi n : Nat) (f : Ce → Ce) : (modCe s g gi n f).dstate = s.dstate := rfl
@[simp] theorem modCe_present (g gi n : Nat) (f : Ce → Ce) : (modCe s g gi n f).present = s.present := rfl
@[simp] theorem modCe_gated (g gi n : Nat) (f : Ce → Ce) : (modCe s g gi n f).gated = s.gated := rfl
@[simp] theorem modCe_recaddr (g gi n : Nat) (f : Ce → Ce) : (modCe s g gi n f).recaddr = s.recaddr := rfl
@[simp] theorem modCe_reclen (g gi n : Nat) (f : Ce → Ce) : (modCe s g gi n f).reclen = s.reclen := rfl
@[simp] theorem modCe_pcap (g gi n : Nat) (f : Ce → Ce) : (modCe s g gi n f).pcap = s.pcap := rfl
@[simp] theorem modCe_watts (g gi n : Nat) (f : Ce → Ce) : (modCe s g gi n f).watts = s.watts := rfl
@[simp] theorem modCe_junction (g gi n : Nat) (f : Ce → Ce) : (modCe s g gi n f).junction = s.junction := rfl
@[simp] theorem modCe_level (g gi n : Nat) (f : Ce → Ce) : (modCe s g gi n f).level = s.level := rfl
@[simp] theorem modCe_clearSince (g gi n : Nat) (f : Ce → Ce) : (modCe s g gi n f).clearSince = s.clearSince := rfl
@[simp] theorem modCe_gateErr (g gi n : Nat) (f : Ce → Ce) : (modCe s g gi n f).gateErr = s.gateErr := rfl
@[simp] theorem modCe_clusters (g gi n : Nat) (f : Ce → Ce) : (modCe s g gi n f).clusters = s.clusters := rfl
@[simp] theorem modCe_wave (g gi n : Nat) (f : Ce → Ce) : (modCe s g gi n f).wave = s.wave := rfl
@[simp] theorem modCe_capsule (g gi n : Nat) (f : Ce → Ce) : (modCe s g gi n f).capsule = s.capsule := rfl
@[simp] theorem modCe_fns (g gi n : Nat) (f : Ce → Ce) : (modCe s g gi n f).fns = s.fns := rfl
@[simp] theorem modCe_contexts (g gi n : Nat) (f : Ce → Ce) : (modCe s g gi n f).contexts = s.contexts := rfl
@[simp] theorem modCe_queues (g gi n : Nat) (f : Ce → Ce) : (modCe s g gi n f).queues = s.queues := rfl
@[simp] theorem modCe_barriers (g gi n : Nat) (f : Ce → Ce) : (modCe s g gi n f).barriers = s.barriers := rfl
@[simp] theorem modCe_ccbase (g gi n : Nat) (f : Ce → Ce) : (modCe s g gi n f).ccbase = s.ccbase := rfl
@[simp] theorem modCe_ccsize (g gi n : Nat) (f : Ce → Ce) : (modCe s g gi n f).ccsize = s.ccsize := rfl
@[simp] theorem modCe_kernels (g gi n : Nat) (f : Ce → Ce) : (modCe s g gi n f).kernels = s.kernels := rfl
@[simp] theorem modCe_prbase (g gi n : Nat) (f : Ce → Ce) : (modCe s g gi n f).prbase = s.prbase := rfl
@[simp] theorem modCe_prsize (g gi n : Nat) (f : Ce → Ce) : (modCe s g gi n f).prsize = s.prsize := rfl
@[simp] theorem modCe_clscfg (g gi n : Nat) (f : Ce → Ce) : (modCe s g gi n f).clscfg = s.clscfg := rfl
@[simp] theorem modCe_nextGrp (g gi n : Nat) (f : Ce → Ce) : (modCe s g gi n f).nextGrp = s.nextGrp := rfl
@[simp] theorem modCe_startCount (g gi n : Nat) (f : Ce → Ce) : (modCe s g gi n f).startCount = s.startCount := rfl
@[simp] theorem modCe_rpcfg (g gi n : Nat) (f : Ce → Ce) : (modCe s g gi n f).rpcfg = s.rpcfg := rfl
@[simp] theorem modCe_rpzero (g gi n : Nat) (f : Ce → Ce) : (modCe s g gi n f).rpzero = s.rpzero := rfl
@[simp] theorem modCe_extents (g gi n : Nat) (f : Ce → Ce) : (modCe s g gi n f).extents = s.extents := rfl
@[simp] theorem modCe_pkgid (g gi n : Nat) (f : Ce → Ce) : (modCe s g gi n f).pkgid = s.pkgid := rfl
@[simp] theorem modCe_rtab (g gi n : Nat) (f : Ce → Ce) : (modCe s g gi n f).rtab = s.rtab := rfl
@[simp] theorem modCe_links (g gi n : Nat) (f : Ce → Ce) : (modCe s g gi n f).links = s.links := rfl
@[simp] theorem modCe_jobs (g gi n : Nat) (f : Ce → Ce) : (modCe s g gi n f).jobs = s.jobs := rfl
@[simp] theorem modCe_reqs (g gi n : Nat) (f : Ce → Ce) : (modCe s g gi n f).reqs = s.reqs := rfl
@[simp] theorem modCe_outbox (g gi n : Nat) (f : Ce → Ce) : (modCe s g gi n f).outbox = s.outbox := rfl
@[simp] theorem modCe_pairCounts (g gi n : Nat) (f : Ce → Ce) : (modCe s g gi n f).pairCounts = s.pairCounts := rfl
@[simp] theorem modCe_nonces (g gi n : Nat) (f : Ce → Ce) : (modCe s g gi n f).nonces = s.nonces := rfl
@[simp] theorem modCe_meetings (g gi n : Nat) (f : Ce → Ce) : (modCe s g gi n f).meetings = s.meetings := rfl
@[simp] theorem modCe_collCounts (g gi n : Nat) (f : Ce → Ce) : (modCe s g gi n f).collCounts = s.collCounts := rfl
@[simp] theorem modCe_hcircs (g gi n : Nat) (f : Ce → Ce) : (modCe s g gi n f).hcircs = s.hcircs := rfl
@[simp] theorem modCe_earlyArms (g gi n : Nat) (f : Ce → Ce) : (modCe s g gi n f).earlyArms = s.earlyArms := rfl
@[simp] theorem modCe_dbgs (g gi n : Nat) (f : Ce → Ce) : (modCe s g gi n f).dbgs = s.dbgs := rfl
@[simp] theorem modCe_einjoff (g gi n : Nat) (f : Ce → Ce) : (modCe s g gi n f).einjoff = s.einjoff := rfl
@[simp] theorem modCe_einjerr (g gi n : Nat) (f : Ce → Ce) : (modCe s g gi n f).einjerr = s.einjerr := rfl
@[simp] theorem modCe_einjcount (g gi n : Nat) (f : Ce → Ce) : (modCe s g gi n f).einjcount = s.einjcount := rfl
@[simp] theorem modCe_mctpReply (g gi n : Nat) (f : Ce → Ce) : (modCe s g gi n f).mctpReply = s.mctpReply := rfl
@[simp] theorem modCe_timeJoined (g gi n : Nat) (f : Ce → Ce) : (modCe s g gi n f).timeJoined = s.timeJoined := rfl
@[simp] theorem modCe_d3Pending (g gi n : Nat) (f : Ce → Ce) : (modCe s g gi n f).d3Pending = s.d3Pending := rfl

/-! ## modSu -/

@[simp] theorem modSu_agenda (g gi n : Nat) (f : SuState → SuState) : (modSu s g gi n f).agenda = s.agenda := rfl
@[simp] theorem modSu_site (g gi n : Nat) (f : SuState → SuState) : (modSu s g gi n f).site = s.site := rfl
@[simp] theorem modSu_part (g gi n : Nat) (f : SuState → SuState) : (modSu s g gi n f).part = s.part := rfl
@[simp] theorem modSu_fresh (g gi n : Nat) (f : SuState → SuState) : (modSu s g gi n f).fresh = s.fresh := rfl
@[simp] theorem modSu_dtime (g gi n : Nat) (f : SuState → SuState) : (modSu s g gi n f).dtime = s.dtime := rfl
@[simp] theorem modSu_cycle (g gi n : Nat) (f : SuState → SuState) : (modSu s g gi n f).cycle = s.cycle := rfl
@[simp] theorem modSu_mem (g gi n : Nat) (f : SuState → SuState) : (modSu s g gi n f).mem = s.mem := rfl
@[simp] theorem modSu_poison (g gi n : Nat) (f : SuState → SuState) : (modSu s g gi n f).poison = s.poison := rfl
@[simp] theorem modSu_soft (g gi n : Nat) (f : SuState → SuState) : (modSu s g gi n f).soft = s.soft := rfl
@[simp] theorem modSu_ownerWrites (g gi n : Nat) (f : SuState → SuState) : (modSu s g gi n f).ownerWrites = s.ownerWrites := rfl
@[simp] theorem modSu_tableError (g gi n : Nat) (f : SuState → SuState) : (modSu s g gi n f).tableError = s.tableError := rfl
@[simp] theorem modSu_pcie (g gi n : Nat) (f : SuState → SuState) : (modSu s g gi n f).pcie = s.pcie := rfl
@[simp] theorem modSu_power (g gi n : Nat) (f : SuState → SuState) : (modSu s g gi n f).power = s.power := rfl
@[simp] theorem modSu_dev (g gi n : Nat) (f : SuState → SuState) : (modSu s g gi n f).dev = s.dev := rfl
@[simp] theorem modSu_bootStep (g gi n : Nat) (f : SuState → SuState) : (modSu s g gi n f).bootStep = s.bootStep := rfl
@[simp] theorem modSu_booterr (g gi n : Nat) (f : SuState → SuState) : (modSu s g gi n f).booterr = s.booterr := rfl
@[simp] theorem modSu_fatal (g gi n : Nat) (f : SuState → SuState) : (modSu s g gi n f).fatal = s.fatal := rfl
@[simp] theorem modSu_dstate (g gi n : Nat) (f : SuState → SuState) : (modSu s g gi n f).dstate = s.dstate := rfl
@[simp] theorem modSu_present (g gi n : Nat) (f : SuState → SuState) : (modSu s g gi n f).present = s.present := rfl
@[simp] theorem modSu_gated (g gi n : Nat) (f : SuState → SuState) : (modSu s g gi n f).gated = s.gated := rfl
@[simp] theorem modSu_recaddr (g gi n : Nat) (f : SuState → SuState) : (modSu s g gi n f).recaddr = s.recaddr := rfl
@[simp] theorem modSu_reclen (g gi n : Nat) (f : SuState → SuState) : (modSu s g gi n f).reclen = s.reclen := rfl
@[simp] theorem modSu_pcap (g gi n : Nat) (f : SuState → SuState) : (modSu s g gi n f).pcap = s.pcap := rfl
@[simp] theorem modSu_watts (g gi n : Nat) (f : SuState → SuState) : (modSu s g gi n f).watts = s.watts := rfl
@[simp] theorem modSu_junction (g gi n : Nat) (f : SuState → SuState) : (modSu s g gi n f).junction = s.junction := rfl
@[simp] theorem modSu_level (g gi n : Nat) (f : SuState → SuState) : (modSu s g gi n f).level = s.level := rfl
@[simp] theorem modSu_clearSince (g gi n : Nat) (f : SuState → SuState) : (modSu s g gi n f).clearSince = s.clearSince := rfl
@[simp] theorem modSu_gateErr (g gi n : Nat) (f : SuState → SuState) : (modSu s g gi n f).gateErr = s.gateErr := rfl
@[simp] theorem modSu_clusters (g gi n : Nat) (f : SuState → SuState) : (modSu s g gi n f).clusters = s.clusters := rfl
@[simp] theorem modSu_wave (g gi n : Nat) (f : SuState → SuState) : (modSu s g gi n f).wave = s.wave := rfl
@[simp] theorem modSu_capsule (g gi n : Nat) (f : SuState → SuState) : (modSu s g gi n f).capsule = s.capsule := rfl
@[simp] theorem modSu_fns (g gi n : Nat) (f : SuState → SuState) : (modSu s g gi n f).fns = s.fns := rfl
@[simp] theorem modSu_contexts (g gi n : Nat) (f : SuState → SuState) : (modSu s g gi n f).contexts = s.contexts := rfl
@[simp] theorem modSu_queues (g gi n : Nat) (f : SuState → SuState) : (modSu s g gi n f).queues = s.queues := rfl
@[simp] theorem modSu_barriers (g gi n : Nat) (f : SuState → SuState) : (modSu s g gi n f).barriers = s.barriers := rfl
@[simp] theorem modSu_ccbase (g gi n : Nat) (f : SuState → SuState) : (modSu s g gi n f).ccbase = s.ccbase := rfl
@[simp] theorem modSu_ccsize (g gi n : Nat) (f : SuState → SuState) : (modSu s g gi n f).ccsize = s.ccsize := rfl
@[simp] theorem modSu_kernels (g gi n : Nat) (f : SuState → SuState) : (modSu s g gi n f).kernels = s.kernels := rfl
@[simp] theorem modSu_prbase (g gi n : Nat) (f : SuState → SuState) : (modSu s g gi n f).prbase = s.prbase := rfl
@[simp] theorem modSu_prsize (g gi n : Nat) (f : SuState → SuState) : (modSu s g gi n f).prsize = s.prsize := rfl
@[simp] theorem modSu_clscfg (g gi n : Nat) (f : SuState → SuState) : (modSu s g gi n f).clscfg = s.clscfg := rfl
@[simp] theorem modSu_nextGrp (g gi n : Nat) (f : SuState → SuState) : (modSu s g gi n f).nextGrp = s.nextGrp := rfl
@[simp] theorem modSu_startCount (g gi n : Nat) (f : SuState → SuState) : (modSu s g gi n f).startCount = s.startCount := rfl
@[simp] theorem modSu_rpcfg (g gi n : Nat) (f : SuState → SuState) : (modSu s g gi n f).rpcfg = s.rpcfg := rfl
@[simp] theorem modSu_rpzero (g gi n : Nat) (f : SuState → SuState) : (modSu s g gi n f).rpzero = s.rpzero := rfl
@[simp] theorem modSu_extents (g gi n : Nat) (f : SuState → SuState) : (modSu s g gi n f).extents = s.extents := rfl
@[simp] theorem modSu_pkgid (g gi n : Nat) (f : SuState → SuState) : (modSu s g gi n f).pkgid = s.pkgid := rfl
@[simp] theorem modSu_rtab (g gi n : Nat) (f : SuState → SuState) : (modSu s g gi n f).rtab = s.rtab := rfl
@[simp] theorem modSu_links (g gi n : Nat) (f : SuState → SuState) : (modSu s g gi n f).links = s.links := rfl
@[simp] theorem modSu_jobs (g gi n : Nat) (f : SuState → SuState) : (modSu s g gi n f).jobs = s.jobs := rfl
@[simp] theorem modSu_reqs (g gi n : Nat) (f : SuState → SuState) : (modSu s g gi n f).reqs = s.reqs := rfl
@[simp] theorem modSu_outbox (g gi n : Nat) (f : SuState → SuState) : (modSu s g gi n f).outbox = s.outbox := rfl
@[simp] theorem modSu_pairCounts (g gi n : Nat) (f : SuState → SuState) : (modSu s g gi n f).pairCounts = s.pairCounts := rfl
@[simp] theorem modSu_nonces (g gi n : Nat) (f : SuState → SuState) : (modSu s g gi n f).nonces = s.nonces := rfl
@[simp] theorem modSu_meetings (g gi n : Nat) (f : SuState → SuState) : (modSu s g gi n f).meetings = s.meetings := rfl
@[simp] theorem modSu_collCounts (g gi n : Nat) (f : SuState → SuState) : (modSu s g gi n f).collCounts = s.collCounts := rfl
@[simp] theorem modSu_hcircs (g gi n : Nat) (f : SuState → SuState) : (modSu s g gi n f).hcircs = s.hcircs := rfl
@[simp] theorem modSu_earlyArms (g gi n : Nat) (f : SuState → SuState) : (modSu s g gi n f).earlyArms = s.earlyArms := rfl
@[simp] theorem modSu_dbgs (g gi n : Nat) (f : SuState → SuState) : (modSu s g gi n f).dbgs = s.dbgs := rfl
@[simp] theorem modSu_einjoff (g gi n : Nat) (f : SuState → SuState) : (modSu s g gi n f).einjoff = s.einjoff := rfl
@[simp] theorem modSu_einjerr (g gi n : Nat) (f : SuState → SuState) : (modSu s g gi n f).einjerr = s.einjerr := rfl
@[simp] theorem modSu_einjcount (g gi n : Nat) (f : SuState → SuState) : (modSu s g gi n f).einjcount = s.einjcount := rfl
@[simp] theorem modSu_mctpReply (g gi n : Nat) (f : SuState → SuState) : (modSu s g gi n f).mctpReply = s.mctpReply := rfl
@[simp] theorem modSu_timeJoined (g gi n : Nat) (f : SuState → SuState) : (modSu s g gi n f).timeJoined = s.timeJoined := rfl
@[simp] theorem modSu_d3Pending (g gi n : Nat) (f : SuState → SuState) : (modSu s g gi n f).d3Pending = s.d3Pending := rfl

/-! ## modMc -/

@[simp] theorem modMc_agenda (g gi n : Nat) (f : Mc → Mc) : (modMc s g gi n f).agenda = s.agenda := rfl
@[simp] theorem modMc_site (g gi n : Nat) (f : Mc → Mc) : (modMc s g gi n f).site = s.site := rfl
@[simp] theorem modMc_part (g gi n : Nat) (f : Mc → Mc) : (modMc s g gi n f).part = s.part := rfl
@[simp] theorem modMc_fresh (g gi n : Nat) (f : Mc → Mc) : (modMc s g gi n f).fresh = s.fresh := rfl
@[simp] theorem modMc_dtime (g gi n : Nat) (f : Mc → Mc) : (modMc s g gi n f).dtime = s.dtime := rfl
@[simp] theorem modMc_cycle (g gi n : Nat) (f : Mc → Mc) : (modMc s g gi n f).cycle = s.cycle := rfl
@[simp] theorem modMc_mem (g gi n : Nat) (f : Mc → Mc) : (modMc s g gi n f).mem = s.mem := rfl
@[simp] theorem modMc_poison (g gi n : Nat) (f : Mc → Mc) : (modMc s g gi n f).poison = s.poison := rfl
@[simp] theorem modMc_soft (g gi n : Nat) (f : Mc → Mc) : (modMc s g gi n f).soft = s.soft := rfl
@[simp] theorem modMc_ownerWrites (g gi n : Nat) (f : Mc → Mc) : (modMc s g gi n f).ownerWrites = s.ownerWrites := rfl
@[simp] theorem modMc_tableError (g gi n : Nat) (f : Mc → Mc) : (modMc s g gi n f).tableError = s.tableError := rfl
@[simp] theorem modMc_pcie (g gi n : Nat) (f : Mc → Mc) : (modMc s g gi n f).pcie = s.pcie := rfl
@[simp] theorem modMc_power (g gi n : Nat) (f : Mc → Mc) : (modMc s g gi n f).power = s.power := rfl
@[simp] theorem modMc_dev (g gi n : Nat) (f : Mc → Mc) : (modMc s g gi n f).dev = s.dev := rfl
@[simp] theorem modMc_bootStep (g gi n : Nat) (f : Mc → Mc) : (modMc s g gi n f).bootStep = s.bootStep := rfl
@[simp] theorem modMc_booterr (g gi n : Nat) (f : Mc → Mc) : (modMc s g gi n f).booterr = s.booterr := rfl
@[simp] theorem modMc_fatal (g gi n : Nat) (f : Mc → Mc) : (modMc s g gi n f).fatal = s.fatal := rfl
@[simp] theorem modMc_dstate (g gi n : Nat) (f : Mc → Mc) : (modMc s g gi n f).dstate = s.dstate := rfl
@[simp] theorem modMc_present (g gi n : Nat) (f : Mc → Mc) : (modMc s g gi n f).present = s.present := rfl
@[simp] theorem modMc_gated (g gi n : Nat) (f : Mc → Mc) : (modMc s g gi n f).gated = s.gated := rfl
@[simp] theorem modMc_recaddr (g gi n : Nat) (f : Mc → Mc) : (modMc s g gi n f).recaddr = s.recaddr := rfl
@[simp] theorem modMc_reclen (g gi n : Nat) (f : Mc → Mc) : (modMc s g gi n f).reclen = s.reclen := rfl
@[simp] theorem modMc_pcap (g gi n : Nat) (f : Mc → Mc) : (modMc s g gi n f).pcap = s.pcap := rfl
@[simp] theorem modMc_watts (g gi n : Nat) (f : Mc → Mc) : (modMc s g gi n f).watts = s.watts := rfl
@[simp] theorem modMc_junction (g gi n : Nat) (f : Mc → Mc) : (modMc s g gi n f).junction = s.junction := rfl
@[simp] theorem modMc_level (g gi n : Nat) (f : Mc → Mc) : (modMc s g gi n f).level = s.level := rfl
@[simp] theorem modMc_clearSince (g gi n : Nat) (f : Mc → Mc) : (modMc s g gi n f).clearSince = s.clearSince := rfl
@[simp] theorem modMc_gateErr (g gi n : Nat) (f : Mc → Mc) : (modMc s g gi n f).gateErr = s.gateErr := rfl
@[simp] theorem modMc_clusters (g gi n : Nat) (f : Mc → Mc) : (modMc s g gi n f).clusters = s.clusters := rfl
@[simp] theorem modMc_wave (g gi n : Nat) (f : Mc → Mc) : (modMc s g gi n f).wave = s.wave := rfl
@[simp] theorem modMc_capsule (g gi n : Nat) (f : Mc → Mc) : (modMc s g gi n f).capsule = s.capsule := rfl
@[simp] theorem modMc_fns (g gi n : Nat) (f : Mc → Mc) : (modMc s g gi n f).fns = s.fns := rfl
@[simp] theorem modMc_contexts (g gi n : Nat) (f : Mc → Mc) : (modMc s g gi n f).contexts = s.contexts := rfl
@[simp] theorem modMc_queues (g gi n : Nat) (f : Mc → Mc) : (modMc s g gi n f).queues = s.queues := rfl
@[simp] theorem modMc_barriers (g gi n : Nat) (f : Mc → Mc) : (modMc s g gi n f).barriers = s.barriers := rfl
@[simp] theorem modMc_ccbase (g gi n : Nat) (f : Mc → Mc) : (modMc s g gi n f).ccbase = s.ccbase := rfl
@[simp] theorem modMc_ccsize (g gi n : Nat) (f : Mc → Mc) : (modMc s g gi n f).ccsize = s.ccsize := rfl
@[simp] theorem modMc_kernels (g gi n : Nat) (f : Mc → Mc) : (modMc s g gi n f).kernels = s.kernels := rfl
@[simp] theorem modMc_prbase (g gi n : Nat) (f : Mc → Mc) : (modMc s g gi n f).prbase = s.prbase := rfl
@[simp] theorem modMc_prsize (g gi n : Nat) (f : Mc → Mc) : (modMc s g gi n f).prsize = s.prsize := rfl
@[simp] theorem modMc_clscfg (g gi n : Nat) (f : Mc → Mc) : (modMc s g gi n f).clscfg = s.clscfg := rfl
@[simp] theorem modMc_nextGrp (g gi n : Nat) (f : Mc → Mc) : (modMc s g gi n f).nextGrp = s.nextGrp := rfl
@[simp] theorem modMc_startCount (g gi n : Nat) (f : Mc → Mc) : (modMc s g gi n f).startCount = s.startCount := rfl
@[simp] theorem modMc_rpcfg (g gi n : Nat) (f : Mc → Mc) : (modMc s g gi n f).rpcfg = s.rpcfg := rfl
@[simp] theorem modMc_rpzero (g gi n : Nat) (f : Mc → Mc) : (modMc s g gi n f).rpzero = s.rpzero := rfl
@[simp] theorem modMc_extents (g gi n : Nat) (f : Mc → Mc) : (modMc s g gi n f).extents = s.extents := rfl
@[simp] theorem modMc_pkgid (g gi n : Nat) (f : Mc → Mc) : (modMc s g gi n f).pkgid = s.pkgid := rfl
@[simp] theorem modMc_rtab (g gi n : Nat) (f : Mc → Mc) : (modMc s g gi n f).rtab = s.rtab := rfl
@[simp] theorem modMc_links (g gi n : Nat) (f : Mc → Mc) : (modMc s g gi n f).links = s.links := rfl
@[simp] theorem modMc_jobs (g gi n : Nat) (f : Mc → Mc) : (modMc s g gi n f).jobs = s.jobs := rfl
@[simp] theorem modMc_reqs (g gi n : Nat) (f : Mc → Mc) : (modMc s g gi n f).reqs = s.reqs := rfl
@[simp] theorem modMc_outbox (g gi n : Nat) (f : Mc → Mc) : (modMc s g gi n f).outbox = s.outbox := rfl
@[simp] theorem modMc_pairCounts (g gi n : Nat) (f : Mc → Mc) : (modMc s g gi n f).pairCounts = s.pairCounts := rfl
@[simp] theorem modMc_nonces (g gi n : Nat) (f : Mc → Mc) : (modMc s g gi n f).nonces = s.nonces := rfl
@[simp] theorem modMc_meetings (g gi n : Nat) (f : Mc → Mc) : (modMc s g gi n f).meetings = s.meetings := rfl
@[simp] theorem modMc_collCounts (g gi n : Nat) (f : Mc → Mc) : (modMc s g gi n f).collCounts = s.collCounts := rfl
@[simp] theorem modMc_hcircs (g gi n : Nat) (f : Mc → Mc) : (modMc s g gi n f).hcircs = s.hcircs := rfl
@[simp] theorem modMc_earlyArms (g gi n : Nat) (f : Mc → Mc) : (modMc s g gi n f).earlyArms = s.earlyArms := rfl
@[simp] theorem modMc_dbgs (g gi n : Nat) (f : Mc → Mc) : (modMc s g gi n f).dbgs = s.dbgs := rfl
@[simp] theorem modMc_einjoff (g gi n : Nat) (f : Mc → Mc) : (modMc s g gi n f).einjoff = s.einjoff := rfl
@[simp] theorem modMc_einjerr (g gi n : Nat) (f : Mc → Mc) : (modMc s g gi n f).einjerr = s.einjerr := rfl
@[simp] theorem modMc_einjcount (g gi n : Nat) (f : Mc → Mc) : (modMc s g gi n f).einjcount = s.einjcount := rfl
@[simp] theorem modMc_mctpReply (g gi n : Nat) (f : Mc → Mc) : (modMc s g gi n f).mctpReply = s.mctpReply := rfl
@[simp] theorem modMc_timeJoined (g gi n : Nat) (f : Mc → Mc) : (modMc s g gi n f).timeJoined = s.timeJoined := rfl
@[simp] theorem modMc_d3Pending (g gi n : Nat) (f : Mc → Mc) : (modMc s g gi n f).d3Pending = s.d3Pending := rfl

/-! ## modMt -/

@[simp] theorem modMt_agenda (g gi n : Nat) (f : Mt → Mt) : (modMt s g gi n f).agenda = s.agenda := rfl
@[simp] theorem modMt_site (g gi n : Nat) (f : Mt → Mt) : (modMt s g gi n f).site = s.site := rfl
@[simp] theorem modMt_part (g gi n : Nat) (f : Mt → Mt) : (modMt s g gi n f).part = s.part := rfl
@[simp] theorem modMt_fresh (g gi n : Nat) (f : Mt → Mt) : (modMt s g gi n f).fresh = s.fresh := rfl
@[simp] theorem modMt_dtime (g gi n : Nat) (f : Mt → Mt) : (modMt s g gi n f).dtime = s.dtime := rfl
@[simp] theorem modMt_cycle (g gi n : Nat) (f : Mt → Mt) : (modMt s g gi n f).cycle = s.cycle := rfl
@[simp] theorem modMt_mem (g gi n : Nat) (f : Mt → Mt) : (modMt s g gi n f).mem = s.mem := rfl
@[simp] theorem modMt_poison (g gi n : Nat) (f : Mt → Mt) : (modMt s g gi n f).poison = s.poison := rfl
@[simp] theorem modMt_soft (g gi n : Nat) (f : Mt → Mt) : (modMt s g gi n f).soft = s.soft := rfl
@[simp] theorem modMt_ownerWrites (g gi n : Nat) (f : Mt → Mt) : (modMt s g gi n f).ownerWrites = s.ownerWrites := rfl
@[simp] theorem modMt_tableError (g gi n : Nat) (f : Mt → Mt) : (modMt s g gi n f).tableError = s.tableError := rfl
@[simp] theorem modMt_pcie (g gi n : Nat) (f : Mt → Mt) : (modMt s g gi n f).pcie = s.pcie := rfl
@[simp] theorem modMt_power (g gi n : Nat) (f : Mt → Mt) : (modMt s g gi n f).power = s.power := rfl
@[simp] theorem modMt_dev (g gi n : Nat) (f : Mt → Mt) : (modMt s g gi n f).dev = s.dev := rfl
@[simp] theorem modMt_bootStep (g gi n : Nat) (f : Mt → Mt) : (modMt s g gi n f).bootStep = s.bootStep := rfl
@[simp] theorem modMt_booterr (g gi n : Nat) (f : Mt → Mt) : (modMt s g gi n f).booterr = s.booterr := rfl
@[simp] theorem modMt_fatal (g gi n : Nat) (f : Mt → Mt) : (modMt s g gi n f).fatal = s.fatal := rfl
@[simp] theorem modMt_dstate (g gi n : Nat) (f : Mt → Mt) : (modMt s g gi n f).dstate = s.dstate := rfl
@[simp] theorem modMt_present (g gi n : Nat) (f : Mt → Mt) : (modMt s g gi n f).present = s.present := rfl
@[simp] theorem modMt_gated (g gi n : Nat) (f : Mt → Mt) : (modMt s g gi n f).gated = s.gated := rfl
@[simp] theorem modMt_recaddr (g gi n : Nat) (f : Mt → Mt) : (modMt s g gi n f).recaddr = s.recaddr := rfl
@[simp] theorem modMt_reclen (g gi n : Nat) (f : Mt → Mt) : (modMt s g gi n f).reclen = s.reclen := rfl
@[simp] theorem modMt_pcap (g gi n : Nat) (f : Mt → Mt) : (modMt s g gi n f).pcap = s.pcap := rfl
@[simp] theorem modMt_watts (g gi n : Nat) (f : Mt → Mt) : (modMt s g gi n f).watts = s.watts := rfl
@[simp] theorem modMt_junction (g gi n : Nat) (f : Mt → Mt) : (modMt s g gi n f).junction = s.junction := rfl
@[simp] theorem modMt_level (g gi n : Nat) (f : Mt → Mt) : (modMt s g gi n f).level = s.level := rfl
@[simp] theorem modMt_clearSince (g gi n : Nat) (f : Mt → Mt) : (modMt s g gi n f).clearSince = s.clearSince := rfl
@[simp] theorem modMt_gateErr (g gi n : Nat) (f : Mt → Mt) : (modMt s g gi n f).gateErr = s.gateErr := rfl
@[simp] theorem modMt_clusters (g gi n : Nat) (f : Mt → Mt) : (modMt s g gi n f).clusters = s.clusters := rfl
@[simp] theorem modMt_wave (g gi n : Nat) (f : Mt → Mt) : (modMt s g gi n f).wave = s.wave := rfl
@[simp] theorem modMt_capsule (g gi n : Nat) (f : Mt → Mt) : (modMt s g gi n f).capsule = s.capsule := rfl
@[simp] theorem modMt_fns (g gi n : Nat) (f : Mt → Mt) : (modMt s g gi n f).fns = s.fns := rfl
@[simp] theorem modMt_contexts (g gi n : Nat) (f : Mt → Mt) : (modMt s g gi n f).contexts = s.contexts := rfl
@[simp] theorem modMt_queues (g gi n : Nat) (f : Mt → Mt) : (modMt s g gi n f).queues = s.queues := rfl
@[simp] theorem modMt_barriers (g gi n : Nat) (f : Mt → Mt) : (modMt s g gi n f).barriers = s.barriers := rfl
@[simp] theorem modMt_ccbase (g gi n : Nat) (f : Mt → Mt) : (modMt s g gi n f).ccbase = s.ccbase := rfl
@[simp] theorem modMt_ccsize (g gi n : Nat) (f : Mt → Mt) : (modMt s g gi n f).ccsize = s.ccsize := rfl
@[simp] theorem modMt_kernels (g gi n : Nat) (f : Mt → Mt) : (modMt s g gi n f).kernels = s.kernels := rfl
@[simp] theorem modMt_prbase (g gi n : Nat) (f : Mt → Mt) : (modMt s g gi n f).prbase = s.prbase := rfl
@[simp] theorem modMt_prsize (g gi n : Nat) (f : Mt → Mt) : (modMt s g gi n f).prsize = s.prsize := rfl
@[simp] theorem modMt_clscfg (g gi n : Nat) (f : Mt → Mt) : (modMt s g gi n f).clscfg = s.clscfg := rfl
@[simp] theorem modMt_nextGrp (g gi n : Nat) (f : Mt → Mt) : (modMt s g gi n f).nextGrp = s.nextGrp := rfl
@[simp] theorem modMt_startCount (g gi n : Nat) (f : Mt → Mt) : (modMt s g gi n f).startCount = s.startCount := rfl
@[simp] theorem modMt_rpcfg (g gi n : Nat) (f : Mt → Mt) : (modMt s g gi n f).rpcfg = s.rpcfg := rfl
@[simp] theorem modMt_rpzero (g gi n : Nat) (f : Mt → Mt) : (modMt s g gi n f).rpzero = s.rpzero := rfl
@[simp] theorem modMt_extents (g gi n : Nat) (f : Mt → Mt) : (modMt s g gi n f).extents = s.extents := rfl
@[simp] theorem modMt_pkgid (g gi n : Nat) (f : Mt → Mt) : (modMt s g gi n f).pkgid = s.pkgid := rfl
@[simp] theorem modMt_rtab (g gi n : Nat) (f : Mt → Mt) : (modMt s g gi n f).rtab = s.rtab := rfl
@[simp] theorem modMt_links (g gi n : Nat) (f : Mt → Mt) : (modMt s g gi n f).links = s.links := rfl
@[simp] theorem modMt_jobs (g gi n : Nat) (f : Mt → Mt) : (modMt s g gi n f).jobs = s.jobs := rfl
@[simp] theorem modMt_reqs (g gi n : Nat) (f : Mt → Mt) : (modMt s g gi n f).reqs = s.reqs := rfl
@[simp] theorem modMt_outbox (g gi n : Nat) (f : Mt → Mt) : (modMt s g gi n f).outbox = s.outbox := rfl
@[simp] theorem modMt_pairCounts (g gi n : Nat) (f : Mt → Mt) : (modMt s g gi n f).pairCounts = s.pairCounts := rfl
@[simp] theorem modMt_nonces (g gi n : Nat) (f : Mt → Mt) : (modMt s g gi n f).nonces = s.nonces := rfl
@[simp] theorem modMt_meetings (g gi n : Nat) (f : Mt → Mt) : (modMt s g gi n f).meetings = s.meetings := rfl
@[simp] theorem modMt_collCounts (g gi n : Nat) (f : Mt → Mt) : (modMt s g gi n f).collCounts = s.collCounts := rfl
@[simp] theorem modMt_hcircs (g gi n : Nat) (f : Mt → Mt) : (modMt s g gi n f).hcircs = s.hcircs := rfl
@[simp] theorem modMt_earlyArms (g gi n : Nat) (f : Mt → Mt) : (modMt s g gi n f).earlyArms = s.earlyArms := rfl
@[simp] theorem modMt_dbgs (g gi n : Nat) (f : Mt → Mt) : (modMt s g gi n f).dbgs = s.dbgs := rfl
@[simp] theorem modMt_einjoff (g gi n : Nat) (f : Mt → Mt) : (modMt s g gi n f).einjoff = s.einjoff := rfl
@[simp] theorem modMt_einjerr (g gi n : Nat) (f : Mt → Mt) : (modMt s g gi n f).einjerr = s.einjerr := rfl
@[simp] theorem modMt_einjcount (g gi n : Nat) (f : Mt → Mt) : (modMt s g gi n f).einjcount = s.einjcount := rfl
@[simp] theorem modMt_mctpReply (g gi n : Nat) (f : Mt → Mt) : (modMt s g gi n f).mctpReply = s.mctpReply := rfl
@[simp] theorem modMt_timeJoined (g gi n : Nat) (f : Mt → Mt) : (modMt s g gi n f).timeJoined = s.timeJoined := rfl
@[simp] theorem modMt_d3Pending (g gi n : Nat) (f : Mt → Mt) : (modMt s g gi n f).d3Pending = s.d3Pending := rfl

/-! ## modMtFn -/

@[simp] theorem modMtFn_agenda (g gi n : Nat) (f : MtState → MtState) : (modMtFn s g gi n f).agenda = s.agenda := rfl
@[simp] theorem modMtFn_site (g gi n : Nat) (f : MtState → MtState) : (modMtFn s g gi n f).site = s.site := rfl
@[simp] theorem modMtFn_part (g gi n : Nat) (f : MtState → MtState) : (modMtFn s g gi n f).part = s.part := rfl
@[simp] theorem modMtFn_fresh (g gi n : Nat) (f : MtState → MtState) : (modMtFn s g gi n f).fresh = s.fresh := rfl
@[simp] theorem modMtFn_dtime (g gi n : Nat) (f : MtState → MtState) : (modMtFn s g gi n f).dtime = s.dtime := rfl
@[simp] theorem modMtFn_cycle (g gi n : Nat) (f : MtState → MtState) : (modMtFn s g gi n f).cycle = s.cycle := rfl
@[simp] theorem modMtFn_mem (g gi n : Nat) (f : MtState → MtState) : (modMtFn s g gi n f).mem = s.mem := rfl
@[simp] theorem modMtFn_poison (g gi n : Nat) (f : MtState → MtState) : (modMtFn s g gi n f).poison = s.poison := rfl
@[simp] theorem modMtFn_soft (g gi n : Nat) (f : MtState → MtState) : (modMtFn s g gi n f).soft = s.soft := rfl
@[simp] theorem modMtFn_ownerWrites (g gi n : Nat) (f : MtState → MtState) : (modMtFn s g gi n f).ownerWrites = s.ownerWrites := rfl
@[simp] theorem modMtFn_tableError (g gi n : Nat) (f : MtState → MtState) : (modMtFn s g gi n f).tableError = s.tableError := rfl
@[simp] theorem modMtFn_pcie (g gi n : Nat) (f : MtState → MtState) : (modMtFn s g gi n f).pcie = s.pcie := rfl
@[simp] theorem modMtFn_power (g gi n : Nat) (f : MtState → MtState) : (modMtFn s g gi n f).power = s.power := rfl
@[simp] theorem modMtFn_dev (g gi n : Nat) (f : MtState → MtState) : (modMtFn s g gi n f).dev = s.dev := rfl
@[simp] theorem modMtFn_bootStep (g gi n : Nat) (f : MtState → MtState) : (modMtFn s g gi n f).bootStep = s.bootStep := rfl
@[simp] theorem modMtFn_booterr (g gi n : Nat) (f : MtState → MtState) : (modMtFn s g gi n f).booterr = s.booterr := rfl
@[simp] theorem modMtFn_fatal (g gi n : Nat) (f : MtState → MtState) : (modMtFn s g gi n f).fatal = s.fatal := rfl
@[simp] theorem modMtFn_dstate (g gi n : Nat) (f : MtState → MtState) : (modMtFn s g gi n f).dstate = s.dstate := rfl
@[simp] theorem modMtFn_present (g gi n : Nat) (f : MtState → MtState) : (modMtFn s g gi n f).present = s.present := rfl
@[simp] theorem modMtFn_gated (g gi n : Nat) (f : MtState → MtState) : (modMtFn s g gi n f).gated = s.gated := rfl
@[simp] theorem modMtFn_recaddr (g gi n : Nat) (f : MtState → MtState) : (modMtFn s g gi n f).recaddr = s.recaddr := rfl
@[simp] theorem modMtFn_reclen (g gi n : Nat) (f : MtState → MtState) : (modMtFn s g gi n f).reclen = s.reclen := rfl
@[simp] theorem modMtFn_pcap (g gi n : Nat) (f : MtState → MtState) : (modMtFn s g gi n f).pcap = s.pcap := rfl
@[simp] theorem modMtFn_watts (g gi n : Nat) (f : MtState → MtState) : (modMtFn s g gi n f).watts = s.watts := rfl
@[simp] theorem modMtFn_junction (g gi n : Nat) (f : MtState → MtState) : (modMtFn s g gi n f).junction = s.junction := rfl
@[simp] theorem modMtFn_level (g gi n : Nat) (f : MtState → MtState) : (modMtFn s g gi n f).level = s.level := rfl
@[simp] theorem modMtFn_clearSince (g gi n : Nat) (f : MtState → MtState) : (modMtFn s g gi n f).clearSince = s.clearSince := rfl
@[simp] theorem modMtFn_gateErr (g gi n : Nat) (f : MtState → MtState) : (modMtFn s g gi n f).gateErr = s.gateErr := rfl
@[simp] theorem modMtFn_clusters (g gi n : Nat) (f : MtState → MtState) : (modMtFn s g gi n f).clusters = s.clusters := rfl
@[simp] theorem modMtFn_wave (g gi n : Nat) (f : MtState → MtState) : (modMtFn s g gi n f).wave = s.wave := rfl
@[simp] theorem modMtFn_capsule (g gi n : Nat) (f : MtState → MtState) : (modMtFn s g gi n f).capsule = s.capsule := rfl
@[simp] theorem modMtFn_fns (g gi n : Nat) (f : MtState → MtState) : (modMtFn s g gi n f).fns = s.fns := rfl
@[simp] theorem modMtFn_contexts (g gi n : Nat) (f : MtState → MtState) : (modMtFn s g gi n f).contexts = s.contexts := rfl
@[simp] theorem modMtFn_queues (g gi n : Nat) (f : MtState → MtState) : (modMtFn s g gi n f).queues = s.queues := rfl
@[simp] theorem modMtFn_barriers (g gi n : Nat) (f : MtState → MtState) : (modMtFn s g gi n f).barriers = s.barriers := rfl
@[simp] theorem modMtFn_ccbase (g gi n : Nat) (f : MtState → MtState) : (modMtFn s g gi n f).ccbase = s.ccbase := rfl
@[simp] theorem modMtFn_ccsize (g gi n : Nat) (f : MtState → MtState) : (modMtFn s g gi n f).ccsize = s.ccsize := rfl
@[simp] theorem modMtFn_kernels (g gi n : Nat) (f : MtState → MtState) : (modMtFn s g gi n f).kernels = s.kernels := rfl
@[simp] theorem modMtFn_prbase (g gi n : Nat) (f : MtState → MtState) : (modMtFn s g gi n f).prbase = s.prbase := rfl
@[simp] theorem modMtFn_prsize (g gi n : Nat) (f : MtState → MtState) : (modMtFn s g gi n f).prsize = s.prsize := rfl
@[simp] theorem modMtFn_clscfg (g gi n : Nat) (f : MtState → MtState) : (modMtFn s g gi n f).clscfg = s.clscfg := rfl
@[simp] theorem modMtFn_nextGrp (g gi n : Nat) (f : MtState → MtState) : (modMtFn s g gi n f).nextGrp = s.nextGrp := rfl
@[simp] theorem modMtFn_startCount (g gi n : Nat) (f : MtState → MtState) : (modMtFn s g gi n f).startCount = s.startCount := rfl
@[simp] theorem modMtFn_rpcfg (g gi n : Nat) (f : MtState → MtState) : (modMtFn s g gi n f).rpcfg = s.rpcfg := rfl
@[simp] theorem modMtFn_rpzero (g gi n : Nat) (f : MtState → MtState) : (modMtFn s g gi n f).rpzero = s.rpzero := rfl
@[simp] theorem modMtFn_extents (g gi n : Nat) (f : MtState → MtState) : (modMtFn s g gi n f).extents = s.extents := rfl
@[simp] theorem modMtFn_pkgid (g gi n : Nat) (f : MtState → MtState) : (modMtFn s g gi n f).pkgid = s.pkgid := rfl
@[simp] theorem modMtFn_rtab (g gi n : Nat) (f : MtState → MtState) : (modMtFn s g gi n f).rtab = s.rtab := rfl
@[simp] theorem modMtFn_links (g gi n : Nat) (f : MtState → MtState) : (modMtFn s g gi n f).links = s.links := rfl
@[simp] theorem modMtFn_jobs (g gi n : Nat) (f : MtState → MtState) : (modMtFn s g gi n f).jobs = s.jobs := rfl
@[simp] theorem modMtFn_reqs (g gi n : Nat) (f : MtState → MtState) : (modMtFn s g gi n f).reqs = s.reqs := rfl
@[simp] theorem modMtFn_outbox (g gi n : Nat) (f : MtState → MtState) : (modMtFn s g gi n f).outbox = s.outbox := rfl
@[simp] theorem modMtFn_pairCounts (g gi n : Nat) (f : MtState → MtState) : (modMtFn s g gi n f).pairCounts = s.pairCounts := rfl
@[simp] theorem modMtFn_nonces (g gi n : Nat) (f : MtState → MtState) : (modMtFn s g gi n f).nonces = s.nonces := rfl
@[simp] theorem modMtFn_meetings (g gi n : Nat) (f : MtState → MtState) : (modMtFn s g gi n f).meetings = s.meetings := rfl
@[simp] theorem modMtFn_collCounts (g gi n : Nat) (f : MtState → MtState) : (modMtFn s g gi n f).collCounts = s.collCounts := rfl
@[simp] theorem modMtFn_hcircs (g gi n : Nat) (f : MtState → MtState) : (modMtFn s g gi n f).hcircs = s.hcircs := rfl
@[simp] theorem modMtFn_earlyArms (g gi n : Nat) (f : MtState → MtState) : (modMtFn s g gi n f).earlyArms = s.earlyArms := rfl
@[simp] theorem modMtFn_dbgs (g gi n : Nat) (f : MtState → MtState) : (modMtFn s g gi n f).dbgs = s.dbgs := rfl
@[simp] theorem modMtFn_einjoff (g gi n : Nat) (f : MtState → MtState) : (modMtFn s g gi n f).einjoff = s.einjoff := rfl
@[simp] theorem modMtFn_einjerr (g gi n : Nat) (f : MtState → MtState) : (modMtFn s g gi n f).einjerr = s.einjerr := rfl
@[simp] theorem modMtFn_einjcount (g gi n : Nat) (f : MtState → MtState) : (modMtFn s g gi n f).einjcount = s.einjcount := rfl
@[simp] theorem modMtFn_mctpReply (g gi n : Nat) (f : MtState → MtState) : (modMtFn s g gi n f).mctpReply = s.mctpReply := rfl
@[simp] theorem modMtFn_timeJoined (g gi n : Nat) (f : MtState → MtState) : (modMtFn s g gi n f).timeJoined = s.timeJoined := rfl
@[simp] theorem modMtFn_d3Pending (g gi n : Nat) (f : MtState → MtState) : (modMtFn s g gi n f).d3Pending = s.d3Pending := rfl

/-! ## modAg -/

@[simp] theorem modAg_agenda (g gi n lane : Nat) (f : AgState → AgState) : (modAg s g gi n lane f).agenda = s.agenda := rfl
@[simp] theorem modAg_site (g gi n lane : Nat) (f : AgState → AgState) : (modAg s g gi n lane f).site = s.site := rfl
@[simp] theorem modAg_part (g gi n lane : Nat) (f : AgState → AgState) : (modAg s g gi n lane f).part = s.part := rfl
@[simp] theorem modAg_fresh (g gi n lane : Nat) (f : AgState → AgState) : (modAg s g gi n lane f).fresh = s.fresh := rfl
@[simp] theorem modAg_dtime (g gi n lane : Nat) (f : AgState → AgState) : (modAg s g gi n lane f).dtime = s.dtime := rfl
@[simp] theorem modAg_cycle (g gi n lane : Nat) (f : AgState → AgState) : (modAg s g gi n lane f).cycle = s.cycle := rfl
@[simp] theorem modAg_mem (g gi n lane : Nat) (f : AgState → AgState) : (modAg s g gi n lane f).mem = s.mem := rfl
@[simp] theorem modAg_poison (g gi n lane : Nat) (f : AgState → AgState) : (modAg s g gi n lane f).poison = s.poison := rfl
@[simp] theorem modAg_soft (g gi n lane : Nat) (f : AgState → AgState) : (modAg s g gi n lane f).soft = s.soft := rfl
@[simp] theorem modAg_ownerWrites (g gi n lane : Nat) (f : AgState → AgState) : (modAg s g gi n lane f).ownerWrites = s.ownerWrites := rfl
@[simp] theorem modAg_tableError (g gi n lane : Nat) (f : AgState → AgState) : (modAg s g gi n lane f).tableError = s.tableError := rfl
@[simp] theorem modAg_pcie (g gi n lane : Nat) (f : AgState → AgState) : (modAg s g gi n lane f).pcie = s.pcie := rfl
@[simp] theorem modAg_power (g gi n lane : Nat) (f : AgState → AgState) : (modAg s g gi n lane f).power = s.power := rfl
@[simp] theorem modAg_dev (g gi n lane : Nat) (f : AgState → AgState) : (modAg s g gi n lane f).dev = s.dev := rfl
@[simp] theorem modAg_bootStep (g gi n lane : Nat) (f : AgState → AgState) : (modAg s g gi n lane f).bootStep = s.bootStep := rfl
@[simp] theorem modAg_booterr (g gi n lane : Nat) (f : AgState → AgState) : (modAg s g gi n lane f).booterr = s.booterr := rfl
@[simp] theorem modAg_fatal (g gi n lane : Nat) (f : AgState → AgState) : (modAg s g gi n lane f).fatal = s.fatal := rfl
@[simp] theorem modAg_dstate (g gi n lane : Nat) (f : AgState → AgState) : (modAg s g gi n lane f).dstate = s.dstate := rfl
@[simp] theorem modAg_present (g gi n lane : Nat) (f : AgState → AgState) : (modAg s g gi n lane f).present = s.present := rfl
@[simp] theorem modAg_gated (g gi n lane : Nat) (f : AgState → AgState) : (modAg s g gi n lane f).gated = s.gated := rfl
@[simp] theorem modAg_recaddr (g gi n lane : Nat) (f : AgState → AgState) : (modAg s g gi n lane f).recaddr = s.recaddr := rfl
@[simp] theorem modAg_reclen (g gi n lane : Nat) (f : AgState → AgState) : (modAg s g gi n lane f).reclen = s.reclen := rfl
@[simp] theorem modAg_pcap (g gi n lane : Nat) (f : AgState → AgState) : (modAg s g gi n lane f).pcap = s.pcap := rfl
@[simp] theorem modAg_watts (g gi n lane : Nat) (f : AgState → AgState) : (modAg s g gi n lane f).watts = s.watts := rfl
@[simp] theorem modAg_junction (g gi n lane : Nat) (f : AgState → AgState) : (modAg s g gi n lane f).junction = s.junction := rfl
@[simp] theorem modAg_level (g gi n lane : Nat) (f : AgState → AgState) : (modAg s g gi n lane f).level = s.level := rfl
@[simp] theorem modAg_clearSince (g gi n lane : Nat) (f : AgState → AgState) : (modAg s g gi n lane f).clearSince = s.clearSince := rfl
@[simp] theorem modAg_gateErr (g gi n lane : Nat) (f : AgState → AgState) : (modAg s g gi n lane f).gateErr = s.gateErr := rfl
@[simp] theorem modAg_clusters (g gi n lane : Nat) (f : AgState → AgState) : (modAg s g gi n lane f).clusters = s.clusters := rfl
@[simp] theorem modAg_wave (g gi n lane : Nat) (f : AgState → AgState) : (modAg s g gi n lane f).wave = s.wave := rfl
@[simp] theorem modAg_capsule (g gi n lane : Nat) (f : AgState → AgState) : (modAg s g gi n lane f).capsule = s.capsule := rfl
@[simp] theorem modAg_fns (g gi n lane : Nat) (f : AgState → AgState) : (modAg s g gi n lane f).fns = s.fns := rfl
@[simp] theorem modAg_contexts (g gi n lane : Nat) (f : AgState → AgState) : (modAg s g gi n lane f).contexts = s.contexts := rfl
@[simp] theorem modAg_queues (g gi n lane : Nat) (f : AgState → AgState) : (modAg s g gi n lane f).queues = s.queues := rfl
@[simp] theorem modAg_barriers (g gi n lane : Nat) (f : AgState → AgState) : (modAg s g gi n lane f).barriers = s.barriers := rfl
@[simp] theorem modAg_ccbase (g gi n lane : Nat) (f : AgState → AgState) : (modAg s g gi n lane f).ccbase = s.ccbase := rfl
@[simp] theorem modAg_ccsize (g gi n lane : Nat) (f : AgState → AgState) : (modAg s g gi n lane f).ccsize = s.ccsize := rfl
@[simp] theorem modAg_kernels (g gi n lane : Nat) (f : AgState → AgState) : (modAg s g gi n lane f).kernels = s.kernels := rfl
@[simp] theorem modAg_prbase (g gi n lane : Nat) (f : AgState → AgState) : (modAg s g gi n lane f).prbase = s.prbase := rfl
@[simp] theorem modAg_prsize (g gi n lane : Nat) (f : AgState → AgState) : (modAg s g gi n lane f).prsize = s.prsize := rfl
@[simp] theorem modAg_clscfg (g gi n lane : Nat) (f : AgState → AgState) : (modAg s g gi n lane f).clscfg = s.clscfg := rfl
@[simp] theorem modAg_nextGrp (g gi n lane : Nat) (f : AgState → AgState) : (modAg s g gi n lane f).nextGrp = s.nextGrp := rfl
@[simp] theorem modAg_startCount (g gi n lane : Nat) (f : AgState → AgState) : (modAg s g gi n lane f).startCount = s.startCount := rfl
@[simp] theorem modAg_rpcfg (g gi n lane : Nat) (f : AgState → AgState) : (modAg s g gi n lane f).rpcfg = s.rpcfg := rfl
@[simp] theorem modAg_rpzero (g gi n lane : Nat) (f : AgState → AgState) : (modAg s g gi n lane f).rpzero = s.rpzero := rfl
@[simp] theorem modAg_extents (g gi n lane : Nat) (f : AgState → AgState) : (modAg s g gi n lane f).extents = s.extents := rfl
@[simp] theorem modAg_pkgid (g gi n lane : Nat) (f : AgState → AgState) : (modAg s g gi n lane f).pkgid = s.pkgid := rfl
@[simp] theorem modAg_rtab (g gi n lane : Nat) (f : AgState → AgState) : (modAg s g gi n lane f).rtab = s.rtab := rfl
@[simp] theorem modAg_links (g gi n lane : Nat) (f : AgState → AgState) : (modAg s g gi n lane f).links = s.links := rfl
@[simp] theorem modAg_jobs (g gi n lane : Nat) (f : AgState → AgState) : (modAg s g gi n lane f).jobs = s.jobs := rfl
@[simp] theorem modAg_reqs (g gi n lane : Nat) (f : AgState → AgState) : (modAg s g gi n lane f).reqs = s.reqs := rfl
@[simp] theorem modAg_outbox (g gi n lane : Nat) (f : AgState → AgState) : (modAg s g gi n lane f).outbox = s.outbox := rfl
@[simp] theorem modAg_pairCounts (g gi n lane : Nat) (f : AgState → AgState) : (modAg s g gi n lane f).pairCounts = s.pairCounts := rfl
@[simp] theorem modAg_nonces (g gi n lane : Nat) (f : AgState → AgState) : (modAg s g gi n lane f).nonces = s.nonces := rfl
@[simp] theorem modAg_meetings (g gi n lane : Nat) (f : AgState → AgState) : (modAg s g gi n lane f).meetings = s.meetings := rfl
@[simp] theorem modAg_collCounts (g gi n lane : Nat) (f : AgState → AgState) : (modAg s g gi n lane f).collCounts = s.collCounts := rfl
@[simp] theorem modAg_hcircs (g gi n lane : Nat) (f : AgState → AgState) : (modAg s g gi n lane f).hcircs = s.hcircs := rfl
@[simp] theorem modAg_earlyArms (g gi n lane : Nat) (f : AgState → AgState) : (modAg s g gi n lane f).earlyArms = s.earlyArms := rfl
@[simp] theorem modAg_dbgs (g gi n lane : Nat) (f : AgState → AgState) : (modAg s g gi n lane f).dbgs = s.dbgs := rfl
@[simp] theorem modAg_einjoff (g gi n lane : Nat) (f : AgState → AgState) : (modAg s g gi n lane f).einjoff = s.einjoff := rfl
@[simp] theorem modAg_einjerr (g gi n lane : Nat) (f : AgState → AgState) : (modAg s g gi n lane f).einjerr = s.einjerr := rfl
@[simp] theorem modAg_einjcount (g gi n lane : Nat) (f : AgState → AgState) : (modAg s g gi n lane f).einjcount = s.einjcount := rfl
@[simp] theorem modAg_mctpReply (g gi n lane : Nat) (f : AgState → AgState) : (modAg s g gi n lane f).mctpReply = s.mctpReply := rfl
@[simp] theorem modAg_timeJoined (g gi n lane : Nat) (f : AgState → AgState) : (modAg s g gi n lane f).timeJoined = s.timeJoined := rfl
@[simp] theorem modAg_d3Pending (g gi n lane : Nat) (f : AgState → AgState) : (modAg s g gi n lane f).d3Pending = s.d3Pending := rfl

/-! ## setCtx -/

@[simp] theorem setCtx_agenda (c : Nat) (x : Context) : (setCtx s c x).agenda = s.agenda := rfl
@[simp] theorem setCtx_site (c : Nat) (x : Context) : (setCtx s c x).site = s.site := rfl
@[simp] theorem setCtx_part (c : Nat) (x : Context) : (setCtx s c x).part = s.part := rfl
@[simp] theorem setCtx_fresh (c : Nat) (x : Context) : (setCtx s c x).fresh = s.fresh := rfl
@[simp] theorem setCtx_dtime (c : Nat) (x : Context) : (setCtx s c x).dtime = s.dtime := rfl
@[simp] theorem setCtx_cycle (c : Nat) (x : Context) : (setCtx s c x).cycle = s.cycle := rfl
@[simp] theorem setCtx_mem (c : Nat) (x : Context) : (setCtx s c x).mem = s.mem := rfl
@[simp] theorem setCtx_poison (c : Nat) (x : Context) : (setCtx s c x).poison = s.poison := rfl
@[simp] theorem setCtx_soft (c : Nat) (x : Context) : (setCtx s c x).soft = s.soft := rfl
@[simp] theorem setCtx_ownerWrites (c : Nat) (x : Context) : (setCtx s c x).ownerWrites = s.ownerWrites := rfl
@[simp] theorem setCtx_tableError (c : Nat) (x : Context) : (setCtx s c x).tableError = s.tableError := rfl
@[simp] theorem setCtx_pcie (c : Nat) (x : Context) : (setCtx s c x).pcie = s.pcie := rfl
@[simp] theorem setCtx_power (c : Nat) (x : Context) : (setCtx s c x).power = s.power := rfl
@[simp] theorem setCtx_dev (c : Nat) (x : Context) : (setCtx s c x).dev = s.dev := rfl
@[simp] theorem setCtx_bootStep (c : Nat) (x : Context) : (setCtx s c x).bootStep = s.bootStep := rfl
@[simp] theorem setCtx_booterr (c : Nat) (x : Context) : (setCtx s c x).booterr = s.booterr := rfl
@[simp] theorem setCtx_fatal (c : Nat) (x : Context) : (setCtx s c x).fatal = s.fatal := rfl
@[simp] theorem setCtx_dstate (c : Nat) (x : Context) : (setCtx s c x).dstate = s.dstate := rfl
@[simp] theorem setCtx_present (c : Nat) (x : Context) : (setCtx s c x).present = s.present := rfl
@[simp] theorem setCtx_gated (c : Nat) (x : Context) : (setCtx s c x).gated = s.gated := rfl
@[simp] theorem setCtx_recaddr (c : Nat) (x : Context) : (setCtx s c x).recaddr = s.recaddr := rfl
@[simp] theorem setCtx_reclen (c : Nat) (x : Context) : (setCtx s c x).reclen = s.reclen := rfl
@[simp] theorem setCtx_pcap (c : Nat) (x : Context) : (setCtx s c x).pcap = s.pcap := rfl
@[simp] theorem setCtx_watts (c : Nat) (x : Context) : (setCtx s c x).watts = s.watts := rfl
@[simp] theorem setCtx_junction (c : Nat) (x : Context) : (setCtx s c x).junction = s.junction := rfl
@[simp] theorem setCtx_level (c : Nat) (x : Context) : (setCtx s c x).level = s.level := rfl
@[simp] theorem setCtx_clearSince (c : Nat) (x : Context) : (setCtx s c x).clearSince = s.clearSince := rfl
@[simp] theorem setCtx_gateErr (c : Nat) (x : Context) : (setCtx s c x).gateErr = s.gateErr := rfl
@[simp] theorem setCtx_clusters (c : Nat) (x : Context) : (setCtx s c x).clusters = s.clusters := rfl
@[simp] theorem setCtx_wave (c : Nat) (x : Context) : (setCtx s c x).wave = s.wave := rfl
@[simp] theorem setCtx_capsule (c : Nat) (x : Context) : (setCtx s c x).capsule = s.capsule := rfl
@[simp] theorem setCtx_fns (c : Nat) (x : Context) : (setCtx s c x).fns = s.fns := rfl
@[simp] theorem setCtx_contexts (c : Nat) (x : Context) : (setCtx s c x).contexts = Tab.set s.contexts c x := rfl
@[simp] theorem setCtx_queues (c : Nat) (x : Context) : (setCtx s c x).queues = s.queues := rfl
@[simp] theorem setCtx_barriers (c : Nat) (x : Context) : (setCtx s c x).barriers = s.barriers := rfl
@[simp] theorem setCtx_ccbase (c : Nat) (x : Context) : (setCtx s c x).ccbase = s.ccbase := rfl
@[simp] theorem setCtx_ccsize (c : Nat) (x : Context) : (setCtx s c x).ccsize = s.ccsize := rfl
@[simp] theorem setCtx_kernels (c : Nat) (x : Context) : (setCtx s c x).kernels = s.kernels := rfl
@[simp] theorem setCtx_prbase (c : Nat) (x : Context) : (setCtx s c x).prbase = s.prbase := rfl
@[simp] theorem setCtx_prsize (c : Nat) (x : Context) : (setCtx s c x).prsize = s.prsize := rfl
@[simp] theorem setCtx_clscfg (c : Nat) (x : Context) : (setCtx s c x).clscfg = s.clscfg := rfl
@[simp] theorem setCtx_nextGrp (c : Nat) (x : Context) : (setCtx s c x).nextGrp = s.nextGrp := rfl
@[simp] theorem setCtx_startCount (c : Nat) (x : Context) : (setCtx s c x).startCount = s.startCount := rfl
@[simp] theorem setCtx_groups (c : Nat) (x : Context) : (setCtx s c x).groups = s.groups := rfl
@[simp] theorem setCtx_rpcfg (c : Nat) (x : Context) : (setCtx s c x).rpcfg = s.rpcfg := rfl
@[simp] theorem setCtx_rpzero (c : Nat) (x : Context) : (setCtx s c x).rpzero = s.rpzero := rfl
@[simp] theorem setCtx_extents (c : Nat) (x : Context) : (setCtx s c x).extents = s.extents := rfl
@[simp] theorem setCtx_pkgid (c : Nat) (x : Context) : (setCtx s c x).pkgid = s.pkgid := rfl
@[simp] theorem setCtx_rtab (c : Nat) (x : Context) : (setCtx s c x).rtab = s.rtab := rfl
@[simp] theorem setCtx_links (c : Nat) (x : Context) : (setCtx s c x).links = s.links := rfl
@[simp] theorem setCtx_jobs (c : Nat) (x : Context) : (setCtx s c x).jobs = s.jobs := rfl
@[simp] theorem setCtx_reqs (c : Nat) (x : Context) : (setCtx s c x).reqs = s.reqs := rfl
@[simp] theorem setCtx_outbox (c : Nat) (x : Context) : (setCtx s c x).outbox = s.outbox := rfl
@[simp] theorem setCtx_pairCounts (c : Nat) (x : Context) : (setCtx s c x).pairCounts = s.pairCounts := rfl
@[simp] theorem setCtx_nonces (c : Nat) (x : Context) : (setCtx s c x).nonces = s.nonces := rfl
@[simp] theorem setCtx_meetings (c : Nat) (x : Context) : (setCtx s c x).meetings = s.meetings := rfl
@[simp] theorem setCtx_collCounts (c : Nat) (x : Context) : (setCtx s c x).collCounts = s.collCounts := rfl
@[simp] theorem setCtx_hcircs (c : Nat) (x : Context) : (setCtx s c x).hcircs = s.hcircs := rfl
@[simp] theorem setCtx_earlyArms (c : Nat) (x : Context) : (setCtx s c x).earlyArms = s.earlyArms := rfl
@[simp] theorem setCtx_dbgs (c : Nat) (x : Context) : (setCtx s c x).dbgs = s.dbgs := rfl
@[simp] theorem setCtx_einjoff (c : Nat) (x : Context) : (setCtx s c x).einjoff = s.einjoff := rfl
@[simp] theorem setCtx_einjerr (c : Nat) (x : Context) : (setCtx s c x).einjerr = s.einjerr := rfl
@[simp] theorem setCtx_einjcount (c : Nat) (x : Context) : (setCtx s c x).einjcount = s.einjcount := rfl
@[simp] theorem setCtx_mctpReply (c : Nat) (x : Context) : (setCtx s c x).mctpReply = s.mctpReply := rfl
@[simp] theorem setCtx_timeJoined (c : Nat) (x : Context) : (setCtx s c x).timeJoined = s.timeJoined := rfl
@[simp] theorem setCtx_d3Pending (c : Nat) (x : Context) : (setCtx s c x).d3Pending = s.d3Pending := rfl

/-! ## modCtx -/

@[simp] theorem modCtx_agenda (c : Nat) (f : Context → Context) : (modCtx s c f).agenda = s.agenda := rfl
@[simp] theorem modCtx_site (c : Nat) (f : Context → Context) : (modCtx s c f).site = s.site := rfl
@[simp] theorem modCtx_part (c : Nat) (f : Context → Context) : (modCtx s c f).part = s.part := rfl
@[simp] theorem modCtx_fresh (c : Nat) (f : Context → Context) : (modCtx s c f).fresh = s.fresh := rfl
@[simp] theorem modCtx_dtime (c : Nat) (f : Context → Context) : (modCtx s c f).dtime = s.dtime := rfl
@[simp] theorem modCtx_cycle (c : Nat) (f : Context → Context) : (modCtx s c f).cycle = s.cycle := rfl
@[simp] theorem modCtx_mem (c : Nat) (f : Context → Context) : (modCtx s c f).mem = s.mem := rfl
@[simp] theorem modCtx_poison (c : Nat) (f : Context → Context) : (modCtx s c f).poison = s.poison := rfl
@[simp] theorem modCtx_soft (c : Nat) (f : Context → Context) : (modCtx s c f).soft = s.soft := rfl
@[simp] theorem modCtx_ownerWrites (c : Nat) (f : Context → Context) : (modCtx s c f).ownerWrites = s.ownerWrites := rfl
@[simp] theorem modCtx_tableError (c : Nat) (f : Context → Context) : (modCtx s c f).tableError = s.tableError := rfl
@[simp] theorem modCtx_pcie (c : Nat) (f : Context → Context) : (modCtx s c f).pcie = s.pcie := rfl
@[simp] theorem modCtx_power (c : Nat) (f : Context → Context) : (modCtx s c f).power = s.power := rfl
@[simp] theorem modCtx_dev (c : Nat) (f : Context → Context) : (modCtx s c f).dev = s.dev := rfl
@[simp] theorem modCtx_bootStep (c : Nat) (f : Context → Context) : (modCtx s c f).bootStep = s.bootStep := rfl
@[simp] theorem modCtx_booterr (c : Nat) (f : Context → Context) : (modCtx s c f).booterr = s.booterr := rfl
@[simp] theorem modCtx_fatal (c : Nat) (f : Context → Context) : (modCtx s c f).fatal = s.fatal := rfl
@[simp] theorem modCtx_dstate (c : Nat) (f : Context → Context) : (modCtx s c f).dstate = s.dstate := rfl
@[simp] theorem modCtx_present (c : Nat) (f : Context → Context) : (modCtx s c f).present = s.present := rfl
@[simp] theorem modCtx_gated (c : Nat) (f : Context → Context) : (modCtx s c f).gated = s.gated := rfl
@[simp] theorem modCtx_recaddr (c : Nat) (f : Context → Context) : (modCtx s c f).recaddr = s.recaddr := rfl
@[simp] theorem modCtx_reclen (c : Nat) (f : Context → Context) : (modCtx s c f).reclen = s.reclen := rfl
@[simp] theorem modCtx_pcap (c : Nat) (f : Context → Context) : (modCtx s c f).pcap = s.pcap := rfl
@[simp] theorem modCtx_watts (c : Nat) (f : Context → Context) : (modCtx s c f).watts = s.watts := rfl
@[simp] theorem modCtx_junction (c : Nat) (f : Context → Context) : (modCtx s c f).junction = s.junction := rfl
@[simp] theorem modCtx_level (c : Nat) (f : Context → Context) : (modCtx s c f).level = s.level := rfl
@[simp] theorem modCtx_clearSince (c : Nat) (f : Context → Context) : (modCtx s c f).clearSince = s.clearSince := rfl
@[simp] theorem modCtx_gateErr (c : Nat) (f : Context → Context) : (modCtx s c f).gateErr = s.gateErr := rfl
@[simp] theorem modCtx_clusters (c : Nat) (f : Context → Context) : (modCtx s c f).clusters = s.clusters := rfl
@[simp] theorem modCtx_wave (c : Nat) (f : Context → Context) : (modCtx s c f).wave = s.wave := rfl
@[simp] theorem modCtx_capsule (c : Nat) (f : Context → Context) : (modCtx s c f).capsule = s.capsule := rfl
@[simp] theorem modCtx_fns (c : Nat) (f : Context → Context) : (modCtx s c f).fns = s.fns := rfl
@[simp] theorem modCtx_contexts (c : Nat) (f : Context → Context) : (modCtx s c f).contexts = Tab.set s.contexts c (f (ctx s c)) := rfl
@[simp] theorem modCtx_queues (c : Nat) (f : Context → Context) : (modCtx s c f).queues = s.queues := rfl
@[simp] theorem modCtx_barriers (c : Nat) (f : Context → Context) : (modCtx s c f).barriers = s.barriers := rfl
@[simp] theorem modCtx_ccbase (c : Nat) (f : Context → Context) : (modCtx s c f).ccbase = s.ccbase := rfl
@[simp] theorem modCtx_ccsize (c : Nat) (f : Context → Context) : (modCtx s c f).ccsize = s.ccsize := rfl
@[simp] theorem modCtx_kernels (c : Nat) (f : Context → Context) : (modCtx s c f).kernels = s.kernels := rfl
@[simp] theorem modCtx_prbase (c : Nat) (f : Context → Context) : (modCtx s c f).prbase = s.prbase := rfl
@[simp] theorem modCtx_prsize (c : Nat) (f : Context → Context) : (modCtx s c f).prsize = s.prsize := rfl
@[simp] theorem modCtx_clscfg (c : Nat) (f : Context → Context) : (modCtx s c f).clscfg = s.clscfg := rfl
@[simp] theorem modCtx_nextGrp (c : Nat) (f : Context → Context) : (modCtx s c f).nextGrp = s.nextGrp := rfl
@[simp] theorem modCtx_startCount (c : Nat) (f : Context → Context) : (modCtx s c f).startCount = s.startCount := rfl
@[simp] theorem modCtx_groups (c : Nat) (f : Context → Context) : (modCtx s c f).groups = s.groups := rfl
@[simp] theorem modCtx_rpcfg (c : Nat) (f : Context → Context) : (modCtx s c f).rpcfg = s.rpcfg := rfl
@[simp] theorem modCtx_rpzero (c : Nat) (f : Context → Context) : (modCtx s c f).rpzero = s.rpzero := rfl
@[simp] theorem modCtx_extents (c : Nat) (f : Context → Context) : (modCtx s c f).extents = s.extents := rfl
@[simp] theorem modCtx_pkgid (c : Nat) (f : Context → Context) : (modCtx s c f).pkgid = s.pkgid := rfl
@[simp] theorem modCtx_rtab (c : Nat) (f : Context → Context) : (modCtx s c f).rtab = s.rtab := rfl
@[simp] theorem modCtx_links (c : Nat) (f : Context → Context) : (modCtx s c f).links = s.links := rfl
@[simp] theorem modCtx_jobs (c : Nat) (f : Context → Context) : (modCtx s c f).jobs = s.jobs := rfl
@[simp] theorem modCtx_reqs (c : Nat) (f : Context → Context) : (modCtx s c f).reqs = s.reqs := rfl
@[simp] theorem modCtx_outbox (c : Nat) (f : Context → Context) : (modCtx s c f).outbox = s.outbox := rfl
@[simp] theorem modCtx_pairCounts (c : Nat) (f : Context → Context) : (modCtx s c f).pairCounts = s.pairCounts := rfl
@[simp] theorem modCtx_nonces (c : Nat) (f : Context → Context) : (modCtx s c f).nonces = s.nonces := rfl
@[simp] theorem modCtx_meetings (c : Nat) (f : Context → Context) : (modCtx s c f).meetings = s.meetings := rfl
@[simp] theorem modCtx_collCounts (c : Nat) (f : Context → Context) : (modCtx s c f).collCounts = s.collCounts := rfl
@[simp] theorem modCtx_hcircs (c : Nat) (f : Context → Context) : (modCtx s c f).hcircs = s.hcircs := rfl
@[simp] theorem modCtx_earlyArms (c : Nat) (f : Context → Context) : (modCtx s c f).earlyArms = s.earlyArms := rfl
@[simp] theorem modCtx_dbgs (c : Nat) (f : Context → Context) : (modCtx s c f).dbgs = s.dbgs := rfl
@[simp] theorem modCtx_einjoff (c : Nat) (f : Context → Context) : (modCtx s c f).einjoff = s.einjoff := rfl
@[simp] theorem modCtx_einjerr (c : Nat) (f : Context → Context) : (modCtx s c f).einjerr = s.einjerr := rfl
@[simp] theorem modCtx_einjcount (c : Nat) (f : Context → Context) : (modCtx s c f).einjcount = s.einjcount := rfl
@[simp] theorem modCtx_mctpReply (c : Nat) (f : Context → Context) : (modCtx s c f).mctpReply = s.mctpReply := rfl
@[simp] theorem modCtx_timeJoined (c : Nat) (f : Context → Context) : (modCtx s c f).timeJoined = s.timeJoined := rfl
@[simp] theorem modCtx_d3Pending (c : Nat) (f : Context → Context) : (modCtx s c f).d3Pending = s.d3Pending := rfl

/-! ## setQueue -/

@[simp] theorem setQueue_agenda (q : Nat) (x : Queue) : (setQueue s q x).agenda = s.agenda := rfl
@[simp] theorem setQueue_site (q : Nat) (x : Queue) : (setQueue s q x).site = s.site := rfl
@[simp] theorem setQueue_part (q : Nat) (x : Queue) : (setQueue s q x).part = s.part := rfl
@[simp] theorem setQueue_fresh (q : Nat) (x : Queue) : (setQueue s q x).fresh = s.fresh := rfl
@[simp] theorem setQueue_dtime (q : Nat) (x : Queue) : (setQueue s q x).dtime = s.dtime := rfl
@[simp] theorem setQueue_cycle (q : Nat) (x : Queue) : (setQueue s q x).cycle = s.cycle := rfl
@[simp] theorem setQueue_mem (q : Nat) (x : Queue) : (setQueue s q x).mem = s.mem := rfl
@[simp] theorem setQueue_poison (q : Nat) (x : Queue) : (setQueue s q x).poison = s.poison := rfl
@[simp] theorem setQueue_soft (q : Nat) (x : Queue) : (setQueue s q x).soft = s.soft := rfl
@[simp] theorem setQueue_ownerWrites (q : Nat) (x : Queue) : (setQueue s q x).ownerWrites = s.ownerWrites := rfl
@[simp] theorem setQueue_tableError (q : Nat) (x : Queue) : (setQueue s q x).tableError = s.tableError := rfl
@[simp] theorem setQueue_pcie (q : Nat) (x : Queue) : (setQueue s q x).pcie = s.pcie := rfl
@[simp] theorem setQueue_power (q : Nat) (x : Queue) : (setQueue s q x).power = s.power := rfl
@[simp] theorem setQueue_dev (q : Nat) (x : Queue) : (setQueue s q x).dev = s.dev := rfl
@[simp] theorem setQueue_bootStep (q : Nat) (x : Queue) : (setQueue s q x).bootStep = s.bootStep := rfl
@[simp] theorem setQueue_booterr (q : Nat) (x : Queue) : (setQueue s q x).booterr = s.booterr := rfl
@[simp] theorem setQueue_fatal (q : Nat) (x : Queue) : (setQueue s q x).fatal = s.fatal := rfl
@[simp] theorem setQueue_dstate (q : Nat) (x : Queue) : (setQueue s q x).dstate = s.dstate := rfl
@[simp] theorem setQueue_present (q : Nat) (x : Queue) : (setQueue s q x).present = s.present := rfl
@[simp] theorem setQueue_gated (q : Nat) (x : Queue) : (setQueue s q x).gated = s.gated := rfl
@[simp] theorem setQueue_recaddr (q : Nat) (x : Queue) : (setQueue s q x).recaddr = s.recaddr := rfl
@[simp] theorem setQueue_reclen (q : Nat) (x : Queue) : (setQueue s q x).reclen = s.reclen := rfl
@[simp] theorem setQueue_pcap (q : Nat) (x : Queue) : (setQueue s q x).pcap = s.pcap := rfl
@[simp] theorem setQueue_watts (q : Nat) (x : Queue) : (setQueue s q x).watts = s.watts := rfl
@[simp] theorem setQueue_junction (q : Nat) (x : Queue) : (setQueue s q x).junction = s.junction := rfl
@[simp] theorem setQueue_level (q : Nat) (x : Queue) : (setQueue s q x).level = s.level := rfl
@[simp] theorem setQueue_clearSince (q : Nat) (x : Queue) : (setQueue s q x).clearSince = s.clearSince := rfl
@[simp] theorem setQueue_gateErr (q : Nat) (x : Queue) : (setQueue s q x).gateErr = s.gateErr := rfl
@[simp] theorem setQueue_clusters (q : Nat) (x : Queue) : (setQueue s q x).clusters = s.clusters := rfl
@[simp] theorem setQueue_wave (q : Nat) (x : Queue) : (setQueue s q x).wave = s.wave := rfl
@[simp] theorem setQueue_capsule (q : Nat) (x : Queue) : (setQueue s q x).capsule = s.capsule := rfl
@[simp] theorem setQueue_fns (q : Nat) (x : Queue) : (setQueue s q x).fns = s.fns := rfl
@[simp] theorem setQueue_contexts (q : Nat) (x : Queue) : (setQueue s q x).contexts = s.contexts := rfl
@[simp] theorem setQueue_queues (q : Nat) (x : Queue) : (setQueue s q x).queues = Tab.set s.queues q x := rfl
@[simp] theorem setQueue_barriers (q : Nat) (x : Queue) : (setQueue s q x).barriers = s.barriers := rfl
@[simp] theorem setQueue_ccbase (q : Nat) (x : Queue) : (setQueue s q x).ccbase = s.ccbase := rfl
@[simp] theorem setQueue_ccsize (q : Nat) (x : Queue) : (setQueue s q x).ccsize = s.ccsize := rfl
@[simp] theorem setQueue_kernels (q : Nat) (x : Queue) : (setQueue s q x).kernels = s.kernels := rfl
@[simp] theorem setQueue_prbase (q : Nat) (x : Queue) : (setQueue s q x).prbase = s.prbase := rfl
@[simp] theorem setQueue_prsize (q : Nat) (x : Queue) : (setQueue s q x).prsize = s.prsize := rfl
@[simp] theorem setQueue_clscfg (q : Nat) (x : Queue) : (setQueue s q x).clscfg = s.clscfg := rfl
@[simp] theorem setQueue_nextGrp (q : Nat) (x : Queue) : (setQueue s q x).nextGrp = s.nextGrp := rfl
@[simp] theorem setQueue_startCount (q : Nat) (x : Queue) : (setQueue s q x).startCount = s.startCount := rfl
@[simp] theorem setQueue_groups (q : Nat) (x : Queue) : (setQueue s q x).groups = s.groups := rfl
@[simp] theorem setQueue_rpcfg (q : Nat) (x : Queue) : (setQueue s q x).rpcfg = s.rpcfg := rfl
@[simp] theorem setQueue_rpzero (q : Nat) (x : Queue) : (setQueue s q x).rpzero = s.rpzero := rfl
@[simp] theorem setQueue_extents (q : Nat) (x : Queue) : (setQueue s q x).extents = s.extents := rfl
@[simp] theorem setQueue_pkgid (q : Nat) (x : Queue) : (setQueue s q x).pkgid = s.pkgid := rfl
@[simp] theorem setQueue_rtab (q : Nat) (x : Queue) : (setQueue s q x).rtab = s.rtab := rfl
@[simp] theorem setQueue_links (q : Nat) (x : Queue) : (setQueue s q x).links = s.links := rfl
@[simp] theorem setQueue_jobs (q : Nat) (x : Queue) : (setQueue s q x).jobs = s.jobs := rfl
@[simp] theorem setQueue_reqs (q : Nat) (x : Queue) : (setQueue s q x).reqs = s.reqs := rfl
@[simp] theorem setQueue_outbox (q : Nat) (x : Queue) : (setQueue s q x).outbox = s.outbox := rfl
@[simp] theorem setQueue_pairCounts (q : Nat) (x : Queue) : (setQueue s q x).pairCounts = s.pairCounts := rfl
@[simp] theorem setQueue_nonces (q : Nat) (x : Queue) : (setQueue s q x).nonces = s.nonces := rfl
@[simp] theorem setQueue_meetings (q : Nat) (x : Queue) : (setQueue s q x).meetings = s.meetings := rfl
@[simp] theorem setQueue_collCounts (q : Nat) (x : Queue) : (setQueue s q x).collCounts = s.collCounts := rfl
@[simp] theorem setQueue_hcircs (q : Nat) (x : Queue) : (setQueue s q x).hcircs = s.hcircs := rfl
@[simp] theorem setQueue_earlyArms (q : Nat) (x : Queue) : (setQueue s q x).earlyArms = s.earlyArms := rfl
@[simp] theorem setQueue_dbgs (q : Nat) (x : Queue) : (setQueue s q x).dbgs = s.dbgs := rfl
@[simp] theorem setQueue_einjoff (q : Nat) (x : Queue) : (setQueue s q x).einjoff = s.einjoff := rfl
@[simp] theorem setQueue_einjerr (q : Nat) (x : Queue) : (setQueue s q x).einjerr = s.einjerr := rfl
@[simp] theorem setQueue_einjcount (q : Nat) (x : Queue) : (setQueue s q x).einjcount = s.einjcount := rfl
@[simp] theorem setQueue_mctpReply (q : Nat) (x : Queue) : (setQueue s q x).mctpReply = s.mctpReply := rfl
@[simp] theorem setQueue_timeJoined (q : Nat) (x : Queue) : (setQueue s q x).timeJoined = s.timeJoined := rfl
@[simp] theorem setQueue_d3Pending (q : Nat) (x : Queue) : (setQueue s q x).d3Pending = s.d3Pending := rfl

/-! ## modQueue -/

@[simp] theorem modQueue_agenda (q : Nat) (f : Queue → Queue) : (modQueue s q f).agenda = s.agenda := rfl
@[simp] theorem modQueue_site (q : Nat) (f : Queue → Queue) : (modQueue s q f).site = s.site := rfl
@[simp] theorem modQueue_part (q : Nat) (f : Queue → Queue) : (modQueue s q f).part = s.part := rfl
@[simp] theorem modQueue_fresh (q : Nat) (f : Queue → Queue) : (modQueue s q f).fresh = s.fresh := rfl
@[simp] theorem modQueue_dtime (q : Nat) (f : Queue → Queue) : (modQueue s q f).dtime = s.dtime := rfl
@[simp] theorem modQueue_cycle (q : Nat) (f : Queue → Queue) : (modQueue s q f).cycle = s.cycle := rfl
@[simp] theorem modQueue_mem (q : Nat) (f : Queue → Queue) : (modQueue s q f).mem = s.mem := rfl
@[simp] theorem modQueue_poison (q : Nat) (f : Queue → Queue) : (modQueue s q f).poison = s.poison := rfl
@[simp] theorem modQueue_soft (q : Nat) (f : Queue → Queue) : (modQueue s q f).soft = s.soft := rfl
@[simp] theorem modQueue_ownerWrites (q : Nat) (f : Queue → Queue) : (modQueue s q f).ownerWrites = s.ownerWrites := rfl
@[simp] theorem modQueue_tableError (q : Nat) (f : Queue → Queue) : (modQueue s q f).tableError = s.tableError := rfl
@[simp] theorem modQueue_pcie (q : Nat) (f : Queue → Queue) : (modQueue s q f).pcie = s.pcie := rfl
@[simp] theorem modQueue_power (q : Nat) (f : Queue → Queue) : (modQueue s q f).power = s.power := rfl
@[simp] theorem modQueue_dev (q : Nat) (f : Queue → Queue) : (modQueue s q f).dev = s.dev := rfl
@[simp] theorem modQueue_bootStep (q : Nat) (f : Queue → Queue) : (modQueue s q f).bootStep = s.bootStep := rfl
@[simp] theorem modQueue_booterr (q : Nat) (f : Queue → Queue) : (modQueue s q f).booterr = s.booterr := rfl
@[simp] theorem modQueue_fatal (q : Nat) (f : Queue → Queue) : (modQueue s q f).fatal = s.fatal := rfl
@[simp] theorem modQueue_dstate (q : Nat) (f : Queue → Queue) : (modQueue s q f).dstate = s.dstate := rfl
@[simp] theorem modQueue_present (q : Nat) (f : Queue → Queue) : (modQueue s q f).present = s.present := rfl
@[simp] theorem modQueue_gated (q : Nat) (f : Queue → Queue) : (modQueue s q f).gated = s.gated := rfl
@[simp] theorem modQueue_recaddr (q : Nat) (f : Queue → Queue) : (modQueue s q f).recaddr = s.recaddr := rfl
@[simp] theorem modQueue_reclen (q : Nat) (f : Queue → Queue) : (modQueue s q f).reclen = s.reclen := rfl
@[simp] theorem modQueue_pcap (q : Nat) (f : Queue → Queue) : (modQueue s q f).pcap = s.pcap := rfl
@[simp] theorem modQueue_watts (q : Nat) (f : Queue → Queue) : (modQueue s q f).watts = s.watts := rfl
@[simp] theorem modQueue_junction (q : Nat) (f : Queue → Queue) : (modQueue s q f).junction = s.junction := rfl
@[simp] theorem modQueue_level (q : Nat) (f : Queue → Queue) : (modQueue s q f).level = s.level := rfl
@[simp] theorem modQueue_clearSince (q : Nat) (f : Queue → Queue) : (modQueue s q f).clearSince = s.clearSince := rfl
@[simp] theorem modQueue_gateErr (q : Nat) (f : Queue → Queue) : (modQueue s q f).gateErr = s.gateErr := rfl
@[simp] theorem modQueue_clusters (q : Nat) (f : Queue → Queue) : (modQueue s q f).clusters = s.clusters := rfl
@[simp] theorem modQueue_wave (q : Nat) (f : Queue → Queue) : (modQueue s q f).wave = s.wave := rfl
@[simp] theorem modQueue_capsule (q : Nat) (f : Queue → Queue) : (modQueue s q f).capsule = s.capsule := rfl
@[simp] theorem modQueue_fns (q : Nat) (f : Queue → Queue) : (modQueue s q f).fns = s.fns := rfl
@[simp] theorem modQueue_contexts (q : Nat) (f : Queue → Queue) : (modQueue s q f).contexts = s.contexts := rfl
@[simp] theorem modQueue_queues (q : Nat) (f : Queue → Queue) : (modQueue s q f).queues = Tab.set s.queues q (f (queue s q)) := rfl
@[simp] theorem modQueue_barriers (q : Nat) (f : Queue → Queue) : (modQueue s q f).barriers = s.barriers := rfl
@[simp] theorem modQueue_ccbase (q : Nat) (f : Queue → Queue) : (modQueue s q f).ccbase = s.ccbase := rfl
@[simp] theorem modQueue_ccsize (q : Nat) (f : Queue → Queue) : (modQueue s q f).ccsize = s.ccsize := rfl
@[simp] theorem modQueue_kernels (q : Nat) (f : Queue → Queue) : (modQueue s q f).kernels = s.kernels := rfl
@[simp] theorem modQueue_prbase (q : Nat) (f : Queue → Queue) : (modQueue s q f).prbase = s.prbase := rfl
@[simp] theorem modQueue_prsize (q : Nat) (f : Queue → Queue) : (modQueue s q f).prsize = s.prsize := rfl
@[simp] theorem modQueue_clscfg (q : Nat) (f : Queue → Queue) : (modQueue s q f).clscfg = s.clscfg := rfl
@[simp] theorem modQueue_nextGrp (q : Nat) (f : Queue → Queue) : (modQueue s q f).nextGrp = s.nextGrp := rfl
@[simp] theorem modQueue_startCount (q : Nat) (f : Queue → Queue) : (modQueue s q f).startCount = s.startCount := rfl
@[simp] theorem modQueue_groups (q : Nat) (f : Queue → Queue) : (modQueue s q f).groups = s.groups := rfl
@[simp] theorem modQueue_rpcfg (q : Nat) (f : Queue → Queue) : (modQueue s q f).rpcfg = s.rpcfg := rfl
@[simp] theorem modQueue_rpzero (q : Nat) (f : Queue → Queue) : (modQueue s q f).rpzero = s.rpzero := rfl
@[simp] theorem modQueue_extents (q : Nat) (f : Queue → Queue) : (modQueue s q f).extents = s.extents := rfl
@[simp] theorem modQueue_pkgid (q : Nat) (f : Queue → Queue) : (modQueue s q f).pkgid = s.pkgid := rfl
@[simp] theorem modQueue_rtab (q : Nat) (f : Queue → Queue) : (modQueue s q f).rtab = s.rtab := rfl
@[simp] theorem modQueue_links (q : Nat) (f : Queue → Queue) : (modQueue s q f).links = s.links := rfl
@[simp] theorem modQueue_jobs (q : Nat) (f : Queue → Queue) : (modQueue s q f).jobs = s.jobs := rfl
@[simp] theorem modQueue_reqs (q : Nat) (f : Queue → Queue) : (modQueue s q f).reqs = s.reqs := rfl
@[simp] theorem modQueue_outbox (q : Nat) (f : Queue → Queue) : (modQueue s q f).outbox = s.outbox := rfl
@[simp] theorem modQueue_pairCounts (q : Nat) (f : Queue → Queue) : (modQueue s q f).pairCounts = s.pairCounts := rfl
@[simp] theorem modQueue_nonces (q : Nat) (f : Queue → Queue) : (modQueue s q f).nonces = s.nonces := rfl
@[simp] theorem modQueue_meetings (q : Nat) (f : Queue → Queue) : (modQueue s q f).meetings = s.meetings := rfl
@[simp] theorem modQueue_collCounts (q : Nat) (f : Queue → Queue) : (modQueue s q f).collCounts = s.collCounts := rfl
@[simp] theorem modQueue_hcircs (q : Nat) (f : Queue → Queue) : (modQueue s q f).hcircs = s.hcircs := rfl
@[simp] theorem modQueue_earlyArms (q : Nat) (f : Queue → Queue) : (modQueue s q f).earlyArms = s.earlyArms := rfl
@[simp] theorem modQueue_dbgs (q : Nat) (f : Queue → Queue) : (modQueue s q f).dbgs = s.dbgs := rfl
@[simp] theorem modQueue_einjoff (q : Nat) (f : Queue → Queue) : (modQueue s q f).einjoff = s.einjoff := rfl
@[simp] theorem modQueue_einjerr (q : Nat) (f : Queue → Queue) : (modQueue s q f).einjerr = s.einjerr := rfl
@[simp] theorem modQueue_einjcount (q : Nat) (f : Queue → Queue) : (modQueue s q f).einjcount = s.einjcount := rfl
@[simp] theorem modQueue_mctpReply (q : Nat) (f : Queue → Queue) : (modQueue s q f).mctpReply = s.mctpReply := rfl
@[simp] theorem modQueue_timeJoined (q : Nat) (f : Queue → Queue) : (modQueue s q f).timeJoined = s.timeJoined := rfl
@[simp] theorem modQueue_d3Pending (q : Nat) (f : Queue → Queue) : (modQueue s q f).d3Pending = s.d3Pending := rfl

/-! ## setBarrier -/

@[simp] theorem setBarrier_agenda (b : Nat) (x : Barrier) : (setBarrier s b x).agenda = s.agenda := rfl
@[simp] theorem setBarrier_site (b : Nat) (x : Barrier) : (setBarrier s b x).site = s.site := rfl
@[simp] theorem setBarrier_part (b : Nat) (x : Barrier) : (setBarrier s b x).part = s.part := rfl
@[simp] theorem setBarrier_fresh (b : Nat) (x : Barrier) : (setBarrier s b x).fresh = s.fresh := rfl
@[simp] theorem setBarrier_dtime (b : Nat) (x : Barrier) : (setBarrier s b x).dtime = s.dtime := rfl
@[simp] theorem setBarrier_cycle (b : Nat) (x : Barrier) : (setBarrier s b x).cycle = s.cycle := rfl
@[simp] theorem setBarrier_mem (b : Nat) (x : Barrier) : (setBarrier s b x).mem = s.mem := rfl
@[simp] theorem setBarrier_poison (b : Nat) (x : Barrier) : (setBarrier s b x).poison = s.poison := rfl
@[simp] theorem setBarrier_soft (b : Nat) (x : Barrier) : (setBarrier s b x).soft = s.soft := rfl
@[simp] theorem setBarrier_ownerWrites (b : Nat) (x : Barrier) : (setBarrier s b x).ownerWrites = s.ownerWrites := rfl
@[simp] theorem setBarrier_tableError (b : Nat) (x : Barrier) : (setBarrier s b x).tableError = s.tableError := rfl
@[simp] theorem setBarrier_pcie (b : Nat) (x : Barrier) : (setBarrier s b x).pcie = s.pcie := rfl
@[simp] theorem setBarrier_power (b : Nat) (x : Barrier) : (setBarrier s b x).power = s.power := rfl
@[simp] theorem setBarrier_dev (b : Nat) (x : Barrier) : (setBarrier s b x).dev = s.dev := rfl
@[simp] theorem setBarrier_bootStep (b : Nat) (x : Barrier) : (setBarrier s b x).bootStep = s.bootStep := rfl
@[simp] theorem setBarrier_booterr (b : Nat) (x : Barrier) : (setBarrier s b x).booterr = s.booterr := rfl
@[simp] theorem setBarrier_fatal (b : Nat) (x : Barrier) : (setBarrier s b x).fatal = s.fatal := rfl
@[simp] theorem setBarrier_dstate (b : Nat) (x : Barrier) : (setBarrier s b x).dstate = s.dstate := rfl
@[simp] theorem setBarrier_present (b : Nat) (x : Barrier) : (setBarrier s b x).present = s.present := rfl
@[simp] theorem setBarrier_gated (b : Nat) (x : Barrier) : (setBarrier s b x).gated = s.gated := rfl
@[simp] theorem setBarrier_recaddr (b : Nat) (x : Barrier) : (setBarrier s b x).recaddr = s.recaddr := rfl
@[simp] theorem setBarrier_reclen (b : Nat) (x : Barrier) : (setBarrier s b x).reclen = s.reclen := rfl
@[simp] theorem setBarrier_pcap (b : Nat) (x : Barrier) : (setBarrier s b x).pcap = s.pcap := rfl
@[simp] theorem setBarrier_watts (b : Nat) (x : Barrier) : (setBarrier s b x).watts = s.watts := rfl
@[simp] theorem setBarrier_junction (b : Nat) (x : Barrier) : (setBarrier s b x).junction = s.junction := rfl
@[simp] theorem setBarrier_level (b : Nat) (x : Barrier) : (setBarrier s b x).level = s.level := rfl
@[simp] theorem setBarrier_clearSince (b : Nat) (x : Barrier) : (setBarrier s b x).clearSince = s.clearSince := rfl
@[simp] theorem setBarrier_gateErr (b : Nat) (x : Barrier) : (setBarrier s b x).gateErr = s.gateErr := rfl
@[simp] theorem setBarrier_clusters (b : Nat) (x : Barrier) : (setBarrier s b x).clusters = s.clusters := rfl
@[simp] theorem setBarrier_wave (b : Nat) (x : Barrier) : (setBarrier s b x).wave = s.wave := rfl
@[simp] theorem setBarrier_capsule (b : Nat) (x : Barrier) : (setBarrier s b x).capsule = s.capsule := rfl
@[simp] theorem setBarrier_fns (b : Nat) (x : Barrier) : (setBarrier s b x).fns = s.fns := rfl
@[simp] theorem setBarrier_contexts (b : Nat) (x : Barrier) : (setBarrier s b x).contexts = s.contexts := rfl
@[simp] theorem setBarrier_queues (b : Nat) (x : Barrier) : (setBarrier s b x).queues = s.queues := rfl
@[simp] theorem setBarrier_barriers (b : Nat) (x : Barrier) : (setBarrier s b x).barriers = Tab.set s.barriers b x := rfl
@[simp] theorem setBarrier_ccbase (b : Nat) (x : Barrier) : (setBarrier s b x).ccbase = s.ccbase := rfl
@[simp] theorem setBarrier_ccsize (b : Nat) (x : Barrier) : (setBarrier s b x).ccsize = s.ccsize := rfl
@[simp] theorem setBarrier_kernels (b : Nat) (x : Barrier) : (setBarrier s b x).kernels = s.kernels := rfl
@[simp] theorem setBarrier_prbase (b : Nat) (x : Barrier) : (setBarrier s b x).prbase = s.prbase := rfl
@[simp] theorem setBarrier_prsize (b : Nat) (x : Barrier) : (setBarrier s b x).prsize = s.prsize := rfl
@[simp] theorem setBarrier_clscfg (b : Nat) (x : Barrier) : (setBarrier s b x).clscfg = s.clscfg := rfl
@[simp] theorem setBarrier_nextGrp (b : Nat) (x : Barrier) : (setBarrier s b x).nextGrp = s.nextGrp := rfl
@[simp] theorem setBarrier_startCount (b : Nat) (x : Barrier) : (setBarrier s b x).startCount = s.startCount := rfl
@[simp] theorem setBarrier_groups (b : Nat) (x : Barrier) : (setBarrier s b x).groups = s.groups := rfl
@[simp] theorem setBarrier_rpcfg (b : Nat) (x : Barrier) : (setBarrier s b x).rpcfg = s.rpcfg := rfl
@[simp] theorem setBarrier_rpzero (b : Nat) (x : Barrier) : (setBarrier s b x).rpzero = s.rpzero := rfl
@[simp] theorem setBarrier_extents (b : Nat) (x : Barrier) : (setBarrier s b x).extents = s.extents := rfl
@[simp] theorem setBarrier_pkgid (b : Nat) (x : Barrier) : (setBarrier s b x).pkgid = s.pkgid := rfl
@[simp] theorem setBarrier_rtab (b : Nat) (x : Barrier) : (setBarrier s b x).rtab = s.rtab := rfl
@[simp] theorem setBarrier_links (b : Nat) (x : Barrier) : (setBarrier s b x).links = s.links := rfl
@[simp] theorem setBarrier_jobs (b : Nat) (x : Barrier) : (setBarrier s b x).jobs = s.jobs := rfl
@[simp] theorem setBarrier_reqs (b : Nat) (x : Barrier) : (setBarrier s b x).reqs = s.reqs := rfl
@[simp] theorem setBarrier_outbox (b : Nat) (x : Barrier) : (setBarrier s b x).outbox = s.outbox := rfl
@[simp] theorem setBarrier_pairCounts (b : Nat) (x : Barrier) : (setBarrier s b x).pairCounts = s.pairCounts := rfl
@[simp] theorem setBarrier_nonces (b : Nat) (x : Barrier) : (setBarrier s b x).nonces = s.nonces := rfl
@[simp] theorem setBarrier_meetings (b : Nat) (x : Barrier) : (setBarrier s b x).meetings = s.meetings := rfl
@[simp] theorem setBarrier_collCounts (b : Nat) (x : Barrier) : (setBarrier s b x).collCounts = s.collCounts := rfl
@[simp] theorem setBarrier_hcircs (b : Nat) (x : Barrier) : (setBarrier s b x).hcircs = s.hcircs := rfl
@[simp] theorem setBarrier_earlyArms (b : Nat) (x : Barrier) : (setBarrier s b x).earlyArms = s.earlyArms := rfl
@[simp] theorem setBarrier_dbgs (b : Nat) (x : Barrier) : (setBarrier s b x).dbgs = s.dbgs := rfl
@[simp] theorem setBarrier_einjoff (b : Nat) (x : Barrier) : (setBarrier s b x).einjoff = s.einjoff := rfl
@[simp] theorem setBarrier_einjerr (b : Nat) (x : Barrier) : (setBarrier s b x).einjerr = s.einjerr := rfl
@[simp] theorem setBarrier_einjcount (b : Nat) (x : Barrier) : (setBarrier s b x).einjcount = s.einjcount := rfl
@[simp] theorem setBarrier_mctpReply (b : Nat) (x : Barrier) : (setBarrier s b x).mctpReply = s.mctpReply := rfl
@[simp] theorem setBarrier_timeJoined (b : Nat) (x : Barrier) : (setBarrier s b x).timeJoined = s.timeJoined := rfl
@[simp] theorem setBarrier_d3Pending (b : Nat) (x : Barrier) : (setBarrier s b x).d3Pending = s.d3Pending := rfl

/-! ## setFn -/

@[simp] theorem setFn_agenda (n : Nat) (x : Fn) : (setFn s n x).agenda = s.agenda := rfl
@[simp] theorem setFn_site (n : Nat) (x : Fn) : (setFn s n x).site = s.site := rfl
@[simp] theorem setFn_part (n : Nat) (x : Fn) : (setFn s n x).part = s.part := rfl
@[simp] theorem setFn_fresh (n : Nat) (x : Fn) : (setFn s n x).fresh = s.fresh := rfl
@[simp] theorem setFn_dtime (n : Nat) (x : Fn) : (setFn s n x).dtime = s.dtime := rfl
@[simp] theorem setFn_cycle (n : Nat) (x : Fn) : (setFn s n x).cycle = s.cycle := rfl
@[simp] theorem setFn_mem (n : Nat) (x : Fn) : (setFn s n x).mem = s.mem := rfl
@[simp] theorem setFn_poison (n : Nat) (x : Fn) : (setFn s n x).poison = s.poison := rfl
@[simp] theorem setFn_soft (n : Nat) (x : Fn) : (setFn s n x).soft = s.soft := rfl
@[simp] theorem setFn_ownerWrites (n : Nat) (x : Fn) : (setFn s n x).ownerWrites = s.ownerWrites := rfl
@[simp] theorem setFn_tableError (n : Nat) (x : Fn) : (setFn s n x).tableError = s.tableError := rfl
@[simp] theorem setFn_pcie (n : Nat) (x : Fn) : (setFn s n x).pcie = s.pcie := rfl
@[simp] theorem setFn_power (n : Nat) (x : Fn) : (setFn s n x).power = s.power := rfl
@[simp] theorem setFn_dev (n : Nat) (x : Fn) : (setFn s n x).dev = s.dev := rfl
@[simp] theorem setFn_bootStep (n : Nat) (x : Fn) : (setFn s n x).bootStep = s.bootStep := rfl
@[simp] theorem setFn_booterr (n : Nat) (x : Fn) : (setFn s n x).booterr = s.booterr := rfl
@[simp] theorem setFn_fatal (n : Nat) (x : Fn) : (setFn s n x).fatal = s.fatal := rfl
@[simp] theorem setFn_dstate (n : Nat) (x : Fn) : (setFn s n x).dstate = s.dstate := rfl
@[simp] theorem setFn_present (n : Nat) (x : Fn) : (setFn s n x).present = s.present := rfl
@[simp] theorem setFn_gated (n : Nat) (x : Fn) : (setFn s n x).gated = s.gated := rfl
@[simp] theorem setFn_recaddr (n : Nat) (x : Fn) : (setFn s n x).recaddr = s.recaddr := rfl
@[simp] theorem setFn_reclen (n : Nat) (x : Fn) : (setFn s n x).reclen = s.reclen := rfl
@[simp] theorem setFn_pcap (n : Nat) (x : Fn) : (setFn s n x).pcap = s.pcap := rfl
@[simp] theorem setFn_watts (n : Nat) (x : Fn) : (setFn s n x).watts = s.watts := rfl
@[simp] theorem setFn_junction (n : Nat) (x : Fn) : (setFn s n x).junction = s.junction := rfl
@[simp] theorem setFn_level (n : Nat) (x : Fn) : (setFn s n x).level = s.level := rfl
@[simp] theorem setFn_clearSince (n : Nat) (x : Fn) : (setFn s n x).clearSince = s.clearSince := rfl
@[simp] theorem setFn_gateErr (n : Nat) (x : Fn) : (setFn s n x).gateErr = s.gateErr := rfl
@[simp] theorem setFn_clusters (n : Nat) (x : Fn) : (setFn s n x).clusters = s.clusters := rfl
@[simp] theorem setFn_wave (n : Nat) (x : Fn) : (setFn s n x).wave = s.wave := rfl
@[simp] theorem setFn_capsule (n : Nat) (x : Fn) : (setFn s n x).capsule = s.capsule := rfl
@[simp] theorem setFn_fns (n : Nat) (x : Fn) : (setFn s n x).fns = Tab.set s.fns n x := rfl
@[simp] theorem setFn_contexts (n : Nat) (x : Fn) : (setFn s n x).contexts = s.contexts := rfl
@[simp] theorem setFn_queues (n : Nat) (x : Fn) : (setFn s n x).queues = s.queues := rfl
@[simp] theorem setFn_barriers (n : Nat) (x : Fn) : (setFn s n x).barriers = s.barriers := rfl
@[simp] theorem setFn_ccbase (n : Nat) (x : Fn) : (setFn s n x).ccbase = s.ccbase := rfl
@[simp] theorem setFn_ccsize (n : Nat) (x : Fn) : (setFn s n x).ccsize = s.ccsize := rfl
@[simp] theorem setFn_kernels (n : Nat) (x : Fn) : (setFn s n x).kernels = s.kernels := rfl
@[simp] theorem setFn_prbase (n : Nat) (x : Fn) : (setFn s n x).prbase = s.prbase := rfl
@[simp] theorem setFn_prsize (n : Nat) (x : Fn) : (setFn s n x).prsize = s.prsize := rfl
@[simp] theorem setFn_clscfg (n : Nat) (x : Fn) : (setFn s n x).clscfg = s.clscfg := rfl
@[simp] theorem setFn_nextGrp (n : Nat) (x : Fn) : (setFn s n x).nextGrp = s.nextGrp := rfl
@[simp] theorem setFn_startCount (n : Nat) (x : Fn) : (setFn s n x).startCount = s.startCount := rfl
@[simp] theorem setFn_groups (n : Nat) (x : Fn) : (setFn s n x).groups = s.groups := rfl
@[simp] theorem setFn_rpcfg (n : Nat) (x : Fn) : (setFn s n x).rpcfg = s.rpcfg := rfl
@[simp] theorem setFn_rpzero (n : Nat) (x : Fn) : (setFn s n x).rpzero = s.rpzero := rfl
@[simp] theorem setFn_extents (n : Nat) (x : Fn) : (setFn s n x).extents = s.extents := rfl
@[simp] theorem setFn_pkgid (n : Nat) (x : Fn) : (setFn s n x).pkgid = s.pkgid := rfl
@[simp] theorem setFn_rtab (n : Nat) (x : Fn) : (setFn s n x).rtab = s.rtab := rfl
@[simp] theorem setFn_links (n : Nat) (x : Fn) : (setFn s n x).links = s.links := rfl
@[simp] theorem setFn_jobs (n : Nat) (x : Fn) : (setFn s n x).jobs = s.jobs := rfl
@[simp] theorem setFn_reqs (n : Nat) (x : Fn) : (setFn s n x).reqs = s.reqs := rfl
@[simp] theorem setFn_outbox (n : Nat) (x : Fn) : (setFn s n x).outbox = s.outbox := rfl
@[simp] theorem setFn_pairCounts (n : Nat) (x : Fn) : (setFn s n x).pairCounts = s.pairCounts := rfl
@[simp] theorem setFn_nonces (n : Nat) (x : Fn) : (setFn s n x).nonces = s.nonces := rfl
@[simp] theorem setFn_meetings (n : Nat) (x : Fn) : (setFn s n x).meetings = s.meetings := rfl
@[simp] theorem setFn_collCounts (n : Nat) (x : Fn) : (setFn s n x).collCounts = s.collCounts := rfl
@[simp] theorem setFn_hcircs (n : Nat) (x : Fn) : (setFn s n x).hcircs = s.hcircs := rfl
@[simp] theorem setFn_earlyArms (n : Nat) (x : Fn) : (setFn s n x).earlyArms = s.earlyArms := rfl
@[simp] theorem setFn_dbgs (n : Nat) (x : Fn) : (setFn s n x).dbgs = s.dbgs := rfl
@[simp] theorem setFn_einjoff (n : Nat) (x : Fn) : (setFn s n x).einjoff = s.einjoff := rfl
@[simp] theorem setFn_einjerr (n : Nat) (x : Fn) : (setFn s n x).einjerr = s.einjerr := rfl
@[simp] theorem setFn_einjcount (n : Nat) (x : Fn) : (setFn s n x).einjcount = s.einjcount := rfl
@[simp] theorem setFn_mctpReply (n : Nat) (x : Fn) : (setFn s n x).mctpReply = s.mctpReply := rfl
@[simp] theorem setFn_timeJoined (n : Nat) (x : Fn) : (setFn s n x).timeJoined = s.timeJoined := rfl
@[simp] theorem setFn_d3Pending (n : Nat) (x : Fn) : (setFn s n x).d3Pending = s.d3Pending := rfl

/-! ## setLink -/

@[simp] theorem setLink_agenda (n : Nat) (x : Link) : (setLink s n x).agenda = s.agenda := rfl
@[simp] theorem setLink_site (n : Nat) (x : Link) : (setLink s n x).site = s.site := rfl
@[simp] theorem setLink_part (n : Nat) (x : Link) : (setLink s n x).part = s.part := rfl
@[simp] theorem setLink_fresh (n : Nat) (x : Link) : (setLink s n x).fresh = s.fresh := rfl
@[simp] theorem setLink_dtime (n : Nat) (x : Link) : (setLink s n x).dtime = s.dtime := rfl
@[simp] theorem setLink_cycle (n : Nat) (x : Link) : (setLink s n x).cycle = s.cycle := rfl
@[simp] theorem setLink_mem (n : Nat) (x : Link) : (setLink s n x).mem = s.mem := rfl
@[simp] theorem setLink_poison (n : Nat) (x : Link) : (setLink s n x).poison = s.poison := rfl
@[simp] theorem setLink_soft (n : Nat) (x : Link) : (setLink s n x).soft = s.soft := rfl
@[simp] theorem setLink_ownerWrites (n : Nat) (x : Link) : (setLink s n x).ownerWrites = s.ownerWrites := rfl
@[simp] theorem setLink_tableError (n : Nat) (x : Link) : (setLink s n x).tableError = s.tableError := rfl
@[simp] theorem setLink_pcie (n : Nat) (x : Link) : (setLink s n x).pcie = s.pcie := rfl
@[simp] theorem setLink_power (n : Nat) (x : Link) : (setLink s n x).power = s.power := rfl
@[simp] theorem setLink_dev (n : Nat) (x : Link) : (setLink s n x).dev = s.dev := rfl
@[simp] theorem setLink_bootStep (n : Nat) (x : Link) : (setLink s n x).bootStep = s.bootStep := rfl
@[simp] theorem setLink_booterr (n : Nat) (x : Link) : (setLink s n x).booterr = s.booterr := rfl
@[simp] theorem setLink_fatal (n : Nat) (x : Link) : (setLink s n x).fatal = s.fatal := rfl
@[simp] theorem setLink_dstate (n : Nat) (x : Link) : (setLink s n x).dstate = s.dstate := rfl
@[simp] theorem setLink_present (n : Nat) (x : Link) : (setLink s n x).present = s.present := rfl
@[simp] theorem setLink_gated (n : Nat) (x : Link) : (setLink s n x).gated = s.gated := rfl
@[simp] theorem setLink_recaddr (n : Nat) (x : Link) : (setLink s n x).recaddr = s.recaddr := rfl
@[simp] theorem setLink_reclen (n : Nat) (x : Link) : (setLink s n x).reclen = s.reclen := rfl
@[simp] theorem setLink_pcap (n : Nat) (x : Link) : (setLink s n x).pcap = s.pcap := rfl
@[simp] theorem setLink_watts (n : Nat) (x : Link) : (setLink s n x).watts = s.watts := rfl
@[simp] theorem setLink_junction (n : Nat) (x : Link) : (setLink s n x).junction = s.junction := rfl
@[simp] theorem setLink_level (n : Nat) (x : Link) : (setLink s n x).level = s.level := rfl
@[simp] theorem setLink_clearSince (n : Nat) (x : Link) : (setLink s n x).clearSince = s.clearSince := rfl
@[simp] theorem setLink_gateErr (n : Nat) (x : Link) : (setLink s n x).gateErr = s.gateErr := rfl
@[simp] theorem setLink_clusters (n : Nat) (x : Link) : (setLink s n x).clusters = s.clusters := rfl
@[simp] theorem setLink_wave (n : Nat) (x : Link) : (setLink s n x).wave = s.wave := rfl
@[simp] theorem setLink_capsule (n : Nat) (x : Link) : (setLink s n x).capsule = s.capsule := rfl
@[simp] theorem setLink_fns (n : Nat) (x : Link) : (setLink s n x).fns = s.fns := rfl
@[simp] theorem setLink_contexts (n : Nat) (x : Link) : (setLink s n x).contexts = s.contexts := rfl
@[simp] theorem setLink_queues (n : Nat) (x : Link) : (setLink s n x).queues = s.queues := rfl
@[simp] theorem setLink_barriers (n : Nat) (x : Link) : (setLink s n x).barriers = s.barriers := rfl
@[simp] theorem setLink_ccbase (n : Nat) (x : Link) : (setLink s n x).ccbase = s.ccbase := rfl
@[simp] theorem setLink_ccsize (n : Nat) (x : Link) : (setLink s n x).ccsize = s.ccsize := rfl
@[simp] theorem setLink_kernels (n : Nat) (x : Link) : (setLink s n x).kernels = s.kernels := rfl
@[simp] theorem setLink_prbase (n : Nat) (x : Link) : (setLink s n x).prbase = s.prbase := rfl
@[simp] theorem setLink_prsize (n : Nat) (x : Link) : (setLink s n x).prsize = s.prsize := rfl
@[simp] theorem setLink_clscfg (n : Nat) (x : Link) : (setLink s n x).clscfg = s.clscfg := rfl
@[simp] theorem setLink_nextGrp (n : Nat) (x : Link) : (setLink s n x).nextGrp = s.nextGrp := rfl
@[simp] theorem setLink_startCount (n : Nat) (x : Link) : (setLink s n x).startCount = s.startCount := rfl
@[simp] theorem setLink_groups (n : Nat) (x : Link) : (setLink s n x).groups = s.groups := rfl
@[simp] theorem setLink_rpcfg (n : Nat) (x : Link) : (setLink s n x).rpcfg = s.rpcfg := rfl
@[simp] theorem setLink_rpzero (n : Nat) (x : Link) : (setLink s n x).rpzero = s.rpzero := rfl
@[simp] theorem setLink_extents (n : Nat) (x : Link) : (setLink s n x).extents = s.extents := rfl
@[simp] theorem setLink_pkgid (n : Nat) (x : Link) : (setLink s n x).pkgid = s.pkgid := rfl
@[simp] theorem setLink_rtab (n : Nat) (x : Link) : (setLink s n x).rtab = s.rtab := rfl
@[simp] theorem setLink_links (n : Nat) (x : Link) : (setLink s n x).links = Tab.set s.links n x := rfl
@[simp] theorem setLink_jobs (n : Nat) (x : Link) : (setLink s n x).jobs = s.jobs := rfl
@[simp] theorem setLink_reqs (n : Nat) (x : Link) : (setLink s n x).reqs = s.reqs := rfl
@[simp] theorem setLink_outbox (n : Nat) (x : Link) : (setLink s n x).outbox = s.outbox := rfl
@[simp] theorem setLink_pairCounts (n : Nat) (x : Link) : (setLink s n x).pairCounts = s.pairCounts := rfl
@[simp] theorem setLink_nonces (n : Nat) (x : Link) : (setLink s n x).nonces = s.nonces := rfl
@[simp] theorem setLink_meetings (n : Nat) (x : Link) : (setLink s n x).meetings = s.meetings := rfl
@[simp] theorem setLink_collCounts (n : Nat) (x : Link) : (setLink s n x).collCounts = s.collCounts := rfl
@[simp] theorem setLink_hcircs (n : Nat) (x : Link) : (setLink s n x).hcircs = s.hcircs := rfl
@[simp] theorem setLink_earlyArms (n : Nat) (x : Link) : (setLink s n x).earlyArms = s.earlyArms := rfl
@[simp] theorem setLink_dbgs (n : Nat) (x : Link) : (setLink s n x).dbgs = s.dbgs := rfl
@[simp] theorem setLink_einjoff (n : Nat) (x : Link) : (setLink s n x).einjoff = s.einjoff := rfl
@[simp] theorem setLink_einjerr (n : Nat) (x : Link) : (setLink s n x).einjerr = s.einjerr := rfl
@[simp] theorem setLink_einjcount (n : Nat) (x : Link) : (setLink s n x).einjcount = s.einjcount := rfl
@[simp] theorem setLink_mctpReply (n : Nat) (x : Link) : (setLink s n x).mctpReply = s.mctpReply := rfl
@[simp] theorem setLink_timeJoined (n : Nat) (x : Link) : (setLink s n x).timeJoined = s.timeJoined := rfl
@[simp] theorem setLink_d3Pending (n : Nat) (x : Link) : (setLink s n x).d3Pending = s.d3Pending := rfl

/-! ## modLink -/

@[simp] theorem modLink_agenda (n : Nat) (f : Link → Link) : (modLink s n f).agenda = s.agenda := rfl
@[simp] theorem modLink_site (n : Nat) (f : Link → Link) : (modLink s n f).site = s.site := rfl
@[simp] theorem modLink_part (n : Nat) (f : Link → Link) : (modLink s n f).part = s.part := rfl
@[simp] theorem modLink_fresh (n : Nat) (f : Link → Link) : (modLink s n f).fresh = s.fresh := rfl
@[simp] theorem modLink_dtime (n : Nat) (f : Link → Link) : (modLink s n f).dtime = s.dtime := rfl
@[simp] theorem modLink_cycle (n : Nat) (f : Link → Link) : (modLink s n f).cycle = s.cycle := rfl
@[simp] theorem modLink_mem (n : Nat) (f : Link → Link) : (modLink s n f).mem = s.mem := rfl
@[simp] theorem modLink_poison (n : Nat) (f : Link → Link) : (modLink s n f).poison = s.poison := rfl
@[simp] theorem modLink_soft (n : Nat) (f : Link → Link) : (modLink s n f).soft = s.soft := rfl
@[simp] theorem modLink_ownerWrites (n : Nat) (f : Link → Link) : (modLink s n f).ownerWrites = s.ownerWrites := rfl
@[simp] theorem modLink_tableError (n : Nat) (f : Link → Link) : (modLink s n f).tableError = s.tableError := rfl
@[simp] theorem modLink_pcie (n : Nat) (f : Link → Link) : (modLink s n f).pcie = s.pcie := rfl
@[simp] theorem modLink_power (n : Nat) (f : Link → Link) : (modLink s n f).power = s.power := rfl
@[simp] theorem modLink_dev (n : Nat) (f : Link → Link) : (modLink s n f).dev = s.dev := rfl
@[simp] theorem modLink_bootStep (n : Nat) (f : Link → Link) : (modLink s n f).bootStep = s.bootStep := rfl
@[simp] theorem modLink_booterr (n : Nat) (f : Link → Link) : (modLink s n f).booterr = s.booterr := rfl
@[simp] theorem modLink_fatal (n : Nat) (f : Link → Link) : (modLink s n f).fatal = s.fatal := rfl
@[simp] theorem modLink_dstate (n : Nat) (f : Link → Link) : (modLink s n f).dstate = s.dstate := rfl
@[simp] theorem modLink_present (n : Nat) (f : Link → Link) : (modLink s n f).present = s.present := rfl
@[simp] theorem modLink_gated (n : Nat) (f : Link → Link) : (modLink s n f).gated = s.gated := rfl
@[simp] theorem modLink_recaddr (n : Nat) (f : Link → Link) : (modLink s n f).recaddr = s.recaddr := rfl
@[simp] theorem modLink_reclen (n : Nat) (f : Link → Link) : (modLink s n f).reclen = s.reclen := rfl
@[simp] theorem modLink_pcap (n : Nat) (f : Link → Link) : (modLink s n f).pcap = s.pcap := rfl
@[simp] theorem modLink_watts (n : Nat) (f : Link → Link) : (modLink s n f).watts = s.watts := rfl
@[simp] theorem modLink_junction (n : Nat) (f : Link → Link) : (modLink s n f).junction = s.junction := rfl
@[simp] theorem modLink_level (n : Nat) (f : Link → Link) : (modLink s n f).level = s.level := rfl
@[simp] theorem modLink_clearSince (n : Nat) (f : Link → Link) : (modLink s n f).clearSince = s.clearSince := rfl
@[simp] theorem modLink_gateErr (n : Nat) (f : Link → Link) : (modLink s n f).gateErr = s.gateErr := rfl
@[simp] theorem modLink_clusters (n : Nat) (f : Link → Link) : (modLink s n f).clusters = s.clusters := rfl
@[simp] theorem modLink_wave (n : Nat) (f : Link → Link) : (modLink s n f).wave = s.wave := rfl
@[simp] theorem modLink_capsule (n : Nat) (f : Link → Link) : (modLink s n f).capsule = s.capsule := rfl
@[simp] theorem modLink_fns (n : Nat) (f : Link → Link) : (modLink s n f).fns = s.fns := rfl
@[simp] theorem modLink_contexts (n : Nat) (f : Link → Link) : (modLink s n f).contexts = s.contexts := rfl
@[simp] theorem modLink_queues (n : Nat) (f : Link → Link) : (modLink s n f).queues = s.queues := rfl
@[simp] theorem modLink_barriers (n : Nat) (f : Link → Link) : (modLink s n f).barriers = s.barriers := rfl
@[simp] theorem modLink_ccbase (n : Nat) (f : Link → Link) : (modLink s n f).ccbase = s.ccbase := rfl
@[simp] theorem modLink_ccsize (n : Nat) (f : Link → Link) : (modLink s n f).ccsize = s.ccsize := rfl
@[simp] theorem modLink_kernels (n : Nat) (f : Link → Link) : (modLink s n f).kernels = s.kernels := rfl
@[simp] theorem modLink_prbase (n : Nat) (f : Link → Link) : (modLink s n f).prbase = s.prbase := rfl
@[simp] theorem modLink_prsize (n : Nat) (f : Link → Link) : (modLink s n f).prsize = s.prsize := rfl
@[simp] theorem modLink_clscfg (n : Nat) (f : Link → Link) : (modLink s n f).clscfg = s.clscfg := rfl
@[simp] theorem modLink_nextGrp (n : Nat) (f : Link → Link) : (modLink s n f).nextGrp = s.nextGrp := rfl
@[simp] theorem modLink_startCount (n : Nat) (f : Link → Link) : (modLink s n f).startCount = s.startCount := rfl
@[simp] theorem modLink_groups (n : Nat) (f : Link → Link) : (modLink s n f).groups = s.groups := rfl
@[simp] theorem modLink_rpcfg (n : Nat) (f : Link → Link) : (modLink s n f).rpcfg = s.rpcfg := rfl
@[simp] theorem modLink_rpzero (n : Nat) (f : Link → Link) : (modLink s n f).rpzero = s.rpzero := rfl
@[simp] theorem modLink_extents (n : Nat) (f : Link → Link) : (modLink s n f).extents = s.extents := rfl
@[simp] theorem modLink_pkgid (n : Nat) (f : Link → Link) : (modLink s n f).pkgid = s.pkgid := rfl
@[simp] theorem modLink_rtab (n : Nat) (f : Link → Link) : (modLink s n f).rtab = s.rtab := rfl
@[simp] theorem modLink_links (n : Nat) (f : Link → Link) : (modLink s n f).links = Tab.set s.links n (f (link s n)) := rfl
@[simp] theorem modLink_jobs (n : Nat) (f : Link → Link) : (modLink s n f).jobs = s.jobs := rfl
@[simp] theorem modLink_reqs (n : Nat) (f : Link → Link) : (modLink s n f).reqs = s.reqs := rfl
@[simp] theorem modLink_outbox (n : Nat) (f : Link → Link) : (modLink s n f).outbox = s.outbox := rfl
@[simp] theorem modLink_pairCounts (n : Nat) (f : Link → Link) : (modLink s n f).pairCounts = s.pairCounts := rfl
@[simp] theorem modLink_nonces (n : Nat) (f : Link → Link) : (modLink s n f).nonces = s.nonces := rfl
@[simp] theorem modLink_meetings (n : Nat) (f : Link → Link) : (modLink s n f).meetings = s.meetings := rfl
@[simp] theorem modLink_collCounts (n : Nat) (f : Link → Link) : (modLink s n f).collCounts = s.collCounts := rfl
@[simp] theorem modLink_hcircs (n : Nat) (f : Link → Link) : (modLink s n f).hcircs = s.hcircs := rfl
@[simp] theorem modLink_earlyArms (n : Nat) (f : Link → Link) : (modLink s n f).earlyArms = s.earlyArms := rfl
@[simp] theorem modLink_dbgs (n : Nat) (f : Link → Link) : (modLink s n f).dbgs = s.dbgs := rfl
@[simp] theorem modLink_einjoff (n : Nat) (f : Link → Link) : (modLink s n f).einjoff = s.einjoff := rfl
@[simp] theorem modLink_einjerr (n : Nat) (f : Link → Link) : (modLink s n f).einjerr = s.einjerr := rfl
@[simp] theorem modLink_einjcount (n : Nat) (f : Link → Link) : (modLink s n f).einjcount = s.einjcount := rfl
@[simp] theorem modLink_mctpReply (n : Nat) (f : Link → Link) : (modLink s n f).mctpReply = s.mctpReply := rfl
@[simp] theorem modLink_timeJoined (n : Nat) (f : Link → Link) : (modLink s n f).timeJoined = s.timeJoined := rfl
@[simp] theorem modLink_d3Pending (n : Nat) (f : Link → Link) : (modLink s n f).d3Pending = s.d3Pending := rfl

/-! ## setJob -/

@[simp] theorem setJob_agenda (j : Nat) (x : Job) : (setJob s j x).agenda = s.agenda := rfl
@[simp] theorem setJob_site (j : Nat) (x : Job) : (setJob s j x).site = s.site := rfl
@[simp] theorem setJob_part (j : Nat) (x : Job) : (setJob s j x).part = s.part := rfl
@[simp] theorem setJob_fresh (j : Nat) (x : Job) : (setJob s j x).fresh = s.fresh := rfl
@[simp] theorem setJob_dtime (j : Nat) (x : Job) : (setJob s j x).dtime = s.dtime := rfl
@[simp] theorem setJob_cycle (j : Nat) (x : Job) : (setJob s j x).cycle = s.cycle := rfl
@[simp] theorem setJob_mem (j : Nat) (x : Job) : (setJob s j x).mem = s.mem := rfl
@[simp] theorem setJob_poison (j : Nat) (x : Job) : (setJob s j x).poison = s.poison := rfl
@[simp] theorem setJob_soft (j : Nat) (x : Job) : (setJob s j x).soft = s.soft := rfl
@[simp] theorem setJob_ownerWrites (j : Nat) (x : Job) : (setJob s j x).ownerWrites = s.ownerWrites := rfl
@[simp] theorem setJob_tableError (j : Nat) (x : Job) : (setJob s j x).tableError = s.tableError := rfl
@[simp] theorem setJob_pcie (j : Nat) (x : Job) : (setJob s j x).pcie = s.pcie := rfl
@[simp] theorem setJob_power (j : Nat) (x : Job) : (setJob s j x).power = s.power := rfl
@[simp] theorem setJob_dev (j : Nat) (x : Job) : (setJob s j x).dev = s.dev := rfl
@[simp] theorem setJob_bootStep (j : Nat) (x : Job) : (setJob s j x).bootStep = s.bootStep := rfl
@[simp] theorem setJob_booterr (j : Nat) (x : Job) : (setJob s j x).booterr = s.booterr := rfl
@[simp] theorem setJob_fatal (j : Nat) (x : Job) : (setJob s j x).fatal = s.fatal := rfl
@[simp] theorem setJob_dstate (j : Nat) (x : Job) : (setJob s j x).dstate = s.dstate := rfl
@[simp] theorem setJob_present (j : Nat) (x : Job) : (setJob s j x).present = s.present := rfl
@[simp] theorem setJob_gated (j : Nat) (x : Job) : (setJob s j x).gated = s.gated := rfl
@[simp] theorem setJob_recaddr (j : Nat) (x : Job) : (setJob s j x).recaddr = s.recaddr := rfl
@[simp] theorem setJob_reclen (j : Nat) (x : Job) : (setJob s j x).reclen = s.reclen := rfl
@[simp] theorem setJob_pcap (j : Nat) (x : Job) : (setJob s j x).pcap = s.pcap := rfl
@[simp] theorem setJob_watts (j : Nat) (x : Job) : (setJob s j x).watts = s.watts := rfl
@[simp] theorem setJob_junction (j : Nat) (x : Job) : (setJob s j x).junction = s.junction := rfl
@[simp] theorem setJob_level (j : Nat) (x : Job) : (setJob s j x).level = s.level := rfl
@[simp] theorem setJob_clearSince (j : Nat) (x : Job) : (setJob s j x).clearSince = s.clearSince := rfl
@[simp] theorem setJob_gateErr (j : Nat) (x : Job) : (setJob s j x).gateErr = s.gateErr := rfl
@[simp] theorem setJob_clusters (j : Nat) (x : Job) : (setJob s j x).clusters = s.clusters := rfl
@[simp] theorem setJob_wave (j : Nat) (x : Job) : (setJob s j x).wave = s.wave := rfl
@[simp] theorem setJob_capsule (j : Nat) (x : Job) : (setJob s j x).capsule = s.capsule := rfl
@[simp] theorem setJob_fns (j : Nat) (x : Job) : (setJob s j x).fns = s.fns := rfl
@[simp] theorem setJob_contexts (j : Nat) (x : Job) : (setJob s j x).contexts = s.contexts := rfl
@[simp] theorem setJob_queues (j : Nat) (x : Job) : (setJob s j x).queues = s.queues := rfl
@[simp] theorem setJob_barriers (j : Nat) (x : Job) : (setJob s j x).barriers = s.barriers := rfl
@[simp] theorem setJob_ccbase (j : Nat) (x : Job) : (setJob s j x).ccbase = s.ccbase := rfl
@[simp] theorem setJob_ccsize (j : Nat) (x : Job) : (setJob s j x).ccsize = s.ccsize := rfl
@[simp] theorem setJob_kernels (j : Nat) (x : Job) : (setJob s j x).kernels = s.kernels := rfl
@[simp] theorem setJob_prbase (j : Nat) (x : Job) : (setJob s j x).prbase = s.prbase := rfl
@[simp] theorem setJob_prsize (j : Nat) (x : Job) : (setJob s j x).prsize = s.prsize := rfl
@[simp] theorem setJob_clscfg (j : Nat) (x : Job) : (setJob s j x).clscfg = s.clscfg := rfl
@[simp] theorem setJob_nextGrp (j : Nat) (x : Job) : (setJob s j x).nextGrp = s.nextGrp := rfl
@[simp] theorem setJob_startCount (j : Nat) (x : Job) : (setJob s j x).startCount = s.startCount := rfl
@[simp] theorem setJob_groups (j : Nat) (x : Job) : (setJob s j x).groups = s.groups := rfl
@[simp] theorem setJob_rpcfg (j : Nat) (x : Job) : (setJob s j x).rpcfg = s.rpcfg := rfl
@[simp] theorem setJob_rpzero (j : Nat) (x : Job) : (setJob s j x).rpzero = s.rpzero := rfl
@[simp] theorem setJob_extents (j : Nat) (x : Job) : (setJob s j x).extents = s.extents := rfl
@[simp] theorem setJob_pkgid (j : Nat) (x : Job) : (setJob s j x).pkgid = s.pkgid := rfl
@[simp] theorem setJob_rtab (j : Nat) (x : Job) : (setJob s j x).rtab = s.rtab := rfl
@[simp] theorem setJob_links (j : Nat) (x : Job) : (setJob s j x).links = s.links := rfl
@[simp] theorem setJob_jobs (j : Nat) (x : Job) : (setJob s j x).jobs = Tab.set s.jobs j x := rfl
@[simp] theorem setJob_reqs (j : Nat) (x : Job) : (setJob s j x).reqs = s.reqs := rfl
@[simp] theorem setJob_outbox (j : Nat) (x : Job) : (setJob s j x).outbox = s.outbox := rfl
@[simp] theorem setJob_pairCounts (j : Nat) (x : Job) : (setJob s j x).pairCounts = s.pairCounts := rfl
@[simp] theorem setJob_nonces (j : Nat) (x : Job) : (setJob s j x).nonces = s.nonces := rfl
@[simp] theorem setJob_meetings (j : Nat) (x : Job) : (setJob s j x).meetings = s.meetings := rfl
@[simp] theorem setJob_collCounts (j : Nat) (x : Job) : (setJob s j x).collCounts = s.collCounts := rfl
@[simp] theorem setJob_hcircs (j : Nat) (x : Job) : (setJob s j x).hcircs = s.hcircs := rfl
@[simp] theorem setJob_earlyArms (j : Nat) (x : Job) : (setJob s j x).earlyArms = s.earlyArms := rfl
@[simp] theorem setJob_dbgs (j : Nat) (x : Job) : (setJob s j x).dbgs = s.dbgs := rfl
@[simp] theorem setJob_einjoff (j : Nat) (x : Job) : (setJob s j x).einjoff = s.einjoff := rfl
@[simp] theorem setJob_einjerr (j : Nat) (x : Job) : (setJob s j x).einjerr = s.einjerr := rfl
@[simp] theorem setJob_einjcount (j : Nat) (x : Job) : (setJob s j x).einjcount = s.einjcount := rfl
@[simp] theorem setJob_mctpReply (j : Nat) (x : Job) : (setJob s j x).mctpReply = s.mctpReply := rfl
@[simp] theorem setJob_timeJoined (j : Nat) (x : Job) : (setJob s j x).timeJoined = s.timeJoined := rfl
@[simp] theorem setJob_d3Pending (j : Nat) (x : Job) : (setJob s j x).d3Pending = s.d3Pending := rfl

/-! ## setCluster -/

@[simp] theorem setCluster_agenda (c : Nat) (x : Cluster) : (setCluster s c x).agenda = s.agenda := rfl
@[simp] theorem setCluster_site (c : Nat) (x : Cluster) : (setCluster s c x).site = s.site := rfl
@[simp] theorem setCluster_part (c : Nat) (x : Cluster) : (setCluster s c x).part = s.part := rfl
@[simp] theorem setCluster_fresh (c : Nat) (x : Cluster) : (setCluster s c x).fresh = s.fresh := rfl
@[simp] theorem setCluster_dtime (c : Nat) (x : Cluster) : (setCluster s c x).dtime = s.dtime := rfl
@[simp] theorem setCluster_cycle (c : Nat) (x : Cluster) : (setCluster s c x).cycle = s.cycle := rfl
@[simp] theorem setCluster_mem (c : Nat) (x : Cluster) : (setCluster s c x).mem = s.mem := rfl
@[simp] theorem setCluster_poison (c : Nat) (x : Cluster) : (setCluster s c x).poison = s.poison := rfl
@[simp] theorem setCluster_soft (c : Nat) (x : Cluster) : (setCluster s c x).soft = s.soft := rfl
@[simp] theorem setCluster_ownerWrites (c : Nat) (x : Cluster) : (setCluster s c x).ownerWrites = s.ownerWrites := rfl
@[simp] theorem setCluster_tableError (c : Nat) (x : Cluster) : (setCluster s c x).tableError = s.tableError := rfl
@[simp] theorem setCluster_pcie (c : Nat) (x : Cluster) : (setCluster s c x).pcie = s.pcie := rfl
@[simp] theorem setCluster_power (c : Nat) (x : Cluster) : (setCluster s c x).power = s.power := rfl
@[simp] theorem setCluster_dev (c : Nat) (x : Cluster) : (setCluster s c x).dev = s.dev := rfl
@[simp] theorem setCluster_bootStep (c : Nat) (x : Cluster) : (setCluster s c x).bootStep = s.bootStep := rfl
@[simp] theorem setCluster_booterr (c : Nat) (x : Cluster) : (setCluster s c x).booterr = s.booterr := rfl
@[simp] theorem setCluster_fatal (c : Nat) (x : Cluster) : (setCluster s c x).fatal = s.fatal := rfl
@[simp] theorem setCluster_dstate (c : Nat) (x : Cluster) : (setCluster s c x).dstate = s.dstate := rfl
@[simp] theorem setCluster_present (c : Nat) (x : Cluster) : (setCluster s c x).present = s.present := rfl
@[simp] theorem setCluster_gated (c : Nat) (x : Cluster) : (setCluster s c x).gated = s.gated := rfl
@[simp] theorem setCluster_recaddr (c : Nat) (x : Cluster) : (setCluster s c x).recaddr = s.recaddr := rfl
@[simp] theorem setCluster_reclen (c : Nat) (x : Cluster) : (setCluster s c x).reclen = s.reclen := rfl
@[simp] theorem setCluster_pcap (c : Nat) (x : Cluster) : (setCluster s c x).pcap = s.pcap := rfl
@[simp] theorem setCluster_watts (c : Nat) (x : Cluster) : (setCluster s c x).watts = s.watts := rfl
@[simp] theorem setCluster_junction (c : Nat) (x : Cluster) : (setCluster s c x).junction = s.junction := rfl
@[simp] theorem setCluster_level (c : Nat) (x : Cluster) : (setCluster s c x).level = s.level := rfl
@[simp] theorem setCluster_clearSince (c : Nat) (x : Cluster) : (setCluster s c x).clearSince = s.clearSince := rfl
@[simp] theorem setCluster_gateErr (c : Nat) (x : Cluster) : (setCluster s c x).gateErr = s.gateErr := rfl
@[simp] theorem setCluster_clusters (c : Nat) (x : Cluster) : (setCluster s c x).clusters = Tab.set s.clusters c x := rfl
@[simp] theorem setCluster_wave (c : Nat) (x : Cluster) : (setCluster s c x).wave = s.wave := rfl
@[simp] theorem setCluster_capsule (c : Nat) (x : Cluster) : (setCluster s c x).capsule = s.capsule := rfl
@[simp] theorem setCluster_fns (c : Nat) (x : Cluster) : (setCluster s c x).fns = s.fns := rfl
@[simp] theorem setCluster_contexts (c : Nat) (x : Cluster) : (setCluster s c x).contexts = s.contexts := rfl
@[simp] theorem setCluster_queues (c : Nat) (x : Cluster) : (setCluster s c x).queues = s.queues := rfl
@[simp] theorem setCluster_barriers (c : Nat) (x : Cluster) : (setCluster s c x).barriers = s.barriers := rfl
@[simp] theorem setCluster_ccbase (c : Nat) (x : Cluster) : (setCluster s c x).ccbase = s.ccbase := rfl
@[simp] theorem setCluster_ccsize (c : Nat) (x : Cluster) : (setCluster s c x).ccsize = s.ccsize := rfl
@[simp] theorem setCluster_kernels (c : Nat) (x : Cluster) : (setCluster s c x).kernels = s.kernels := rfl
@[simp] theorem setCluster_prbase (c : Nat) (x : Cluster) : (setCluster s c x).prbase = s.prbase := rfl
@[simp] theorem setCluster_prsize (c : Nat) (x : Cluster) : (setCluster s c x).prsize = s.prsize := rfl
@[simp] theorem setCluster_clscfg (c : Nat) (x : Cluster) : (setCluster s c x).clscfg = s.clscfg := rfl
@[simp] theorem setCluster_nextGrp (c : Nat) (x : Cluster) : (setCluster s c x).nextGrp = s.nextGrp := rfl
@[simp] theorem setCluster_startCount (c : Nat) (x : Cluster) : (setCluster s c x).startCount = s.startCount := rfl
@[simp] theorem setCluster_groups (c : Nat) (x : Cluster) : (setCluster s c x).groups = s.groups := rfl
@[simp] theorem setCluster_rpcfg (c : Nat) (x : Cluster) : (setCluster s c x).rpcfg = s.rpcfg := rfl
@[simp] theorem setCluster_rpzero (c : Nat) (x : Cluster) : (setCluster s c x).rpzero = s.rpzero := rfl
@[simp] theorem setCluster_extents (c : Nat) (x : Cluster) : (setCluster s c x).extents = s.extents := rfl
@[simp] theorem setCluster_pkgid (c : Nat) (x : Cluster) : (setCluster s c x).pkgid = s.pkgid := rfl
@[simp] theorem setCluster_rtab (c : Nat) (x : Cluster) : (setCluster s c x).rtab = s.rtab := rfl
@[simp] theorem setCluster_links (c : Nat) (x : Cluster) : (setCluster s c x).links = s.links := rfl
@[simp] theorem setCluster_jobs (c : Nat) (x : Cluster) : (setCluster s c x).jobs = s.jobs := rfl
@[simp] theorem setCluster_reqs (c : Nat) (x : Cluster) : (setCluster s c x).reqs = s.reqs := rfl
@[simp] theorem setCluster_outbox (c : Nat) (x : Cluster) : (setCluster s c x).outbox = s.outbox := rfl
@[simp] theorem setCluster_pairCounts (c : Nat) (x : Cluster) : (setCluster s c x).pairCounts = s.pairCounts := rfl
@[simp] theorem setCluster_nonces (c : Nat) (x : Cluster) : (setCluster s c x).nonces = s.nonces := rfl
@[simp] theorem setCluster_meetings (c : Nat) (x : Cluster) : (setCluster s c x).meetings = s.meetings := rfl
@[simp] theorem setCluster_collCounts (c : Nat) (x : Cluster) : (setCluster s c x).collCounts = s.collCounts := rfl
@[simp] theorem setCluster_hcircs (c : Nat) (x : Cluster) : (setCluster s c x).hcircs = s.hcircs := rfl
@[simp] theorem setCluster_earlyArms (c : Nat) (x : Cluster) : (setCluster s c x).earlyArms = s.earlyArms := rfl
@[simp] theorem setCluster_dbgs (c : Nat) (x : Cluster) : (setCluster s c x).dbgs = s.dbgs := rfl
@[simp] theorem setCluster_einjoff (c : Nat) (x : Cluster) : (setCluster s c x).einjoff = s.einjoff := rfl
@[simp] theorem setCluster_einjerr (c : Nat) (x : Cluster) : (setCluster s c x).einjerr = s.einjerr := rfl
@[simp] theorem setCluster_einjcount (c : Nat) (x : Cluster) : (setCluster s c x).einjcount = s.einjcount := rfl
@[simp] theorem setCluster_mctpReply (c : Nat) (x : Cluster) : (setCluster s c x).mctpReply = s.mctpReply := rfl
@[simp] theorem setCluster_timeJoined (c : Nat) (x : Cluster) : (setCluster s c x).timeJoined = s.timeJoined := rfl
@[simp] theorem setCluster_d3Pending (c : Nat) (x : Cluster) : (setCluster s c x).d3Pending = s.d3Pending := rfl

/-! ## modCluster -/

@[simp] theorem modCluster_agenda (c : Nat) (f : Cluster → Cluster) : (modCluster s c f).agenda = s.agenda := rfl
@[simp] theorem modCluster_site (c : Nat) (f : Cluster → Cluster) : (modCluster s c f).site = s.site := rfl
@[simp] theorem modCluster_part (c : Nat) (f : Cluster → Cluster) : (modCluster s c f).part = s.part := rfl
@[simp] theorem modCluster_fresh (c : Nat) (f : Cluster → Cluster) : (modCluster s c f).fresh = s.fresh := rfl
@[simp] theorem modCluster_dtime (c : Nat) (f : Cluster → Cluster) : (modCluster s c f).dtime = s.dtime := rfl
@[simp] theorem modCluster_cycle (c : Nat) (f : Cluster → Cluster) : (modCluster s c f).cycle = s.cycle := rfl
@[simp] theorem modCluster_mem (c : Nat) (f : Cluster → Cluster) : (modCluster s c f).mem = s.mem := rfl
@[simp] theorem modCluster_poison (c : Nat) (f : Cluster → Cluster) : (modCluster s c f).poison = s.poison := rfl
@[simp] theorem modCluster_soft (c : Nat) (f : Cluster → Cluster) : (modCluster s c f).soft = s.soft := rfl
@[simp] theorem modCluster_ownerWrites (c : Nat) (f : Cluster → Cluster) : (modCluster s c f).ownerWrites = s.ownerWrites := rfl
@[simp] theorem modCluster_tableError (c : Nat) (f : Cluster → Cluster) : (modCluster s c f).tableError = s.tableError := rfl
@[simp] theorem modCluster_pcie (c : Nat) (f : Cluster → Cluster) : (modCluster s c f).pcie = s.pcie := rfl
@[simp] theorem modCluster_power (c : Nat) (f : Cluster → Cluster) : (modCluster s c f).power = s.power := rfl
@[simp] theorem modCluster_dev (c : Nat) (f : Cluster → Cluster) : (modCluster s c f).dev = s.dev := rfl
@[simp] theorem modCluster_bootStep (c : Nat) (f : Cluster → Cluster) : (modCluster s c f).bootStep = s.bootStep := rfl
@[simp] theorem modCluster_booterr (c : Nat) (f : Cluster → Cluster) : (modCluster s c f).booterr = s.booterr := rfl
@[simp] theorem modCluster_fatal (c : Nat) (f : Cluster → Cluster) : (modCluster s c f).fatal = s.fatal := rfl
@[simp] theorem modCluster_dstate (c : Nat) (f : Cluster → Cluster) : (modCluster s c f).dstate = s.dstate := rfl
@[simp] theorem modCluster_present (c : Nat) (f : Cluster → Cluster) : (modCluster s c f).present = s.present := rfl
@[simp] theorem modCluster_gated (c : Nat) (f : Cluster → Cluster) : (modCluster s c f).gated = s.gated := rfl
@[simp] theorem modCluster_recaddr (c : Nat) (f : Cluster → Cluster) : (modCluster s c f).recaddr = s.recaddr := rfl
@[simp] theorem modCluster_reclen (c : Nat) (f : Cluster → Cluster) : (modCluster s c f).reclen = s.reclen := rfl
@[simp] theorem modCluster_pcap (c : Nat) (f : Cluster → Cluster) : (modCluster s c f).pcap = s.pcap := rfl
@[simp] theorem modCluster_watts (c : Nat) (f : Cluster → Cluster) : (modCluster s c f).watts = s.watts := rfl
@[simp] theorem modCluster_junction (c : Nat) (f : Cluster → Cluster) : (modCluster s c f).junction = s.junction := rfl
@[simp] theorem modCluster_level (c : Nat) (f : Cluster → Cluster) : (modCluster s c f).level = s.level := rfl
@[simp] theorem modCluster_clearSince (c : Nat) (f : Cluster → Cluster) : (modCluster s c f).clearSince = s.clearSince := rfl
@[simp] theorem modCluster_gateErr (c : Nat) (f : Cluster → Cluster) : (modCluster s c f).gateErr = s.gateErr := rfl
@[simp] theorem modCluster_clusters (c : Nat) (f : Cluster → Cluster) : (modCluster s c f).clusters = Tab.set s.clusters c (f (cluster s c)) := rfl
@[simp] theorem modCluster_wave (c : Nat) (f : Cluster → Cluster) : (modCluster s c f).wave = s.wave := rfl
@[simp] theorem modCluster_capsule (c : Nat) (f : Cluster → Cluster) : (modCluster s c f).capsule = s.capsule := rfl
@[simp] theorem modCluster_fns (c : Nat) (f : Cluster → Cluster) : (modCluster s c f).fns = s.fns := rfl
@[simp] theorem modCluster_contexts (c : Nat) (f : Cluster → Cluster) : (modCluster s c f).contexts = s.contexts := rfl
@[simp] theorem modCluster_queues (c : Nat) (f : Cluster → Cluster) : (modCluster s c f).queues = s.queues := rfl
@[simp] theorem modCluster_barriers (c : Nat) (f : Cluster → Cluster) : (modCluster s c f).barriers = s.barriers := rfl
@[simp] theorem modCluster_ccbase (c : Nat) (f : Cluster → Cluster) : (modCluster s c f).ccbase = s.ccbase := rfl
@[simp] theorem modCluster_ccsize (c : Nat) (f : Cluster → Cluster) : (modCluster s c f).ccsize = s.ccsize := rfl
@[simp] theorem modCluster_kernels (c : Nat) (f : Cluster → Cluster) : (modCluster s c f).kernels = s.kernels := rfl
@[simp] theorem modCluster_prbase (c : Nat) (f : Cluster → Cluster) : (modCluster s c f).prbase = s.prbase := rfl
@[simp] theorem modCluster_prsize (c : Nat) (f : Cluster → Cluster) : (modCluster s c f).prsize = s.prsize := rfl
@[simp] theorem modCluster_clscfg (c : Nat) (f : Cluster → Cluster) : (modCluster s c f).clscfg = s.clscfg := rfl
@[simp] theorem modCluster_nextGrp (c : Nat) (f : Cluster → Cluster) : (modCluster s c f).nextGrp = s.nextGrp := rfl
@[simp] theorem modCluster_startCount (c : Nat) (f : Cluster → Cluster) : (modCluster s c f).startCount = s.startCount := rfl
@[simp] theorem modCluster_groups (c : Nat) (f : Cluster → Cluster) : (modCluster s c f).groups = s.groups := rfl
@[simp] theorem modCluster_rpcfg (c : Nat) (f : Cluster → Cluster) : (modCluster s c f).rpcfg = s.rpcfg := rfl
@[simp] theorem modCluster_rpzero (c : Nat) (f : Cluster → Cluster) : (modCluster s c f).rpzero = s.rpzero := rfl
@[simp] theorem modCluster_extents (c : Nat) (f : Cluster → Cluster) : (modCluster s c f).extents = s.extents := rfl
@[simp] theorem modCluster_pkgid (c : Nat) (f : Cluster → Cluster) : (modCluster s c f).pkgid = s.pkgid := rfl
@[simp] theorem modCluster_rtab (c : Nat) (f : Cluster → Cluster) : (modCluster s c f).rtab = s.rtab := rfl
@[simp] theorem modCluster_links (c : Nat) (f : Cluster → Cluster) : (modCluster s c f).links = s.links := rfl
@[simp] theorem modCluster_jobs (c : Nat) (f : Cluster → Cluster) : (modCluster s c f).jobs = s.jobs := rfl
@[simp] theorem modCluster_reqs (c : Nat) (f : Cluster → Cluster) : (modCluster s c f).reqs = s.reqs := rfl
@[simp] theorem modCluster_outbox (c : Nat) (f : Cluster → Cluster) : (modCluster s c f).outbox = s.outbox := rfl
@[simp] theorem modCluster_pairCounts (c : Nat) (f : Cluster → Cluster) : (modCluster s c f).pairCounts = s.pairCounts := rfl
@[simp] theorem modCluster_nonces (c : Nat) (f : Cluster → Cluster) : (modCluster s c f).nonces = s.nonces := rfl
@[simp] theorem modCluster_meetings (c : Nat) (f : Cluster → Cluster) : (modCluster s c f).meetings = s.meetings := rfl
@[simp] theorem modCluster_collCounts (c : Nat) (f : Cluster → Cluster) : (modCluster s c f).collCounts = s.collCounts := rfl
@[simp] theorem modCluster_hcircs (c : Nat) (f : Cluster → Cluster) : (modCluster s c f).hcircs = s.hcircs := rfl
@[simp] theorem modCluster_earlyArms (c : Nat) (f : Cluster → Cluster) : (modCluster s c f).earlyArms = s.earlyArms := rfl
@[simp] theorem modCluster_dbgs (c : Nat) (f : Cluster → Cluster) : (modCluster s c f).dbgs = s.dbgs := rfl
@[simp] theorem modCluster_einjoff (c : Nat) (f : Cluster → Cluster) : (modCluster s c f).einjoff = s.einjoff := rfl
@[simp] theorem modCluster_einjerr (c : Nat) (f : Cluster → Cluster) : (modCluster s c f).einjerr = s.einjerr := rfl
@[simp] theorem modCluster_einjcount (c : Nat) (f : Cluster → Cluster) : (modCluster s c f).einjcount = s.einjcount := rfl
@[simp] theorem modCluster_mctpReply (c : Nat) (f : Cluster → Cluster) : (modCluster s c f).mctpReply = s.mctpReply := rfl
@[simp] theorem modCluster_timeJoined (c : Nat) (f : Cluster → Cluster) : (modCluster s c f).timeJoined = s.timeJoined := rfl
@[simp] theorem modCluster_d3Pending (c : Nat) (f : Cluster → Cluster) : (modCluster s c f).d3Pending = s.d3Pending := rfl

/-! ## setDbg -/

@[simp] theorem setDbg_agenda (u : Nat) (x : Dbg) : (setDbg s u x).agenda = s.agenda := rfl
@[simp] theorem setDbg_site (u : Nat) (x : Dbg) : (setDbg s u x).site = s.site := rfl
@[simp] theorem setDbg_part (u : Nat) (x : Dbg) : (setDbg s u x).part = s.part := rfl
@[simp] theorem setDbg_fresh (u : Nat) (x : Dbg) : (setDbg s u x).fresh = s.fresh := rfl
@[simp] theorem setDbg_dtime (u : Nat) (x : Dbg) : (setDbg s u x).dtime = s.dtime := rfl
@[simp] theorem setDbg_cycle (u : Nat) (x : Dbg) : (setDbg s u x).cycle = s.cycle := rfl
@[simp] theorem setDbg_mem (u : Nat) (x : Dbg) : (setDbg s u x).mem = s.mem := rfl
@[simp] theorem setDbg_poison (u : Nat) (x : Dbg) : (setDbg s u x).poison = s.poison := rfl
@[simp] theorem setDbg_soft (u : Nat) (x : Dbg) : (setDbg s u x).soft = s.soft := rfl
@[simp] theorem setDbg_ownerWrites (u : Nat) (x : Dbg) : (setDbg s u x).ownerWrites = s.ownerWrites := rfl
@[simp] theorem setDbg_tableError (u : Nat) (x : Dbg) : (setDbg s u x).tableError = s.tableError := rfl
@[simp] theorem setDbg_pcie (u : Nat) (x : Dbg) : (setDbg s u x).pcie = s.pcie := rfl
@[simp] theorem setDbg_power (u : Nat) (x : Dbg) : (setDbg s u x).power = s.power := rfl
@[simp] theorem setDbg_dev (u : Nat) (x : Dbg) : (setDbg s u x).dev = s.dev := rfl
@[simp] theorem setDbg_bootStep (u : Nat) (x : Dbg) : (setDbg s u x).bootStep = s.bootStep := rfl
@[simp] theorem setDbg_booterr (u : Nat) (x : Dbg) : (setDbg s u x).booterr = s.booterr := rfl
@[simp] theorem setDbg_fatal (u : Nat) (x : Dbg) : (setDbg s u x).fatal = s.fatal := rfl
@[simp] theorem setDbg_dstate (u : Nat) (x : Dbg) : (setDbg s u x).dstate = s.dstate := rfl
@[simp] theorem setDbg_present (u : Nat) (x : Dbg) : (setDbg s u x).present = s.present := rfl
@[simp] theorem setDbg_gated (u : Nat) (x : Dbg) : (setDbg s u x).gated = s.gated := rfl
@[simp] theorem setDbg_recaddr (u : Nat) (x : Dbg) : (setDbg s u x).recaddr = s.recaddr := rfl
@[simp] theorem setDbg_reclen (u : Nat) (x : Dbg) : (setDbg s u x).reclen = s.reclen := rfl
@[simp] theorem setDbg_pcap (u : Nat) (x : Dbg) : (setDbg s u x).pcap = s.pcap := rfl
@[simp] theorem setDbg_watts (u : Nat) (x : Dbg) : (setDbg s u x).watts = s.watts := rfl
@[simp] theorem setDbg_junction (u : Nat) (x : Dbg) : (setDbg s u x).junction = s.junction := rfl
@[simp] theorem setDbg_level (u : Nat) (x : Dbg) : (setDbg s u x).level = s.level := rfl
@[simp] theorem setDbg_clearSince (u : Nat) (x : Dbg) : (setDbg s u x).clearSince = s.clearSince := rfl
@[simp] theorem setDbg_gateErr (u : Nat) (x : Dbg) : (setDbg s u x).gateErr = s.gateErr := rfl
@[simp] theorem setDbg_clusters (u : Nat) (x : Dbg) : (setDbg s u x).clusters = s.clusters := rfl
@[simp] theorem setDbg_wave (u : Nat) (x : Dbg) : (setDbg s u x).wave = s.wave := rfl
@[simp] theorem setDbg_capsule (u : Nat) (x : Dbg) : (setDbg s u x).capsule = s.capsule := rfl
@[simp] theorem setDbg_fns (u : Nat) (x : Dbg) : (setDbg s u x).fns = s.fns := rfl
@[simp] theorem setDbg_contexts (u : Nat) (x : Dbg) : (setDbg s u x).contexts = s.contexts := rfl
@[simp] theorem setDbg_queues (u : Nat) (x : Dbg) : (setDbg s u x).queues = s.queues := rfl
@[simp] theorem setDbg_barriers (u : Nat) (x : Dbg) : (setDbg s u x).barriers = s.barriers := rfl
@[simp] theorem setDbg_ccbase (u : Nat) (x : Dbg) : (setDbg s u x).ccbase = s.ccbase := rfl
@[simp] theorem setDbg_ccsize (u : Nat) (x : Dbg) : (setDbg s u x).ccsize = s.ccsize := rfl
@[simp] theorem setDbg_kernels (u : Nat) (x : Dbg) : (setDbg s u x).kernels = s.kernels := rfl
@[simp] theorem setDbg_prbase (u : Nat) (x : Dbg) : (setDbg s u x).prbase = s.prbase := rfl
@[simp] theorem setDbg_prsize (u : Nat) (x : Dbg) : (setDbg s u x).prsize = s.prsize := rfl
@[simp] theorem setDbg_clscfg (u : Nat) (x : Dbg) : (setDbg s u x).clscfg = s.clscfg := rfl
@[simp] theorem setDbg_nextGrp (u : Nat) (x : Dbg) : (setDbg s u x).nextGrp = s.nextGrp := rfl
@[simp] theorem setDbg_startCount (u : Nat) (x : Dbg) : (setDbg s u x).startCount = s.startCount := rfl
@[simp] theorem setDbg_groups (u : Nat) (x : Dbg) : (setDbg s u x).groups = s.groups := rfl
@[simp] theorem setDbg_rpcfg (u : Nat) (x : Dbg) : (setDbg s u x).rpcfg = s.rpcfg := rfl
@[simp] theorem setDbg_rpzero (u : Nat) (x : Dbg) : (setDbg s u x).rpzero = s.rpzero := rfl
@[simp] theorem setDbg_extents (u : Nat) (x : Dbg) : (setDbg s u x).extents = s.extents := rfl
@[simp] theorem setDbg_pkgid (u : Nat) (x : Dbg) : (setDbg s u x).pkgid = s.pkgid := rfl
@[simp] theorem setDbg_rtab (u : Nat) (x : Dbg) : (setDbg s u x).rtab = s.rtab := rfl
@[simp] theorem setDbg_links (u : Nat) (x : Dbg) : (setDbg s u x).links = s.links := rfl
@[simp] theorem setDbg_jobs (u : Nat) (x : Dbg) : (setDbg s u x).jobs = s.jobs := rfl
@[simp] theorem setDbg_reqs (u : Nat) (x : Dbg) : (setDbg s u x).reqs = s.reqs := rfl
@[simp] theorem setDbg_outbox (u : Nat) (x : Dbg) : (setDbg s u x).outbox = s.outbox := rfl
@[simp] theorem setDbg_pairCounts (u : Nat) (x : Dbg) : (setDbg s u x).pairCounts = s.pairCounts := rfl
@[simp] theorem setDbg_nonces (u : Nat) (x : Dbg) : (setDbg s u x).nonces = s.nonces := rfl
@[simp] theorem setDbg_meetings (u : Nat) (x : Dbg) : (setDbg s u x).meetings = s.meetings := rfl
@[simp] theorem setDbg_collCounts (u : Nat) (x : Dbg) : (setDbg s u x).collCounts = s.collCounts := rfl
@[simp] theorem setDbg_hcircs (u : Nat) (x : Dbg) : (setDbg s u x).hcircs = s.hcircs := rfl
@[simp] theorem setDbg_earlyArms (u : Nat) (x : Dbg) : (setDbg s u x).earlyArms = s.earlyArms := rfl
@[simp] theorem setDbg_dbgs (u : Nat) (x : Dbg) : (setDbg s u x).dbgs = Tab.set s.dbgs u x := rfl
@[simp] theorem setDbg_einjoff (u : Nat) (x : Dbg) : (setDbg s u x).einjoff = s.einjoff := rfl
@[simp] theorem setDbg_einjerr (u : Nat) (x : Dbg) : (setDbg s u x).einjerr = s.einjerr := rfl
@[simp] theorem setDbg_einjcount (u : Nat) (x : Dbg) : (setDbg s u x).einjcount = s.einjcount := rfl
@[simp] theorem setDbg_mctpReply (u : Nat) (x : Dbg) : (setDbg s u x).mctpReply = s.mctpReply := rfl
@[simp] theorem setDbg_timeJoined (u : Nat) (x : Dbg) : (setDbg s u x).timeJoined = s.timeJoined := rfl
@[simp] theorem setDbg_d3Pending (u : Nat) (x : Dbg) : (setDbg s u x).d3Pending = s.d3Pending := rfl

/-! ## wrBytes -/

@[simp] theorem wrBytes_agenda (k : Nat) (l : List Byte) : (wrBytes s k l).agenda = s.agenda := rfl
@[simp] theorem wrBytes_site (k : Nat) (l : List Byte) : (wrBytes s k l).site = s.site := rfl
@[simp] theorem wrBytes_part (k : Nat) (l : List Byte) : (wrBytes s k l).part = s.part := rfl
@[simp] theorem wrBytes_fresh (k : Nat) (l : List Byte) : (wrBytes s k l).fresh = s.fresh := rfl
@[simp] theorem wrBytes_dtime (k : Nat) (l : List Byte) : (wrBytes s k l).dtime = s.dtime := rfl
@[simp] theorem wrBytes_cycle (k : Nat) (l : List Byte) : (wrBytes s k l).cycle = s.cycle := rfl
@[simp] theorem wrBytes_mem (k : Nat) (l : List Byte) : (wrBytes s k l).mem = cellsWrite s.mem k l := rfl
@[simp] theorem wrBytes_ownerWrites (k : Nat) (l : List Byte) : (wrBytes s k l).ownerWrites = s.ownerWrites := rfl
@[simp] theorem wrBytes_tableError (k : Nat) (l : List Byte) : (wrBytes s k l).tableError = s.tableError := rfl
@[simp] theorem wrBytes_pcie (k : Nat) (l : List Byte) : (wrBytes s k l).pcie = s.pcie := rfl
@[simp] theorem wrBytes_power (k : Nat) (l : List Byte) : (wrBytes s k l).power = s.power := rfl
@[simp] theorem wrBytes_dev (k : Nat) (l : List Byte) : (wrBytes s k l).dev = s.dev := rfl
@[simp] theorem wrBytes_bootStep (k : Nat) (l : List Byte) : (wrBytes s k l).bootStep = s.bootStep := rfl
@[simp] theorem wrBytes_booterr (k : Nat) (l : List Byte) : (wrBytes s k l).booterr = s.booterr := rfl
@[simp] theorem wrBytes_fatal (k : Nat) (l : List Byte) : (wrBytes s k l).fatal = s.fatal := rfl
@[simp] theorem wrBytes_dstate (k : Nat) (l : List Byte) : (wrBytes s k l).dstate = s.dstate := rfl
@[simp] theorem wrBytes_present (k : Nat) (l : List Byte) : (wrBytes s k l).present = s.present := rfl
@[simp] theorem wrBytes_gated (k : Nat) (l : List Byte) : (wrBytes s k l).gated = s.gated := rfl
@[simp] theorem wrBytes_recaddr (k : Nat) (l : List Byte) : (wrBytes s k l).recaddr = s.recaddr := rfl
@[simp] theorem wrBytes_reclen (k : Nat) (l : List Byte) : (wrBytes s k l).reclen = s.reclen := rfl
@[simp] theorem wrBytes_pcap (k : Nat) (l : List Byte) : (wrBytes s k l).pcap = s.pcap := rfl
@[simp] theorem wrBytes_watts (k : Nat) (l : List Byte) : (wrBytes s k l).watts = s.watts := rfl
@[simp] theorem wrBytes_junction (k : Nat) (l : List Byte) : (wrBytes s k l).junction = s.junction := rfl
@[simp] theorem wrBytes_level (k : Nat) (l : List Byte) : (wrBytes s k l).level = s.level := rfl
@[simp] theorem wrBytes_clearSince (k : Nat) (l : List Byte) : (wrBytes s k l).clearSince = s.clearSince := rfl
@[simp] theorem wrBytes_gateErr (k : Nat) (l : List Byte) : (wrBytes s k l).gateErr = s.gateErr := rfl
@[simp] theorem wrBytes_clusters (k : Nat) (l : List Byte) : (wrBytes s k l).clusters = s.clusters := rfl
@[simp] theorem wrBytes_wave (k : Nat) (l : List Byte) : (wrBytes s k l).wave = s.wave := rfl
@[simp] theorem wrBytes_capsule (k : Nat) (l : List Byte) : (wrBytes s k l).capsule = s.capsule := rfl
@[simp] theorem wrBytes_fns (k : Nat) (l : List Byte) : (wrBytes s k l).fns = s.fns := rfl
@[simp] theorem wrBytes_contexts (k : Nat) (l : List Byte) : (wrBytes s k l).contexts = s.contexts := rfl
@[simp] theorem wrBytes_queues (k : Nat) (l : List Byte) : (wrBytes s k l).queues = s.queues := rfl
@[simp] theorem wrBytes_barriers (k : Nat) (l : List Byte) : (wrBytes s k l).barriers = s.barriers := rfl
@[simp] theorem wrBytes_ccbase (k : Nat) (l : List Byte) : (wrBytes s k l).ccbase = s.ccbase := rfl
@[simp] theorem wrBytes_ccsize (k : Nat) (l : List Byte) : (wrBytes s k l).ccsize = s.ccsize := rfl
@[simp] theorem wrBytes_kernels (k : Nat) (l : List Byte) : (wrBytes s k l).kernels = s.kernels := rfl
@[simp] theorem wrBytes_prbase (k : Nat) (l : List Byte) : (wrBytes s k l).prbase = s.prbase := rfl
@[simp] theorem wrBytes_prsize (k : Nat) (l : List Byte) : (wrBytes s k l).prsize = s.prsize := rfl
@[simp] theorem wrBytes_clscfg (k : Nat) (l : List Byte) : (wrBytes s k l).clscfg = s.clscfg := rfl
@[simp] theorem wrBytes_nextGrp (k : Nat) (l : List Byte) : (wrBytes s k l).nextGrp = s.nextGrp := rfl
@[simp] theorem wrBytes_startCount (k : Nat) (l : List Byte) : (wrBytes s k l).startCount = s.startCount := rfl
@[simp] theorem wrBytes_groups (k : Nat) (l : List Byte) : (wrBytes s k l).groups = s.groups := rfl
@[simp] theorem wrBytes_rpcfg (k : Nat) (l : List Byte) : (wrBytes s k l).rpcfg = s.rpcfg := rfl
@[simp] theorem wrBytes_rpzero (k : Nat) (l : List Byte) : (wrBytes s k l).rpzero = s.rpzero := rfl
@[simp] theorem wrBytes_extents (k : Nat) (l : List Byte) : (wrBytes s k l).extents = s.extents := rfl
@[simp] theorem wrBytes_pkgid (k : Nat) (l : List Byte) : (wrBytes s k l).pkgid = s.pkgid := rfl
@[simp] theorem wrBytes_rtab (k : Nat) (l : List Byte) : (wrBytes s k l).rtab = s.rtab := rfl
@[simp] theorem wrBytes_links (k : Nat) (l : List Byte) : (wrBytes s k l).links = s.links := rfl
@[simp] theorem wrBytes_jobs (k : Nat) (l : List Byte) : (wrBytes s k l).jobs = s.jobs := rfl
@[simp] theorem wrBytes_reqs (k : Nat) (l : List Byte) : (wrBytes s k l).reqs = s.reqs := rfl
@[simp] theorem wrBytes_outbox (k : Nat) (l : List Byte) : (wrBytes s k l).outbox = s.outbox := rfl
@[simp] theorem wrBytes_pairCounts (k : Nat) (l : List Byte) : (wrBytes s k l).pairCounts = s.pairCounts := rfl
@[simp] theorem wrBytes_nonces (k : Nat) (l : List Byte) : (wrBytes s k l).nonces = s.nonces := rfl
@[simp] theorem wrBytes_meetings (k : Nat) (l : List Byte) : (wrBytes s k l).meetings = s.meetings := rfl
@[simp] theorem wrBytes_collCounts (k : Nat) (l : List Byte) : (wrBytes s k l).collCounts = s.collCounts := rfl
@[simp] theorem wrBytes_hcircs (k : Nat) (l : List Byte) : (wrBytes s k l).hcircs = s.hcircs := rfl
@[simp] theorem wrBytes_earlyArms (k : Nat) (l : List Byte) : (wrBytes s k l).earlyArms = s.earlyArms := rfl
@[simp] theorem wrBytes_dbgs (k : Nat) (l : List Byte) : (wrBytes s k l).dbgs = s.dbgs := rfl
@[simp] theorem wrBytes_einjoff (k : Nat) (l : List Byte) : (wrBytes s k l).einjoff = s.einjoff := rfl
@[simp] theorem wrBytes_einjerr (k : Nat) (l : List Byte) : (wrBytes s k l).einjerr = s.einjerr := rfl
@[simp] theorem wrBytes_einjcount (k : Nat) (l : List Byte) : (wrBytes s k l).einjcount = s.einjcount := rfl
@[simp] theorem wrBytes_mctpReply (k : Nat) (l : List Byte) : (wrBytes s k l).mctpReply = s.mctpReply := rfl
@[simp] theorem wrBytes_timeJoined (k : Nat) (l : List Byte) : (wrBytes s k l).timeJoined = s.timeJoined := rfl
@[simp] theorem wrBytes_d3Pending (k : Nat) (l : List Byte) : (wrBytes s k l).d3Pending = s.d3Pending := rfl

/-! ## putBytes -/

@[simp] theorem putBytes_agenda (l : List (Nat × Byte)) : (putBytes s l).agenda = s.agenda := rfl
@[simp] theorem putBytes_site (l : List (Nat × Byte)) : (putBytes s l).site = s.site := rfl
@[simp] theorem putBytes_part (l : List (Nat × Byte)) : (putBytes s l).part = s.part := rfl
@[simp] theorem putBytes_fresh (l : List (Nat × Byte)) : (putBytes s l).fresh = s.fresh := rfl
@[simp] theorem putBytes_dtime (l : List (Nat × Byte)) : (putBytes s l).dtime = s.dtime := rfl
@[simp] theorem putBytes_cycle (l : List (Nat × Byte)) : (putBytes s l).cycle = s.cycle := rfl
@[simp] theorem putBytes_mem (l : List (Nat × Byte)) : (putBytes s l).mem = cellsPut s.mem l := rfl
@[simp] theorem putBytes_ownerWrites (l : List (Nat × Byte)) : (putBytes s l).ownerWrites = s.ownerWrites := rfl
@[simp] theorem putBytes_tableError (l : List (Nat × Byte)) : (putBytes s l).tableError = s.tableError := rfl
@[simp] theorem putBytes_pcie (l : List (Nat × Byte)) : (putBytes s l).pcie = s.pcie := rfl
@[simp] theorem putBytes_power (l : List (Nat × Byte)) : (putBytes s l).power = s.power := rfl
@[simp] theorem putBytes_dev (l : List (Nat × Byte)) : (putBytes s l).dev = s.dev := rfl
@[simp] theorem putBytes_bootStep (l : List (Nat × Byte)) : (putBytes s l).bootStep = s.bootStep := rfl
@[simp] theorem putBytes_booterr (l : List (Nat × Byte)) : (putBytes s l).booterr = s.booterr := rfl
@[simp] theorem putBytes_fatal (l : List (Nat × Byte)) : (putBytes s l).fatal = s.fatal := rfl
@[simp] theorem putBytes_dstate (l : List (Nat × Byte)) : (putBytes s l).dstate = s.dstate := rfl
@[simp] theorem putBytes_present (l : List (Nat × Byte)) : (putBytes s l).present = s.present := rfl
@[simp] theorem putBytes_gated (l : List (Nat × Byte)) : (putBytes s l).gated = s.gated := rfl
@[simp] theorem putBytes_recaddr (l : List (Nat × Byte)) : (putBytes s l).recaddr = s.recaddr := rfl
@[simp] theorem putBytes_reclen (l : List (Nat × Byte)) : (putBytes s l).reclen = s.reclen := rfl
@[simp] theorem putBytes_pcap (l : List (Nat × Byte)) : (putBytes s l).pcap = s.pcap := rfl
@[simp] theorem putBytes_watts (l : List (Nat × Byte)) : (putBytes s l).watts = s.watts := rfl
@[simp] theorem putBytes_junction (l : List (Nat × Byte)) : (putBytes s l).junction = s.junction := rfl
@[simp] theorem putBytes_level (l : List (Nat × Byte)) : (putBytes s l).level = s.level := rfl
@[simp] theorem putBytes_clearSince (l : List (Nat × Byte)) : (putBytes s l).clearSince = s.clearSince := rfl
@[simp] theorem putBytes_gateErr (l : List (Nat × Byte)) : (putBytes s l).gateErr = s.gateErr := rfl
@[simp] theorem putBytes_clusters (l : List (Nat × Byte)) : (putBytes s l).clusters = s.clusters := rfl
@[simp] theorem putBytes_wave (l : List (Nat × Byte)) : (putBytes s l).wave = s.wave := rfl
@[simp] theorem putBytes_capsule (l : List (Nat × Byte)) : (putBytes s l).capsule = s.capsule := rfl
@[simp] theorem putBytes_fns (l : List (Nat × Byte)) : (putBytes s l).fns = s.fns := rfl
@[simp] theorem putBytes_contexts (l : List (Nat × Byte)) : (putBytes s l).contexts = s.contexts := rfl
@[simp] theorem putBytes_queues (l : List (Nat × Byte)) : (putBytes s l).queues = s.queues := rfl
@[simp] theorem putBytes_barriers (l : List (Nat × Byte)) : (putBytes s l).barriers = s.barriers := rfl
@[simp] theorem putBytes_ccbase (l : List (Nat × Byte)) : (putBytes s l).ccbase = s.ccbase := rfl
@[simp] theorem putBytes_ccsize (l : List (Nat × Byte)) : (putBytes s l).ccsize = s.ccsize := rfl
@[simp] theorem putBytes_kernels (l : List (Nat × Byte)) : (putBytes s l).kernels = s.kernels := rfl
@[simp] theorem putBytes_prbase (l : List (Nat × Byte)) : (putBytes s l).prbase = s.prbase := rfl
@[simp] theorem putBytes_prsize (l : List (Nat × Byte)) : (putBytes s l).prsize = s.prsize := rfl
@[simp] theorem putBytes_clscfg (l : List (Nat × Byte)) : (putBytes s l).clscfg = s.clscfg := rfl
@[simp] theorem putBytes_nextGrp (l : List (Nat × Byte)) : (putBytes s l).nextGrp = s.nextGrp := rfl
@[simp] theorem putBytes_startCount (l : List (Nat × Byte)) : (putBytes s l).startCount = s.startCount := rfl
@[simp] theorem putBytes_groups (l : List (Nat × Byte)) : (putBytes s l).groups = s.groups := rfl
@[simp] theorem putBytes_rpcfg (l : List (Nat × Byte)) : (putBytes s l).rpcfg = s.rpcfg := rfl
@[simp] theorem putBytes_rpzero (l : List (Nat × Byte)) : (putBytes s l).rpzero = s.rpzero := rfl
@[simp] theorem putBytes_extents (l : List (Nat × Byte)) : (putBytes s l).extents = s.extents := rfl
@[simp] theorem putBytes_pkgid (l : List (Nat × Byte)) : (putBytes s l).pkgid = s.pkgid := rfl
@[simp] theorem putBytes_rtab (l : List (Nat × Byte)) : (putBytes s l).rtab = s.rtab := rfl
@[simp] theorem putBytes_links (l : List (Nat × Byte)) : (putBytes s l).links = s.links := rfl
@[simp] theorem putBytes_jobs (l : List (Nat × Byte)) : (putBytes s l).jobs = s.jobs := rfl
@[simp] theorem putBytes_reqs (l : List (Nat × Byte)) : (putBytes s l).reqs = s.reqs := rfl
@[simp] theorem putBytes_outbox (l : List (Nat × Byte)) : (putBytes s l).outbox = s.outbox := rfl
@[simp] theorem putBytes_pairCounts (l : List (Nat × Byte)) : (putBytes s l).pairCounts = s.pairCounts := rfl
@[simp] theorem putBytes_nonces (l : List (Nat × Byte)) : (putBytes s l).nonces = s.nonces := rfl
@[simp] theorem putBytes_meetings (l : List (Nat × Byte)) : (putBytes s l).meetings = s.meetings := rfl
@[simp] theorem putBytes_collCounts (l : List (Nat × Byte)) : (putBytes s l).collCounts = s.collCounts := rfl
@[simp] theorem putBytes_hcircs (l : List (Nat × Byte)) : (putBytes s l).hcircs = s.hcircs := rfl
@[simp] theorem putBytes_earlyArms (l : List (Nat × Byte)) : (putBytes s l).earlyArms = s.earlyArms := rfl
@[simp] theorem putBytes_dbgs (l : List (Nat × Byte)) : (putBytes s l).dbgs = s.dbgs := rfl
@[simp] theorem putBytes_einjoff (l : List (Nat × Byte)) : (putBytes s l).einjoff = s.einjoff := rfl
@[simp] theorem putBytes_einjerr (l : List (Nat × Byte)) : (putBytes s l).einjerr = s.einjerr := rfl
@[simp] theorem putBytes_einjcount (l : List (Nat × Byte)) : (putBytes s l).einjcount = s.einjcount := rfl
@[simp] theorem putBytes_mctpReply (l : List (Nat × Byte)) : (putBytes s l).mctpReply = s.mctpReply := rfl
@[simp] theorem putBytes_timeJoined (l : List (Nat × Byte)) : (putBytes s l).timeJoined = s.timeJoined := rfl
@[simp] theorem putBytes_d3Pending (l : List (Nat × Byte)) : (putBytes s l).d3Pending = s.d3Pending := rfl

/-! ## zeroRange -/

@[simp] theorem zeroRange_agenda (k n : Nat) : (zeroRange s k n).agenda = s.agenda := rfl
@[simp] theorem zeroRange_site (k n : Nat) : (zeroRange s k n).site = s.site := rfl
@[simp] theorem zeroRange_part (k n : Nat) : (zeroRange s k n).part = s.part := rfl
@[simp] theorem zeroRange_fresh (k n : Nat) : (zeroRange s k n).fresh = s.fresh := rfl
@[simp] theorem zeroRange_dtime (k n : Nat) : (zeroRange s k n).dtime = s.dtime := rfl
@[simp] theorem zeroRange_cycle (k n : Nat) : (zeroRange s k n).cycle = s.cycle := rfl
@[simp] theorem zeroRange_mem (k n : Nat) : (zeroRange s k n).mem = cellsZero s.mem k n := rfl
@[simp] theorem zeroRange_ownerWrites (k n : Nat) : (zeroRange s k n).ownerWrites = s.ownerWrites := rfl
@[simp] theorem zeroRange_tableError (k n : Nat) : (zeroRange s k n).tableError = s.tableError := rfl
@[simp] theorem zeroRange_pcie (k n : Nat) : (zeroRange s k n).pcie = s.pcie := rfl
@[simp] theorem zeroRange_power (k n : Nat) : (zeroRange s k n).power = s.power := rfl
@[simp] theorem zeroRange_dev (k n : Nat) : (zeroRange s k n).dev = s.dev := rfl
@[simp] theorem zeroRange_bootStep (k n : Nat) : (zeroRange s k n).bootStep = s.bootStep := rfl
@[simp] theorem zeroRange_booterr (k n : Nat) : (zeroRange s k n).booterr = s.booterr := rfl
@[simp] theorem zeroRange_fatal (k n : Nat) : (zeroRange s k n).fatal = s.fatal := rfl
@[simp] theorem zeroRange_dstate (k n : Nat) : (zeroRange s k n).dstate = s.dstate := rfl
@[simp] theorem zeroRange_present (k n : Nat) : (zeroRange s k n).present = s.present := rfl
@[simp] theorem zeroRange_gated (k n : Nat) : (zeroRange s k n).gated = s.gated := rfl
@[simp] theorem zeroRange_recaddr (k n : Nat) : (zeroRange s k n).recaddr = s.recaddr := rfl
@[simp] theorem zeroRange_reclen (k n : Nat) : (zeroRange s k n).reclen = s.reclen := rfl
@[simp] theorem zeroRange_pcap (k n : Nat) : (zeroRange s k n).pcap = s.pcap := rfl
@[simp] theorem zeroRange_watts (k n : Nat) : (zeroRange s k n).watts = s.watts := rfl
@[simp] theorem zeroRange_junction (k n : Nat) : (zeroRange s k n).junction = s.junction := rfl
@[simp] theorem zeroRange_level (k n : Nat) : (zeroRange s k n).level = s.level := rfl
@[simp] theorem zeroRange_clearSince (k n : Nat) : (zeroRange s k n).clearSince = s.clearSince := rfl
@[simp] theorem zeroRange_gateErr (k n : Nat) : (zeroRange s k n).gateErr = s.gateErr := rfl
@[simp] theorem zeroRange_clusters (k n : Nat) : (zeroRange s k n).clusters = s.clusters := rfl
@[simp] theorem zeroRange_wave (k n : Nat) : (zeroRange s k n).wave = s.wave := rfl
@[simp] theorem zeroRange_capsule (k n : Nat) : (zeroRange s k n).capsule = s.capsule := rfl
@[simp] theorem zeroRange_fns (k n : Nat) : (zeroRange s k n).fns = s.fns := rfl
@[simp] theorem zeroRange_contexts (k n : Nat) : (zeroRange s k n).contexts = s.contexts := rfl
@[simp] theorem zeroRange_queues (k n : Nat) : (zeroRange s k n).queues = s.queues := rfl
@[simp] theorem zeroRange_barriers (k n : Nat) : (zeroRange s k n).barriers = s.barriers := rfl
@[simp] theorem zeroRange_ccbase (k n : Nat) : (zeroRange s k n).ccbase = s.ccbase := rfl
@[simp] theorem zeroRange_ccsize (k n : Nat) : (zeroRange s k n).ccsize = s.ccsize := rfl
@[simp] theorem zeroRange_kernels (k n : Nat) : (zeroRange s k n).kernels = s.kernels := rfl
@[simp] theorem zeroRange_prbase (k n : Nat) : (zeroRange s k n).prbase = s.prbase := rfl
@[simp] theorem zeroRange_prsize (k n : Nat) : (zeroRange s k n).prsize = s.prsize := rfl
@[simp] theorem zeroRange_clscfg (k n : Nat) : (zeroRange s k n).clscfg = s.clscfg := rfl
@[simp] theorem zeroRange_nextGrp (k n : Nat) : (zeroRange s k n).nextGrp = s.nextGrp := rfl
@[simp] theorem zeroRange_startCount (k n : Nat) : (zeroRange s k n).startCount = s.startCount := rfl
@[simp] theorem zeroRange_groups (k n : Nat) : (zeroRange s k n).groups = s.groups := rfl
@[simp] theorem zeroRange_rpcfg (k n : Nat) : (zeroRange s k n).rpcfg = s.rpcfg := rfl
@[simp] theorem zeroRange_rpzero (k n : Nat) : (zeroRange s k n).rpzero = s.rpzero := rfl
@[simp] theorem zeroRange_extents (k n : Nat) : (zeroRange s k n).extents = s.extents := rfl
@[simp] theorem zeroRange_pkgid (k n : Nat) : (zeroRange s k n).pkgid = s.pkgid := rfl
@[simp] theorem zeroRange_rtab (k n : Nat) : (zeroRange s k n).rtab = s.rtab := rfl
@[simp] theorem zeroRange_links (k n : Nat) : (zeroRange s k n).links = s.links := rfl
@[simp] theorem zeroRange_jobs (k n : Nat) : (zeroRange s k n).jobs = s.jobs := rfl
@[simp] theorem zeroRange_reqs (k n : Nat) : (zeroRange s k n).reqs = s.reqs := rfl
@[simp] theorem zeroRange_outbox (k n : Nat) : (zeroRange s k n).outbox = s.outbox := rfl
@[simp] theorem zeroRange_pairCounts (k n : Nat) : (zeroRange s k n).pairCounts = s.pairCounts := rfl
@[simp] theorem zeroRange_nonces (k n : Nat) : (zeroRange s k n).nonces = s.nonces := rfl
@[simp] theorem zeroRange_meetings (k n : Nat) : (zeroRange s k n).meetings = s.meetings := rfl
@[simp] theorem zeroRange_collCounts (k n : Nat) : (zeroRange s k n).collCounts = s.collCounts := rfl
@[simp] theorem zeroRange_hcircs (k n : Nat) : (zeroRange s k n).hcircs = s.hcircs := rfl
@[simp] theorem zeroRange_earlyArms (k n : Nat) : (zeroRange s k n).earlyArms = s.earlyArms := rfl
@[simp] theorem zeroRange_dbgs (k n : Nat) : (zeroRange s k n).dbgs = s.dbgs := rfl
@[simp] theorem zeroRange_einjoff (k n : Nat) : (zeroRange s k n).einjoff = s.einjoff := rfl
@[simp] theorem zeroRange_einjerr (k n : Nat) : (zeroRange s k n).einjerr = s.einjerr := rfl
@[simp] theorem zeroRange_einjcount (k n : Nat) : (zeroRange s k n).einjcount = s.einjcount := rfl
@[simp] theorem zeroRange_mctpReply (k n : Nat) : (zeroRange s k n).mctpReply = s.mctpReply := rfl
@[simp] theorem zeroRange_timeJoined (k n : Nat) : (zeroRange s k n).timeJoined = s.timeJoined := rfl
@[simp] theorem zeroRange_d3Pending (k n : Nat) : (zeroRange s k n).d3Pending = s.d3Pending := rfl

end Sys2Proof.Laws
end

