-- ==== Sys2Proof/Laws/Memory.lean ====
section
/-! SUPPORT. Storage: what a read after a write gives, and that every operation on storage keeps its canonical form (keys strictly rising, no byte listed that an unlisted one reads as). -/

namespace Sys2Proof.Laws

open Sys2Proof.Machine

/-- Every key listed is at least k. -/
def Above (k : Nat) (m : List Host.Cell) : Prop := ∀ c ∈ m, k ≤ c.1

theorem wf_cons (j : Nat) (b : Byte) (r : List Host.Cell) : Memory.wf ((j, b) :: r) = true ↔ b ≠ 0 ∧ Above (j + 1) r ∧ Memory.wf r = true := by
  induction r generalizing j b with
  | nil => simp [Memory.wf, Above]
  | cons p q ih =>
    obtain ⟨k, c⟩ := p
    have := ih k c
    simp only [Memory.wf, Bool.and_eq_true, decide_eq_true_eq, bne_iff_ne, Above, List.mem_cons] at this ⊢
    constructor
    · rintro ⟨⟨h1, h2⟩, h3⟩
      refine ⟨h2, ?_, h3⟩
      rintro x (rfl | hx)
      · exact h1
      · have := (this.1 h3).2.1 x hx; omega
    · rintro ⟨h2, h1, h3⟩
      exact ⟨⟨h1 (k, c) (Or.inl rfl), h2⟩, h3⟩

theorem above_cellWrite {k i : Nat} {m : List Host.Cell} (b : Byte) (h : Above k m) (hi : k ≤ i) : Above k (cellWrite m i b) := by
  induction m with
  | nil => unfold cellWrite; split <;> simp [Above, hi]
  | cons p r ih =>
    obtain ⟨j, c⟩ := p
    have hr : Above k r := fun x hx => h x (List.mem_cons_of_mem _ hx)
    have hj : k ≤ j := h (j, c) (List.mem_cons_self ..)
    unfold cellWrite
    split
    · split
      · exact h
      · intro x hx; rcases List.mem_cons.1 hx with rfl | hx
        · exact hi
        · exact h x hx
    · split
      · split
        · exact hr
        · intro x hx; rcases List.mem_cons.1 hx with rfl | hx
          · exact hi
          · exact hr x hx
      · intro x hx; rcases List.mem_cons.1 hx with rfl | hx
        · exact hj
        · exact ih hr x hx

/-- A write keeps the canonical form. -/
theorem wf_cellWrite {m : List Host.Cell} (k : Nat) (b : Byte) (h : Memory.wf m = true) : Memory.wf (cellWrite m k b) = true := by
  induction m with
  | nil =>
    unfold cellWrite; split
    · rfl
    · simpa [Memory.wf] using ‹_›
  | cons p r ih =>
    obtain ⟨j, c⟩ := p
    obtain ⟨hc, ha, hr⟩ := (wf_cons ..).1 h
    unfold cellWrite
    split
    · split
      · exact h
      · refine (wf_cons ..).2 ⟨‹_›, ?_, h⟩
        intro x hx; rcases List.mem_cons.1 hx with rfl | hx
        · show k + 1 ≤ j; omega
        · have := ha x hx; omega
    · split
      · split
        · exact hr
        · subst_vars; exact (wf_cons ..).2 ⟨‹_›, ha, hr⟩
      · exact (wf_cons ..).2 ⟨hc, above_cellWrite b ha (by omega), ih hr⟩

theorem wf_cellsWrite {m : List Host.Cell} (k : Nat) (l : List Byte) (h : Memory.wf m = true) : Memory.wf (cellsWrite m k l) = true := by
  induction l generalizing m k with
  | nil => exact h
  | cons b r ih => exact ih (k + 1) (wf_cellWrite k b h)

theorem wf_cellsPut {m : List Host.Cell} (l : List (Nat × Byte)) (h : Memory.wf m = true) : Memory.wf (cellsPut m l) = true := by
  induction l generalizing m with
  | nil => exact h
  | cons p r ih => obtain ⟨k, b⟩ := p; exact ih (wf_cellWrite k b h)

/-- Leaving out cells keeps the canonical form. -/
theorem wf_filter {m : List Host.Cell} (f : Host.Cell → Bool) (h : Memory.wf m = true) : Memory.wf (m.filter f) = true := by
  induction m with
  | nil => rfl
  | cons p r ih =>
    obtain ⟨j, c⟩ := p
    obtain ⟨hc, ha, hr⟩ := (wf_cons ..).1 h
    rw [List.filter_cons]
    split
    · exact (wf_cons ..).2 ⟨hc, fun x hx => ha x (List.mem_filter.1 hx).1, ih hr⟩
    · exact ih hr

theorem wf_cellsZero {m : List Host.Cell} (k n : Nat) (h : Memory.wf m = true) : Memory.wf (cellsZero m k n) = true := wf_filter _ h

theorem wf_wrBytes {s : State} (k : Nat) (l : List Byte) (h : Memory.wf s.mem = true) : Memory.wf (wrBytes s k l).mem = true := wf_cellsWrite k l h
theorem wf_wrNum {s : State} (k n x : Nat) (h : Memory.wf s.mem = true) : Memory.wf (wrNum s k n x).mem = true := wf_cellsWrite k _ h
theorem wf_putBytes {s : State} (l : List (Nat × Byte)) (h : Memory.wf s.mem = true) : Memory.wf (putBytes s l).mem = true := wf_cellsPut l h
theorem wf_zeroRange {s : State} (k n : Nat) (h : Memory.wf s.mem = true) : Memory.wf (zeroRange s k n).mem = true := wf_cellsZero k n h

theorem cellRead_above {k : Nat} {m : List Host.Cell} (h : Above (k + 1) m) : cellRead m k = 0 := by
  cases m with
  | nil => rfl
  | cons p r =>
    obtain ⟨j, c⟩ := p
    have : k + 1 ≤ j := h (j, c) (List.mem_cons_self ..)
    unfold cellRead
    rw [if_neg (by omega), if_pos (by omega)]

/-- A byte reads as it was written. -/
theorem cellRead_cellWrite_self {m : List Host.Cell} (k : Nat) (b : Byte) (h : Memory.wf m = true) : cellRead (cellWrite m k b) k = b := by
  induction m with
  | nil => unfold cellWrite; split <;> simp [cellRead, *]
  | cons p r ih =>
    obtain ⟨j, c⟩ := p
    obtain ⟨hc, ha, hr⟩ := (wf_cons ..).1 h
    unfold cellWrite
    split
    · split
      · unfold cellRead; rw [if_neg (by omega), if_pos (by omega)]; exact Eq.symm ‹_›
      · simp [cellRead]
    · split
      · split
        · subst_vars; exact cellRead_above ha
        · simp [cellRead]
      · unfold cellRead
        rw [if_neg (by omega), if_neg (by omega)]; exact ih hr

/-- A write leaves every other byte as it was. -/
theorem cellRead_cellWrite_ne {m : List Host.Cell} {k i : Nat} (b : Byte) (h : Memory.wf m = true) (hi : i ≠ k) : cellRead (cellWrite m k b) i = cellRead m i := by
  induction m with
  | nil =>
    unfold cellWrite; split
    · rfl
    · simp [cellRead, Ne.symm hi]
  | cons p r ih =>
    obtain ⟨j, c⟩ := p
    obtain ⟨hc, ha, hr⟩ := (wf_cons ..).1 h
    unfold cellWrite
    split
    · split
      · rfl
      · rw [cellRead, if_neg (Ne.symm hi)]
        split
        · unfold cellRead; rw [if_neg (by omega), if_pos (by omega)]
        · rfl
    · split
      · subst_vars
        split
        · conv => rhs; unfold cellRead
          rw [if_neg (Ne.symm hi)]
          split
          · exact cellRead_above fun x hx => by have := ha x hx; omega
          · rfl
        · simp [cellRead, Ne.symm hi]
      · simp only [cellRead, ih hr]

theorem cellRead_cellsWrite_out {m : List Host.Cell} (k : Nat) (l : List Byte) (h : Memory.wf m = true) {i : Nat} (hi : i < k ∨ k + l.length ≤ i) :
    cellRead (cellsWrite m k l) i = cellRead m i := by
  induction l generalizing m k with
  | nil => rfl
  | cons b r ih =>
    simp only [List.length_cons] at hi
    rw [cellsWrite, ih (k + 1) (wf_cellWrite k b h) (by omega), cellRead_cellWrite_ne b h (by omega)]

/-- The i-th of the bytes written reads back at its key. -/
theorem cellRead_cellsWrite_in {m : List Host.Cell} (k : Nat) (l : List Byte) (h : Memory.wf m = true) {i : Nat} (hi : i < l.length) :
    cellRead (cellsWrite m k l) (k + i) = l[i] := by
  induction l generalizing m k i with
  | nil => cases hi
  | cons b r ih =>
    rw [cellsWrite]
    cases i with
    | zero => rw [cellRead_cellsWrite_out (k + 1) r (wf_cellWrite k b h) (by omega)]; simpa using cellRead_cellWrite_self k b h
    | succ i =>
      have := ih (k + 1) (wf_cellWrite k b h) (i := i) (by simpa using hi)
      simpa [Nat.add_assoc, Nat.add_comm 1 i] using this

/-- Bytes at consecutive keys are written as a run. -/
theorem cellsPut_keyed (m : List Host.Cell) (k : Nat) (l : List Byte) : cellsPut m (keyed k l) = cellsWrite m k l := by
  induction l generalizing m k with
  | nil => rfl
  | cons b r ih => simp [keyed, cellsPut, cellsWrite, ih]

theorem cellsPut_append (m : List Host.Cell) (l l' : List (Nat × Byte)) : cellsPut m (l ++ l') = cellsPut (cellsPut m l) l' := by
  induction l generalizing m with
  | nil => rfl
  | cons p r ih => obtain ⟨k, b⟩ := p; simp [cellsPut, ih]

theorem cellRead_cellsPut_out {m : List Host.Cell} (l : List (Nat × Byte)) (h : Memory.wf m = true) {i : Nat} (hi : ∀ c ∈ l, c.1 ≠ i) :
    cellRead (cellsPut m l) i = cellRead m i := by
  induction l generalizing m with
  | nil => rfl
  | cons p r ih =>
    obtain ⟨k, b⟩ := p
    rw [cellsPut, ih (wf_cellWrite k b h) fun c hc => hi c (List.mem_cons_of_mem _ hc),
      cellRead_cellWrite_ne b h (Ne.symm (hi (k, b) (List.mem_cons_self ..)))]

/-- Zeroed bytes read zero and the others as before. -/
theorem cellRead_cellsZero {m : List Host.Cell} (k n i : Nat) (h : Memory.wf m = true) :
    cellRead (cellsZero m k n) i = if k ≤ i ∧ i < k + n then 0 else cellRead m i := by
  unfold cellsZero
  induction m with
  | nil => simp [cellRead]
  | cons p r ih =>
    obtain ⟨j, c⟩ := p
    obtain ⟨hc, ha, hr⟩ := (wf_cons ..).1 h
    rw [List.filter_cons]
    split
    · rename_i hk
      simp only [Bool.or_eq_true, decide_eq_true_eq] at hk
      simp only [cellRead, ih hr]
      split
      · subst_vars; rw [if_neg (by omega)]
      · split <;> simp
    · rename_i hk
      simp only [Bool.or_eq_true, decide_eq_true_eq, not_or, not_lt, not_le] at hk
      rw [ih hr]
      split
      · rfl
      · conv => rhs; unfold cellRead
        rw [if_neg (by omega)]
        split
        · exact cellRead_above fun x hx => by have := ha x hx; omega
        · rfl

/-- Two canonical memories that read alike everywhere are the same data. -/
theorem memory_ext {m n : List Host.Cell} (hm : Memory.wf m = true) (hn : Memory.wf n = true) (h : ∀ k, cellRead m k = cellRead n k) : m = n := by
  induction m generalizing n with
  | nil =>
    cases n with
    | nil => rfl
    | cons p r =>
      obtain ⟨j, c⟩ := p
      have := h j
      simp [cellRead] at this
      exact absurd this.symm ((wf_cons ..).1 hn).1
  | cons p r ih =>
    obtain ⟨j, c⟩ := p
    obtain ⟨hc, ha, hr⟩ := (wf_cons ..).1 hm
    cases n with
    | nil => have := h j; simp [cellRead] at this; exact absurd this hc
    | cons q t =>
      obtain ⟨i, d⟩ := q
      obtain ⟨hd, hb, ht⟩ := (wf_cons ..).1 hn
      have hij : i = j := by
        by_contra hne
        rcases Nat.lt_or_gt_of_ne hne with hl | hl
        · have := h i
          rw [cellRead, if_neg (by omega), if_pos hl, cellRead, if_pos rfl] at this
          exact hd this.symm
        · have := h j
          rw [cellRead, if_pos rfl, cellRead, if_neg (by omega), if_pos hl] at this
          exact hc this
      subst hij
      have hcd : c = d := by simpa [cellRead] using h i
      subst hcd
      congr 1
      refine ih hr ht fun k => ?_
      have hk := h k
      simp only [cellRead] at hk
      by_cases h1 : i = k
      · subst h1; rw [cellRead_above ha, cellRead_above hb]
      · by_cases h2 : k < i
        · rw [cellRead_above fun x hx => by have := ha x hx; omega, cellRead_above fun x hx => by have := hb x hx; omega]
        · simpa [h1, h2] using hk

/-- The storage of the reset state has the canonical form. -/
theorem wf_reset : Memory.wf State.reset.mem = true := rfl

end Sys2Proof.Laws
end

