-- ==== Sys2Proof/Laws/Tables.lean ====
section
/-! SUPPORT. Sparse tables and lists by position: what a read after a change gives. They hold for any list, sorted or not. -/

namespace Sys2Proof.Laws

open Sys2Proof.Machine

variable {α β : Type}

@[simp] theorem get?_set_self (t : Tab α) (k : Nat) (x : α) : Tab.get? (Tab.set t k x) k = some x := by
  induction t with
  | nil => simp [Tab.set, Tab.get?]
  | cons p r ih =>
    obtain ⟨j, y⟩ := p
    unfold Tab.set
    split
    · simp [Tab.get?]
    · split
      · simp [Tab.get?]
      · simp [Tab.get?, *]

theorem get?_set_ne (t : Tab α) {k j : Nat} (x : α) (h : j ≠ k) : Tab.get? (Tab.set t k x) j = Tab.get? t j := by
  induction t with
  | nil => simp [Tab.set, Tab.get?, Ne.symm h]
  | cons p r ih =>
    obtain ⟨i, y⟩ := p
    unfold Tab.set
    split
    · simp [Tab.get?, Ne.symm h]
    · split
      · subst_vars; simp [Tab.get?, Ne.symm h]
      · simp only [Tab.get?, ih]

theorem get_eq (t : Tab α) (k : Nat) (d : α) : Tab.get t k d = (Tab.get? t k).getD d := by
  induction t with
  | nil => rfl
  | cons p r ih => obtain ⟨j, y⟩ := p; simp only [Tab.get, Tab.get?]; split <;> simp [ih]

@[simp] theorem get_set_self (t : Tab α) (k : Nat) (x d : α) : Tab.get (Tab.set t k x) k d = x := by simp [get_eq]

theorem get_set_ne (t : Tab α) {k j : Nat} (x d : α) (h : j ≠ k) : Tab.get (Tab.set t k x) j d = Tab.get t j d := by
  simp [get_eq, get?_set_ne t x h]

@[simp] theorem set_set (t : Tab α) (k : Nat) (x y : α) : Tab.set (Tab.set t k x) k y = Tab.set t k y := by
  induction t with
  | nil => simp [Tab.set]
  | cons p r ih =>
    obtain ⟨j, z⟩ := p
    simp only [Tab.set]
    split
    · simp [Tab.set]
    · split
      · simp [Tab.set]
      · rename_i h1 h2; simp [Tab.set, h1, h2, ih]

@[simp] theorem get?_modify_self (t : Tab α) (k : Nat) (f : α → α) : Tab.get? (Tab.modify t k f) k = (Tab.get? t k).map f := by
  induction t with
  | nil => rfl
  | cons p r ih =>
    obtain ⟨j, y⟩ := p
    simp only [Tab.modify, List.map_cons] at ih ⊢
    by_cases h : j = k <;> simp [h, Tab.get?, ih]

theorem get?_modify_ne (t : Tab α) {k j : Nat} (f : α → α) (h : j ≠ k) : Tab.get? (Tab.modify t k f) j = Tab.get? t j := by
  induction t with
  | nil => rfl
  | cons p r ih =>
    obtain ⟨i, y⟩ := p
    simp only [Tab.modify, List.map_cons] at ih ⊢
    by_cases hi : i = k
    · subst hi; simp [Tab.get?, Ne.symm h, ih]
    · simp [hi, Tab.get?, ih]

theorem modify_modify (t : Tab α) (k : Nat) (f g : α → α) : Tab.modify (Tab.modify t k f) k g = Tab.modify t k (g ∘ f) := by
  simp only [Tab.modify, List.map_map]
  refine List.map_congr_left fun p _ => ?_
  by_cases h : p.1 = k <;> simp [h]

@[simp] theorem get?_mapVals (t : Tab α) (f : Nat → α → β) (k : Nat) : Tab.get? (Tab.mapVals t f) k = (Tab.get? t k).map (f k) := by
  induction t with
  | nil => rfl
  | cons p r ih =>
    obtain ⟨j, y⟩ := p
    simp only [Tab.mapVals, List.map_cons] at ih ⊢
    by_cases h : j = k
    · subst h; simp [Tab.get?]
    · simp [h, Tab.get?, ih]

@[simp] theorem modAt_length (l : List α) (i : Nat) (f : α → α) : (modAt l i f).length = l.length := by
  induction l generalizing i with
  | nil => rfl
  | cons x r ih => cases i <;> simp [modAt, ih]

@[simp] theorem modAt_get?_self (l : List α) (i : Nat) (f : α → α) : (modAt l i f)[i]? = (l[i]?).map f := by
  induction l generalizing i with
  | nil => rfl
  | cons x r ih => cases i <;> simp [modAt, ih]

theorem modAt_get?_ne (l : List α) {i j : Nat} (f : α → α) (h : j ≠ i) : (modAt l i f)[j]? = l[j]? := by
  induction l generalizing i j with
  | nil => rfl
  | cons x r ih =>
    cases i with
    | zero => cases j with
      | zero => exact absurd rfl h
      | succ j => simp [modAt]
    | succ i => cases j with
      | zero => simp [modAt]
      | succ j => simpa [modAt] using ih (by omega)

@[simp] theorem has_cons (l : List Nat) (x n : Nat) : has (x :: l) n = (decide (x = n) || has l n) := rfl

theorem has_iff (l : List Nat) (n : Nat) : has l n = true ↔ n ∈ l := by simp [has]

end Sys2Proof.Laws
end

