-- ==== Sys2Proof/Laws/Parts.lean ====
section
/-! SUPPORT. The parts of the state by name: what a read of one part gives after a change of it, of a part of it, or of another part. -/

namespace Sys2Proof.Laws

open Sys2Proof.Machine

variable (s : State)

/-! ## Reads of another part -/

@[simp] theorem grpOpt_setCtx (c : Nat) (x : Context) (h : Nat) : grp? (setCtx s c x) h = grp? s h := rfl
@[simp] theorem grpOpt_modCtx (c : Nat) (f : Context → Context) (h : Nat) : grp? (modCtx s c f) h = grp? s h := rfl
@[simp] theorem grpOpt_setQueue (q : Nat) (x : Queue) (h : Nat) : grp? (setQueue s q x) h = grp? s h := rfl
@[simp] theorem grpOpt_modQueue (q : Nat) (f : Queue → Queue) (h : Nat) : grp? (modQueue s q f) h = grp? s h := rfl
@[simp] theorem grpOpt_setBarrier (b : Nat) (x : Barrier) (h : Nat) : grp? (setBarrier s b x) h = grp? s h := rfl
@[simp] theorem grpOpt_setFn (n : Nat) (x : Fn) (h : Nat) : grp? (setFn s n x) h = grp? s h := rfl
@[simp] theorem grpOpt_setLink (n : Nat) (x : Link) (h : Nat) : grp? (setLink s n x) h = grp? s h := rfl
@[simp] theorem grpOpt_modLink (n : Nat) (f : Link → Link) (h : Nat) : grp? (modLink s n f) h = grp? s h := rfl
@[simp] theorem grpOpt_setJob (j : Nat) (x : Job) (h : Nat) : grp? (setJob s j x) h = grp? s h := rfl
@[simp] theorem grpOpt_setCluster (c : Nat) (x : Cluster) (h : Nat) : grp? (setCluster s c x) h = grp? s h := rfl
@[simp] theorem grpOpt_modCluster (c : Nat) (f : Cluster → Cluster) (h : Nat) : grp? (modCluster s c f) h = grp? s h := rfl
@[simp] theorem grpOpt_setDbg (u : Nat) (x : Dbg) (h : Nat) : grp? (setDbg s u x) h = grp? s h := rfl
@[simp] theorem grpOpt_wrBytes (k : Nat) (l : List Byte) (h : Nat) : grp? (wrBytes s k l) h = grp? s h := rfl
@[simp] theorem grpOpt_putBytes (l : List (Nat × Byte)) (h : Nat) : grp? (putBytes s l) h = grp? s h := rfl
@[simp] theorem grpOpt_zeroRange (k n : Nat) (h : Nat) : grp? (zeroRange s k n) h = grp? s h := rfl
@[simp] theorem threadOpt_setCtx (c : Nat) (x : Context) (h i : Nat) : thread? (setCtx s c x) h i = thread? s h i := rfl
@[simp] theorem threadOpt_modCtx (c : Nat) (f : Context → Context) (h i : Nat) : thread? (modCtx s c f) h i = thread? s h i := rfl
@[simp] theorem threadOpt_setQueue (q : Nat) (x : Queue) (h i : Nat) : thread? (setQueue s q x) h i = thread? s h i := rfl
@[simp] theorem threadOpt_modQueue (q : Nat) (f : Queue → Queue) (h i : Nat) : thread? (modQueue s q f) h i = thread? s h i := rfl
@[simp] theorem threadOpt_setBarrier (b : Nat) (x : Barrier) (h i : Nat) : thread? (setBarrier s b x) h i = thread? s h i := rfl
@[simp] theorem threadOpt_setFn (n : Nat) (x : Fn) (h i : Nat) : thread? (setFn s n x) h i = thread? s h i := rfl
@[simp] theorem threadOpt_setLink (n : Nat) (x : Link) (h i : Nat) : thread? (setLink s n x) h i = thread? s h i := rfl
@[simp] theorem threadOpt_modLink (n : Nat) (f : Link → Link) (h i : Nat) : thread? (modLink s n f) h i = thread? s h i := rfl
@[simp] theorem threadOpt_setJob (j : Nat) (x : Job) (h i : Nat) : thread? (setJob s j x) h i = thread? s h i := rfl
@[simp] theorem threadOpt_setCluster (c : Nat) (x : Cluster) (h i : Nat) : thread? (setCluster s c x) h i = thread? s h i := rfl
@[simp] theorem threadOpt_modCluster (c : Nat) (f : Cluster → Cluster) (h i : Nat) : thread? (modCluster s c f) h i = thread? s h i := rfl
@[simp] theorem threadOpt_setDbg (u : Nat) (x : Dbg) (h i : Nat) : thread? (setDbg s u x) h i = thread? s h i := rfl
@[simp] theorem threadOpt_wrBytes (k : Nat) (l : List Byte) (h i : Nat) : thread? (wrBytes s k l) h i = thread? s h i := rfl
@[simp] theorem threadOpt_putBytes (l : List (Nat × Byte)) (h i : Nat) : thread? (putBytes s l) h i = thread? s h i := rfl
@[simp] theorem threadOpt_zeroRange (k n : Nat) (h i : Nat) : thread? (zeroRange s k n) h i = thread? s h i := rfl
@[simp] theorem blockOpt_setCtx (c : Nat) (x : Context) (h i m : Nat) : block? (setCtx s c x) h i m = block? s h i m := rfl
@[simp] theorem blockOpt_modCtx (c : Nat) (f : Context → Context) (h i m : Nat) : block? (modCtx s c f) h i m = block? s h i m := rfl
@[simp] theorem blockOpt_setQueue (q : Nat) (x : Queue) (h i m : Nat) : block? (setQueue s q x) h i m = block? s h i m := rfl
@[simp] theorem blockOpt_modQueue (q : Nat) (f : Queue → Queue) (h i m : Nat) : block? (modQueue s q f) h i m = block? s h i m := rfl
@[simp] theorem blockOpt_setBarrier (b : Nat) (x : Barrier) (h i m : Nat) : block? (setBarrier s b x) h i m = block? s h i m := rfl
@[simp] theorem blockOpt_setFn (n : Nat) (x : Fn) (h i m : Nat) : block? (setFn s n x) h i m = block? s h i m := rfl
@[simp] theorem blockOpt_setLink (n : Nat) (x : Link) (h i m : Nat) : block? (setLink s n x) h i m = block? s h i m := rfl
@[simp] theorem blockOpt_modLink (n : Nat) (f : Link → Link) (h i m : Nat) : block? (modLink s n f) h i m = block? s h i m := rfl
@[simp] theorem blockOpt_setJob (j : Nat) (x : Job) (h i m : Nat) : block? (setJob s j x) h i m = block? s h i m := rfl
@[simp] theorem blockOpt_setCluster (c : Nat) (x : Cluster) (h i m : Nat) : block? (setCluster s c x) h i m = block? s h i m := rfl
@[simp] theorem blockOpt_modCluster (c : Nat) (f : Cluster → Cluster) (h i m : Nat) : block? (modCluster s c f) h i m = block? s h i m := rfl
@[simp] theorem blockOpt_setDbg (u : Nat) (x : Dbg) (h i m : Nat) : block? (setDbg s u x) h i m = block? s h i m := rfl
@[simp] theorem blockOpt_wrBytes (k : Nat) (l : List Byte) (h i m : Nat) : block? (wrBytes s k l) h i m = block? s h i m := rfl
@[simp] theorem blockOpt_putBytes (l : List (Nat × Byte)) (h i m : Nat) : block? (putBytes s l) h i m = block? s h i m := rfl
@[simp] theorem blockOpt_zeroRange (k n : Nat) (h i m : Nat) : block? (zeroRange s k n) h i m = block? s h i m := rfl
@[simp] theorem graphOpt_setCtx (c : Nat) (x : Context) (h i : Nat) : graph? (setCtx s c x) h i = graph? s h i := rfl
@[simp] theorem graphOpt_modCtx (c : Nat) (f : Context → Context) (h i : Nat) : graph? (modCtx s c f) h i = graph? s h i := rfl
@[simp] theorem graphOpt_setQueue (q : Nat) (x : Queue) (h i : Nat) : graph? (setQueue s q x) h i = graph? s h i := rfl
@[simp] theorem graphOpt_modQueue (q : Nat) (f : Queue → Queue) (h i : Nat) : graph? (modQueue s q f) h i = graph? s h i := rfl
@[simp] theorem graphOpt_setBarrier (b : Nat) (x : Barrier) (h i : Nat) : graph? (setBarrier s b x) h i = graph? s h i := rfl
@[simp] theorem graphOpt_setFn (n : Nat) (x : Fn) (h i : Nat) : graph? (setFn s n x) h i = graph? s h i := rfl
@[simp] theorem graphOpt_setLink (n : Nat) (x : Link) (h i : Nat) : graph? (setLink s n x) h i = graph? s h i := rfl
@[simp] theorem graphOpt_modLink (n : Nat) (f : Link → Link) (h i : Nat) : graph? (modLink s n f) h i = graph? s h i := rfl
@[simp] theorem graphOpt_setJob (j : Nat) (x : Job) (h i : Nat) : graph? (setJob s j x) h i = graph? s h i := rfl
@[simp] theorem graphOpt_setCluster (c : Nat) (x : Cluster) (h i : Nat) : graph? (setCluster s c x) h i = graph? s h i := rfl
@[simp] theorem graphOpt_modCluster (c : Nat) (f : Cluster → Cluster) (h i : Nat) : graph? (modCluster s c f) h i = graph? s h i := rfl
@[simp] theorem graphOpt_setDbg (u : Nat) (x : Dbg) (h i : Nat) : graph? (setDbg s u x) h i = graph? s h i := rfl
@[simp] theorem graphOpt_wrBytes (k : Nat) (l : List Byte) (h i : Nat) : graph? (wrBytes s k l) h i = graph? s h i := rfl
@[simp] theorem graphOpt_putBytes (l : List (Nat × Byte)) (h i : Nat) : graph? (putBytes s l) h i = graph? s h i := rfl
@[simp] theorem graphOpt_zeroRange (k n : Nat) (h i : Nat) : graph? (zeroRange s k n) h i = graph? s h i := rfl
@[simp] theorem tileOpt_setCtx (c : Nat) (x : Context) (h i m : Nat) : tile? (setCtx s c x) h i m = tile? s h i m := rfl
@[simp] theorem tileOpt_modCtx (c : Nat) (f : Context → Context) (h i m : Nat) : tile? (modCtx s c f) h i m = tile? s h i m := rfl
@[simp] theorem tileOpt_setQueue (q : Nat) (x : Queue) (h i m : Nat) : tile? (setQueue s q x) h i m = tile? s h i m := rfl
@[simp] theorem tileOpt_modQueue (q : Nat) (f : Queue → Queue) (h i m : Nat) : tile? (modQueue s q f) h i m = tile? s h i m := rfl
@[simp] theorem tileOpt_setBarrier (b : Nat) (x : Barrier) (h i m : Nat) : tile? (setBarrier s b x) h i m = tile? s h i m := rfl
@[simp] theorem tileOpt_setFn (n : Nat) (x : Fn) (h i m : Nat) : tile? (setFn s n x) h i m = tile? s h i m := rfl
@[simp] theorem tileOpt_setLink (n : Nat) (x : Link) (h i m : Nat) : tile? (setLink s n x) h i m = tile? s h i m := rfl
@[simp] theorem tileOpt_modLink (n : Nat) (f : Link → Link) (h i m : Nat) : tile? (modLink s n f) h i m = tile? s h i m := rfl
@[simp] theorem tileOpt_setJob (j : Nat) (x : Job) (h i m : Nat) : tile? (setJob s j x) h i m = tile? s h i m := rfl
@[simp] theorem tileOpt_setCluster (c : Nat) (x : Cluster) (h i m : Nat) : tile? (setCluster s c x) h i m = tile? s h i m := rfl
@[simp] theorem tileOpt_modCluster (c : Nat) (f : Cluster → Cluster) (h i m : Nat) : tile? (modCluster s c f) h i m = tile? s h i m := rfl
@[simp] theorem tileOpt_setDbg (u : Nat) (x : Dbg) (h i m : Nat) : tile? (setDbg s u x) h i m = tile? s h i m := rfl
@[simp] theorem tileOpt_wrBytes (k : Nat) (l : List Byte) (h i m : Nat) : tile? (wrBytes s k l) h i m = tile? s h i m := rfl
@[simp] theorem tileOpt_putBytes (l : List (Nat × Byte)) (h i m : Nat) : tile? (putBytes s l) h i m = tile? s h i m := rfl
@[simp] theorem tileOpt_zeroRange (k n : Nat) (h i m : Nat) : tile? (zeroRange s k n) h i m = tile? s h i m := rfl
@[simp] theorem ceOpt_setCtx (c : Nat) (x : Context) (h i m : Nat) : ce? (setCtx s c x) h i m = ce? s h i m := rfl
@[simp] theorem ceOpt_modCtx (c : Nat) (f : Context → Context) (h i m : Nat) : ce? (modCtx s c f) h i m = ce? s h i m := rfl
@[simp] theorem ceOpt_setQueue (q : Nat) (x : Queue) (h i m : Nat) : ce? (setQueue s q x) h i m = ce? s h i m := rfl
@[simp] theorem ceOpt_modQueue (q : Nat) (f : Queue → Queue) (h i m : Nat) : ce? (modQueue s q f) h i m = ce? s h i m := rfl
@[simp] theorem ceOpt_setBarrier (b : Nat) (x : Barrier) (h i m : Nat) : ce? (setBarrier s b x) h i m = ce? s h i m := rfl
@[simp] theorem ceOpt_setFn (n : Nat) (x : Fn) (h i m : Nat) : ce? (setFn s n x) h i m = ce? s h i m := rfl
@[simp] theorem ceOpt_setLink (n : Nat) (x : Link) (h i m : Nat) : ce? (setLink s n x) h i m = ce? s h i m := rfl
@[simp] theorem ceOpt_modLink (n : Nat) (f : Link → Link) (h i m : Nat) : ce? (modLink s n f) h i m = ce? s h i m := rfl
@[simp] theorem ceOpt_setJob (j : Nat) (x : Job) (h i m : Nat) : ce? (setJob s j x) h i m = ce? s h i m := rfl
@[simp] theorem ceOpt_setCluster (c : Nat) (x : Cluster) (h i m : Nat) : ce? (setCluster s c x) h i m = ce? s h i m := rfl
@[simp] theorem ceOpt_modCluster (c : Nat) (f : Cluster → Cluster) (h i m : Nat) : ce? (modCluster s c f) h i m = ce? s h i m := rfl
@[simp] theorem ceOpt_setDbg (u : Nat) (x : Dbg) (h i m : Nat) : ce? (setDbg s u x) h i m = ce? s h i m := rfl
@[simp] theorem ceOpt_wrBytes (k : Nat) (l : List Byte) (h i m : Nat) : ce? (wrBytes s k l) h i m = ce? s h i m := rfl
@[simp] theorem ceOpt_putBytes (l : List (Nat × Byte)) (h i m : Nat) : ce? (putBytes s l) h i m = ce? s h i m := rfl
@[simp] theorem ceOpt_zeroRange (k n : Nat) (h i m : Nat) : ce? (zeroRange s k n) h i m = ce? s h i m := rfl
@[simp] theorem suOpt_setCtx (c : Nat) (x : Context) (h i m : Nat) : su? (setCtx s c x) h i m = su? s h i m := rfl
@[simp] theorem suOpt_modCtx (c : Nat) (f : Context → Context) (h i m : Nat) : su? (modCtx s c f) h i m = su? s h i m := rfl
@[simp] theorem suOpt_setQueue (q : Nat) (x : Queue) (h i m : Nat) : su? (setQueue s q x) h i m = su? s h i m := rfl
@[simp] theorem suOpt_modQueue (q : Nat) (f : Queue → Queue) (h i m : Nat) : su? (modQueue s q f) h i m = su? s h i m := rfl
@[simp] theorem suOpt_setBarrier (b : Nat) (x : Barrier) (h i m : Nat) : su? (setBarrier s b x) h i m = su? s h i m := rfl
@[simp] theorem suOpt_setFn (n : Nat) (x : Fn) (h i m : Nat) : su? (setFn s n x) h i m = su? s h i m := rfl
@[simp] theorem suOpt_setLink (n : Nat) (x : Link) (h i m : Nat) : su? (setLink s n x) h i m = su? s h i m := rfl
@[simp] theorem suOpt_modLink (n : Nat) (f : Link → Link) (h i m : Nat) : su? (modLink s n f) h i m = su? s h i m := rfl
@[simp] theorem suOpt_setJob (j : Nat) (x : Job) (h i m : Nat) : su? (setJob s j x) h i m = su? s h i m := rfl
@[simp] theorem suOpt_setCluster (c : Nat) (x : Cluster) (h i m : Nat) : su? (setCluster s c x) h i m = su? s h i m := rfl
@[simp] theorem suOpt_modCluster (c : Nat) (f : Cluster → Cluster) (h i m : Nat) : su? (modCluster s c f) h i m = su? s h i m := rfl
@[simp] theorem suOpt_setDbg (u : Nat) (x : Dbg) (h i m : Nat) : su? (setDbg s u x) h i m = su? s h i m := rfl
@[simp] theorem suOpt_wrBytes (k : Nat) (l : List Byte) (h i m : Nat) : su? (wrBytes s k l) h i m = su? s h i m := rfl
@[simp] theorem suOpt_putBytes (l : List (Nat × Byte)) (h i m : Nat) : su? (putBytes s l) h i m = su? s h i m := rfl
@[simp] theorem suOpt_zeroRange (k n : Nat) (h i m : Nat) : su? (zeroRange s k n) h i m = su? s h i m := rfl
@[simp] theorem mcOpt_setCtx (c : Nat) (x : Context) (h i m : Nat) : mc? (setCtx s c x) h i m = mc? s h i m := rfl
@[simp] theorem mcOpt_modCtx (c : Nat) (f : Context → Context) (h i m : Nat) : mc? (modCtx s c f) h i m = mc? s h i m := rfl
@[simp] theorem mcOpt_setQueue (q : Nat) (x : Queue) (h i m : Nat) : mc? (setQueue s q x) h i m = mc? s h i m := rfl
@[simp] theorem mcOpt_modQueue (q : Nat) (f : Queue → Queue) (h i m : Nat) : mc? (modQueue s q f) h i m = mc? s h i m := rfl
@[simp] theorem mcOpt_setBarrier (b : Nat) (x : Barrier) (h i m : Nat) : mc? (setBarrier s b x) h i m = mc? s h i m := rfl
@[simp] theorem mcOpt_setFn (n : Nat) (x : Fn) (h i m : Nat) : mc? (setFn s n x) h i m = mc? s h i m := rfl
@[simp] theorem mcOpt_setLink (n : Nat) (x : Link) (h i m : Nat) : mc? (setLink s n x) h i m = mc? s h i m := rfl
@[simp] theorem mcOpt_modLink (n : Nat) (f : Link → Link) (h i m : Nat) : mc? (modLink s n f) h i m = mc? s h i m := rfl
@[simp] theorem mcOpt_setJob (j : Nat) (x : Job) (h i m : Nat) : mc? (setJob s j x) h i m = mc? s h i m := rfl
@[simp] theorem mcOpt_setCluster (c : Nat) (x : Cluster) (h i m : Nat) : mc? (setCluster s c x) h i m = mc? s h i m := rfl
@[simp] theorem mcOpt_modCluster (c : Nat) (f : Cluster → Cluster) (h i m : Nat) : mc? (modCluster s c f) h i m = mc? s h i m := rfl
@[simp] theorem mcOpt_setDbg (u : Nat) (x : Dbg) (h i m : Nat) : mc? (setDbg s u x) h i m = mc? s h i m := rfl
@[simp] theorem mcOpt_wrBytes (k : Nat) (l : List Byte) (h i m : Nat) : mc? (wrBytes s k l) h i m = mc? s h i m := rfl
@[simp] theorem mcOpt_putBytes (l : List (Nat × Byte)) (h i m : Nat) : mc? (putBytes s l) h i m = mc? s h i m := rfl
@[simp] theorem mcOpt_zeroRange (k n : Nat) (h i m : Nat) : mc? (zeroRange s k n) h i m = mc? s h i m := rfl
@[simp] theorem mtOpt_setCtx (c : Nat) (x : Context) (h i m : Nat) : mt? (setCtx s c x) h i m = mt? s h i m := rfl
@[simp] theorem mtOpt_modCtx (c : Nat) (f : Context → Context) (h i m : Nat) : mt? (modCtx s c f) h i m = mt? s h i m := rfl
@[simp] theorem mtOpt_setQueue (q : Nat) (x : Queue) (h i m : Nat) : mt? (setQueue s q x) h i m = mt? s h i m := rfl
@[simp] theorem mtOpt_modQueue (q : Nat) (f : Queue → Queue) (h i m : Nat) : mt? (modQueue s q f) h i m = mt? s h i m := rfl
@[simp] theorem mtOpt_setBarrier (b : Nat) (x : Barrier) (h i m : Nat) : mt? (setBarrier s b x) h i m = mt? s h i m := rfl
@[simp] theorem mtOpt_setFn (n : Nat) (x : Fn) (h i m : Nat) : mt? (setFn s n x) h i m = mt? s h i m := rfl
@[simp] theorem mtOpt_setLink (n : Nat) (x : Link) (h i m : Nat) : mt? (setLink s n x) h i m = mt? s h i m := rfl
@[simp] theorem mtOpt_modLink (n : Nat) (f : Link → Link) (h i m : Nat) : mt? (modLink s n f) h i m = mt? s h i m := rfl
@[simp] theorem mtOpt_setJob (j : Nat) (x : Job) (h i m : Nat) : mt? (setJob s j x) h i m = mt? s h i m := rfl
@[simp] theorem mtOpt_setCluster (c : Nat) (x : Cluster) (h i m : Nat) : mt? (setCluster s c x) h i m = mt? s h i m := rfl
@[simp] theorem mtOpt_modCluster (c : Nat) (f : Cluster → Cluster) (h i m : Nat) : mt? (modCluster s c f) h i m = mt? s h i m := rfl
@[simp] theorem mtOpt_setDbg (u : Nat) (x : Dbg) (h i m : Nat) : mt? (setDbg s u x) h i m = mt? s h i m := rfl
@[simp] theorem mtOpt_wrBytes (k : Nat) (l : List Byte) (h i m : Nat) : mt? (wrBytes s k l) h i m = mt? s h i m := rfl
@[simp] theorem mtOpt_putBytes (l : List (Nat × Byte)) (h i m : Nat) : mt? (putBytes s l) h i m = mt? s h i m := rfl
@[simp] theorem mtOpt_zeroRange (k n : Nat) (h i m : Nat) : mt? (zeroRange s k n) h i m = mt? s h i m := rfl
@[simp] theorem ctx_modGrp (g : Nat) (f : Group → Group) (h : Nat) : ctx (modGrp s g f) h = ctx s h := rfl
@[simp] theorem ctx_modImage (g : Nat) (f : Image → Image) (h : Nat) : ctx (modImage s g f) h = ctx s h := rfl
@[simp] theorem ctx_modThread (g th : Nat) (f : Thread → Thread) (h : Nat) : ctx (modThread s g th f) h = ctx s h := rfl
@[simp] theorem ctx_modBlock (g th b : Nat) (f : Block → Block) (h : Nat) : ctx (modBlock s g th b f) h = ctx s h := rfl
@[simp] theorem ctx_modGraph (g gi : Nat) (f : Graph → Graph) (h : Nat) : ctx (modGraph s g gi f) h = ctx s h := rfl
@[simp] theorem ctx_modTile (g gi n : Nat) (f : Tile → Tile) (h : Nat) : ctx (modTile s g gi n f) h = ctx s h := rfl
@[simp] theorem ctx_modCe (g gi n : Nat) (f : Ce → Ce) (h : Nat) : ctx (modCe s g gi n f) h = ctx s h := rfl
@[simp] theorem ctx_modSu (g gi n : Nat) (f : SuState → SuState) (h : Nat) : ctx (modSu s g gi n f) h = ctx s h := rfl
@[simp] theorem ctx_modMc (g gi n : Nat) (f : Mc → Mc) (h : Nat) : ctx (modMc s g gi n f) h = ctx s h := rfl
@[simp] theorem ctx_modMt (g gi n : Nat) (f : Mt → Mt) (h : Nat) : ctx (modMt s g gi n f) h = ctx s h := rfl
@[simp] theorem ctx_modMtFn (g gi n : Nat) (f : MtState → MtState) (h : Nat) : ctx (modMtFn s g gi n f) h = ctx s h := rfl
@[simp] theorem ctx_modAg (g gi n lane : Nat) (f : AgState → AgState) (h : Nat) : ctx (modAg s g gi n lane f) h = ctx s h := rfl
@[simp] theorem ctx_setQueue (q : Nat) (x : Queue) (h : Nat) : ctx (setQueue s q x) h = ctx s h := rfl
@[simp] theorem ctx_modQueue (q : Nat) (f : Queue → Queue) (h : Nat) : ctx (modQueue s q f) h = ctx s h := rfl
@[simp] theorem ctx_setBarrier (b : Nat) (x : Barrier) (h : Nat) : ctx (setBarrier s b x) h = ctx s h := rfl
@[simp] theorem ctx_setFn (n : Nat) (x : Fn) (h : Nat) : ctx (setFn s n x) h = ctx s h := rfl
@[simp] theorem ctx_setLink (n : Nat) (x : Link) (h : Nat) : ctx (setLink s n x) h = ctx s h := rfl
@[simp] theorem ctx_modLink (n : Nat) (f : Link → Link) (h : Nat) : ctx (modLink s n f) h = ctx s h := rfl
@[simp] theorem ctx_setJob (j : Nat) (x : Job) (h : Nat) : ctx (setJob s j x) h = ctx s h := rfl
@[simp] theorem ctx_setCluster (c : Nat) (x : Cluster) (h : Nat) : ctx (setCluster s c x) h = ctx s h := rfl
@[simp] theorem ctx_modCluster (c : Nat) (f : Cluster → Cluster) (h : Nat) : ctx (modCluster s c f) h = ctx s h := rfl
@[simp] theorem ctx_setDbg (u : Nat) (x : Dbg) (h : Nat) : ctx (setDbg s u x) h = ctx s h := rfl
@[simp] theorem ctx_wrBytes (k : Nat) (l : List Byte) (h : Nat) : ctx (wrBytes s k l) h = ctx s h := rfl
@[simp] theorem ctx_putBytes (l : List (Nat × Byte)) (h : Nat) : ctx (putBytes s l) h = ctx s h := rfl
@[simp] theorem ctx_zeroRange (k n : Nat) (h : Nat) : ctx (zeroRange s k n) h = ctx s h := rfl
@[simp] theorem queue_modGrp (g : Nat) (f : Group → Group) (h : Nat) : queue (modGrp s g f) h = queue s h := rfl
@[simp] theorem queue_modImage (g : Nat) (f : Image → Image) (h : Nat) : queue (modImage s g f) h = queue s h := rfl
@[simp] theorem queue_modThread (g th : Nat) (f : Thread → Thread) (h : Nat) : queue (modThread s g th f) h = queue s h := rfl
@[simp] theorem queue_modBlock (g th b : Nat) (f : Block → Block) (h : Nat) : queue (modBlock s g th b f) h = queue s h := rfl
@[simp] theorem queue_modGraph (g gi : Nat) (f : Graph → Graph) (h : Nat) : queue (modGraph s g gi f) h = queue s h := rfl
@[simp] theorem queue_modTile (g gi n : Nat) (f : Tile → Tile) (h : Nat) : queue (modTile s g gi n f) h = queue s h := rfl
@[simp] theorem queue_modCe (g gi n : Nat) (f : Ce → Ce) (h : Nat) : queue (modCe s g gi n f) h = queue s h := rfl
@[simp] theorem queue_modSu (g gi n : Nat) (f : SuState → SuState) (h : Nat) : queue (modSu s g gi n f) h = queue s h := rfl
@[simp] theorem queue_modMc (g gi n : Nat) (f : Mc → Mc) (h : Nat) : queue (modMc s g gi n f) h = queue s h := rfl
@[simp] theorem queue_modMt (g gi n : Nat) (f : Mt → Mt) (h : Nat) : queue (modMt s g gi n f) h = queue s h := rfl
@[simp] theorem queue_modMtFn (g gi n : Nat) (f : MtState → MtState) (h : Nat) : queue (modMtFn s g gi n f) h = queue s h := rfl
@[simp] theorem queue_modAg (g gi n lane : Nat) (f : AgState → AgState) (h : Nat) : queue (modAg s g gi n lane f) h = queue s h := rfl
@[simp] theorem queue_setCtx (c : Nat) (x : Context) (h : Nat) : queue (setCtx s c x) h = queue s h := rfl
@[simp] theorem queue_modCtx (c : Nat) (f : Context → Context) (h : Nat) : queue (modCtx s c f) h = queue s h := rfl
@[simp] theorem queue_setBarrier (b : Nat) (x : Barrier) (h : Nat) : queue (setBarrier s b x) h = queue s h := rfl
@[simp] theorem queue_setFn (n : Nat) (x : Fn) (h : Nat) : queue (setFn s n x) h = queue s h := rfl
@[simp] theorem queue_setLink (n : Nat) (x : Link) (h : Nat) : queue (setLink s n x) h = queue s h := rfl
@[simp] theorem queue_modLink (n : Nat) (f : Link → Link) (h : Nat) : queue (modLink s n f) h = queue s h := rfl
@[simp] theorem queue_setJob (j : Nat) (x : Job) (h : Nat) : queue (setJob s j x) h = queue s h := rfl
@[simp] theorem queue_setCluster (c : Nat) (x : Cluster) (h : Nat) : queue (setCluster s c x) h = queue s h := rfl
@[simp] theorem queue_modCluster (c : Nat) (f : Cluster → Cluster) (h : Nat) : queue (modCluster s c f) h = queue s h := rfl
@[simp] theorem queue_setDbg (u : Nat) (x : Dbg) (h : Nat) : queue (setDbg s u x) h = queue s h := rfl
@[simp] theorem queue_wrBytes (k : Nat) (l : List Byte) (h : Nat) : queue (wrBytes s k l) h = queue s h := rfl
@[simp] theorem queue_putBytes (l : List (Nat × Byte)) (h : Nat) : queue (putBytes s l) h = queue s h := rfl
@[simp] theorem queue_zeroRange (k n : Nat) (h : Nat) : queue (zeroRange s k n) h = queue s h := rfl
@[simp] theorem barrier_modGrp (g : Nat) (f : Group → Group) (h : Nat) : barrier (modGrp s g f) h = barrier s h := rfl
@[simp] theorem barrier_modImage (g : Nat) (f : Image → Image) (h : Nat) : barrier (modImage s g f) h = barrier s h := rfl
@[simp] theorem barrier_modThread (g th : Nat) (f : Thread → Thread) (h : Nat) : barrier (modThread s g th f) h = barrier s h := rfl
@[simp] theorem barrier_modBlock (g th b : Nat) (f : Block → Block) (h : Nat) : barrier (modBlock s g th b f) h = barrier s h := rfl
@[simp] theorem barrier_modGraph (g gi : Nat) (f : Graph → Graph) (h : Nat) : barrier (modGraph s g gi f) h = barrier s h := rfl
@[simp] theorem barrier_modTile (g gi n : Nat) (f : Tile → Tile) (h : Nat) : barrier (modTile s g gi n f) h = barrier s h := rfl
@[simp] theorem barrier_modCe (g gi n : Nat) (f : Ce → Ce) (h : Nat) : barrier (modCe s g gi n f) h = barrier s h := rfl
@[simp] theorem barrier_modSu (g gi n : Nat) (f : SuState → SuState) (h : Nat) : barrier (modSu s g gi n f) h = barrier s h := rfl
@[simp] theorem barrier_modMc (g gi n : Nat) (f : Mc → Mc) (h : Nat) : barrier (modMc s g gi n f) h = barrier s h := rfl
@[simp] theorem barrier_modMt (g gi n : Nat) (f : Mt → Mt) (h : Nat) : barrier (modMt s g gi n f) h = barrier s h := rfl
@[simp] theorem barrier_modMtFn (g gi n : Nat) (f : MtState → MtState) (h : Nat) : barrier (modMtFn s g gi n f) h = barrier s h := rfl
@[simp] theorem barrier_modAg (g gi n lane : Nat) (f : AgState → AgState) (h : Nat) : barrier (modAg s g gi n lane f) h = barrier s h := rfl
@[simp] theorem barrier_setCtx (c : Nat) (x : Context) (h : Nat) : barrier (setCtx s c x) h = barrier s h := rfl
@[simp] theorem barrier_modCtx (c : Nat) (f : Context → Context) (h : Nat) : barrier (modCtx s c f) h = barrier s h := rfl
@[simp] theorem barrier_setQueue (q : Nat) (x : Queue) (h : Nat) : barrier (setQueue s q x) h = barrier s h := rfl
@[simp] theorem barrier_modQueue (q : Nat) (f : Queue → Queue) (h : Nat) : barrier (modQueue s q f) h = barrier s h := rfl
@[simp] theorem barrier_setFn (n : Nat) (x : Fn) (h : Nat) : barrier (setFn s n x) h = barrier s h := rfl
@[simp] theorem barrier_setLink (n : Nat) (x : Link) (h : Nat) : barrier (setLink s n x) h = barrier s h := rfl
@[simp] theorem barrier_modLink (n : Nat) (f : Link → Link) (h : Nat) : barrier (modLink s n f) h = barrier s h := rfl
@[simp] theorem barrier_setJob (j : Nat) (x : Job) (h : Nat) : barrier (setJob s j x) h = barrier s h := rfl
@[simp] theorem barrier_setCluster (c : Nat) (x : Cluster) (h : Nat) : barrier (setCluster s c x) h = barrier s h := rfl
@[simp] theorem barrier_modCluster (c : Nat) (f : Cluster → Cluster) (h : Nat) : barrier (modCluster s c f) h = barrier s h := rfl
@[simp] theorem barrier_setDbg (u : Nat) (x : Dbg) (h : Nat) : barrier (setDbg s u x) h = barrier s h := rfl
@[simp] theorem barrier_wrBytes (k : Nat) (l : List Byte) (h : Nat) : barrier (wrBytes s k l) h = barrier s h := rfl
@[simp] theorem barrier_putBytes (l : List (Nat × Byte)) (h : Nat) : barrier (putBytes s l) h = barrier s h := rfl
@[simp] theorem barrier_zeroRange (k n : Nat) (h : Nat) : barrier (zeroRange s k n) h = barrier s h := rfl
@[simp] theorem fnOf_modGrp (g : Nat) (f : Group → Group) (h : Nat) : fnOf (modGrp s g f) h = fnOf s h := rfl
@[simp] theorem fnOf_modImage (g : Nat) (f : Image → Image) (h : Nat) : fnOf (modImage s g f) h = fnOf s h := rfl
@[simp] theorem fnOf_modThread (g th : Nat) (f : Thread → Thread) (h : Nat) : fnOf (modThread s g th f) h = fnOf s h := rfl
@[simp] theorem fnOf_modBlock (g th b : Nat) (f : Block → Block) (h : Nat) : fnOf (modBlock s g th b f) h = fnOf s h := rfl
@[simp] theorem fnOf_modGraph (g gi : Nat) (f : Graph → Graph) (h : Nat) : fnOf (modGraph s g gi f) h = fnOf s h := rfl
@[simp] theorem fnOf_modTile (g gi n : Nat) (f : Tile → Tile) (h : Nat) : fnOf (modTile s g gi n f) h = fnOf s h := rfl
@[simp] theorem fnOf_modCe (g gi n : Nat) (f : Ce → Ce) (h : Nat) : fnOf (modCe s g gi n f) h = fnOf s h := rfl
@[simp] theorem fnOf_modSu (g gi n : Nat) (f : SuState → SuState) (h : Nat) : fnOf (modSu s g gi n f) h = fnOf s h := rfl
@[simp] theorem fnOf_modMc (g gi n : Nat) (f : Mc → Mc) (h : Nat) : fnOf (modMc s g gi n f) h = fnOf s h := rfl
@[simp] theorem fnOf_modMt (g gi n : Nat) (f : Mt → Mt) (h : Nat) : fnOf (modMt s g gi n f) h = fnOf s h := rfl
@[simp] theorem fnOf_modMtFn (g gi n : Nat) (f : MtState → MtState) (h : Nat) : fnOf (modMtFn s g gi n f) h = fnOf s h := rfl
@[simp] theorem fnOf_modAg (g gi n lane : Nat) (f : AgState → AgState) (h : Nat) : fnOf (modAg s g gi n lane f) h = fnOf s h := rfl
@[simp] theorem fnOf_setCtx (c : Nat) (x : Context) (h : Nat) : fnOf (setCtx s c x) h = fnOf s h := rfl
@[simp] theorem fnOf_modCtx (c : Nat) (f : Context → Context) (h : Nat) : fnOf (modCtx s c f) h = fnOf s h := rfl
@[simp] theorem fnOf_setQueue (q : Nat) (x : Queue) (h : Nat) : fnOf (setQueue s q x) h = fnOf s h := rfl
@[simp] theorem fnOf_modQueue (q : Nat) (f : Queue → Queue) (h : Nat) : fnOf (modQueue s q f) h = fnOf s h := rfl
@[simp] theorem fnOf_setBarrier (b : Nat) (x : Barrier) (h : Nat) : fnOf (setBarrier s b x) h = fnOf s h := rfl
@[simp] theorem fnOf_setLink (n : Nat) (x : Link) (h : Nat) : fnOf (setLink s n x) h = fnOf s h := rfl
@[simp] theorem fnOf_modLink (n : Nat) (f : Link → Link) (h : Nat) : fnOf (modLink s n f) h = fnOf s h := rfl
@[simp] theorem fnOf_setJob (j : Nat) (x : Job) (h : Nat) : fnOf (setJob s j x) h = fnOf s h := rfl
@[simp] theorem fnOf_setCluster (c : Nat) (x : Cluster) (h : Nat) : fnOf (setCluster s c x) h = fnOf s h := rfl
@[simp] theorem fnOf_modCluster (c : Nat) (f : Cluster → Cluster) (h : Nat) : fnOf (modCluster s c f) h = fnOf s h := rfl
@[simp] theorem fnOf_setDbg (u : Nat) (x : Dbg) (h : Nat) : fnOf (setDbg s u x) h = fnOf s h := rfl
@[simp] theorem fnOf_wrBytes (k : Nat) (l : List Byte) (h : Nat) : fnOf (wrBytes s k l) h = fnOf s h := rfl
@[simp] theorem fnOf_putBytes (l : List (Nat × Byte)) (h : Nat) : fnOf (putBytes s l) h = fnOf s h := rfl
@[simp] theorem fnOf_zeroRange (k n : Nat) (h : Nat) : fnOf (zeroRange s k n) h = fnOf s h := rfl
@[simp] theorem link_modGrp (g : Nat) (f : Group → Group) (h : Nat) : link (modGrp s g f) h = link s h := rfl
@[simp] theorem link_modImage (g : Nat) (f : Image → Image) (h : Nat) : link (modImage s g f) h = link s h := rfl
@[simp] theorem link_modThread (g th : Nat) (f : Thread → Thread) (h : Nat) : link (modThread s g th f) h = link s h := rfl
@[simp] theorem link_modBlock (g th b : Nat) (f : Block → Block) (h : Nat) : link (modBlock s g th b f) h = link s h := rfl
@[simp] theorem link_modGraph (g gi : Nat) (f : Graph → Graph) (h : Nat) : link (modGraph s g gi f) h = link s h := rfl
@[simp] theorem link_modTile (g gi n : Nat) (f : Tile → Tile) (h : Nat) : link (modTile s g gi n f) h = link s h := rfl
@[simp] theorem link_modCe (g gi n : Nat) (f : Ce → Ce) (h : Nat) : link (modCe s g gi n f) h = link s h := rfl
@[simp] theorem link_modSu (g gi n : Nat) (f : SuState → SuState) (h : Nat) : link (modSu s g gi n f) h = link s h := rfl
@[simp] theorem link_modMc (g gi n : Nat) (f : Mc → Mc) (h : Nat) : link (modMc s g gi n f) h = link s h := rfl
@[simp] theorem link_modMt (g gi n : Nat) (f : Mt → Mt) (h : Nat) : link (modMt s g gi n f) h = link s h := rfl
@[simp] theorem link_modMtFn (g gi n : Nat) (f : MtState → MtState) (h : Nat) : link (modMtFn s g gi n f) h = link s h := rfl
@[simp] theorem link_modAg (g gi n lane : Nat) (f : AgState → AgState) (h : Nat) : link (modAg s g gi n lane f) h = link s h := rfl
@[simp] theorem link_setCtx (c : Nat) (x : Context) (h : Nat) : link (setCtx s c x) h = link s h := rfl
@[simp] theorem link_modCtx (c : Nat) (f : Context → Context) (h : Nat) : link (modCtx s c f) h = link s h := rfl
@[simp] theorem link_setQueue (q : Nat) (x : Queue) (h : Nat) : link (setQueue s q x) h = link s h := rfl
@[simp] theorem link_modQueue (q : Nat) (f : Queue → Queue) (h : Nat) : link (modQueue s q f) h = link s h := rfl
@[simp] theorem link_setBarrier (b : Nat) (x : Barrier) (h : Nat) : link (setBarrier s b x) h = link s h := rfl
@[simp] theorem link_setFn (n : Nat) (x : Fn) (h : Nat) : link (setFn s n x) h = link s h := rfl
@[simp] theorem link_setJob (j : Nat) (x : Job) (h : Nat) : link (setJob s j x) h = link s h := rfl
@[simp] theorem link_setCluster (c : Nat) (x : Cluster) (h : Nat) : link (setCluster s c x) h = link s h := rfl
@[simp] theorem link_modCluster (c : Nat) (f : Cluster → Cluster) (h : Nat) : link (modCluster s c f) h = link s h := rfl
@[simp] theorem link_setDbg (u : Nat) (x : Dbg) (h : Nat) : link (setDbg s u x) h = link s h := rfl
@[simp] theorem link_wrBytes (k : Nat) (l : List Byte) (h : Nat) : link (wrBytes s k l) h = link s h := rfl
@[simp] theorem link_putBytes (l : List (Nat × Byte)) (h : Nat) : link (putBytes s l) h = link s h := rfl
@[simp] theorem link_zeroRange (k n : Nat) (h : Nat) : link (zeroRange s k n) h = link s h := rfl
@[simp] theorem job_modGrp (g : Nat) (f : Group → Group) (h : Nat) : job (modGrp s g f) h = job s h := rfl
@[simp] theorem job_modImage (g : Nat) (f : Image → Image) (h : Nat) : job (modImage s g f) h = job s h := rfl
@[simp] theorem job_modThread (g th : Nat) (f : Thread → Thread) (h : Nat) : job (modThread s g th f) h = job s h := rfl
@[simp] theorem job_modBlock (g th b : Nat) (f : Block → Block) (h : Nat) : job (modBlock s g th b f) h = job s h := rfl
@[simp] theorem job_modGraph (g gi : Nat) (f : Graph → Graph) (h : Nat) : job (modGraph s g gi f) h = job s h := rfl
@[simp] theorem job_modTile (g gi n : Nat) (f : Tile → Tile) (h : Nat) : job (modTile s g gi n f) h = job s h := rfl
@[simp] theorem job_modCe (g gi n : Nat) (f : Ce → Ce) (h : Nat) : job (modCe s g gi n f) h = job s h := rfl
@[simp] theorem job_modSu (g gi n : Nat) (f : SuState → SuState) (h : Nat) : job (modSu s g gi n f) h = job s h := rfl
@[simp] theorem job_modMc (g gi n : Nat) (f : Mc → Mc) (h : Nat) : job (modMc s g gi n f) h = job s h := rfl
@[simp] theorem job_modMt (g gi n : Nat) (f : Mt → Mt) (h : Nat) : job (modMt s g gi n f) h = job s h := rfl
@[simp] theorem job_modMtFn (g gi n : Nat) (f : MtState → MtState) (h : Nat) : job (modMtFn s g gi n f) h = job s h := rfl
@[simp] theorem job_modAg (g gi n lane : Nat) (f : AgState → AgState) (h : Nat) : job (modAg s g gi n lane f) h = job s h := rfl
@[simp] theorem job_setCtx (c : Nat) (x : Context) (h : Nat) : job (setCtx s c x) h = job s h := rfl
@[simp] theorem job_modCtx (c : Nat) (f : Context → Context) (h : Nat) : job (modCtx s c f) h = job s h := rfl
@[simp] theorem job_setQueue (q : Nat) (x : Queue) (h : Nat) : job (setQueue s q x) h = job s h := rfl
@[simp] theorem job_modQueue (q : Nat) (f : Queue → Queue) (h : Nat) : job (modQueue s q f) h = job s h := rfl
@[simp] theorem job_setBarrier (b : Nat) (x : Barrier) (h : Nat) : job (setBarrier s b x) h = job s h := rfl
@[simp] theorem job_setFn (n : Nat) (x : Fn) (h : Nat) : job (setFn s n x) h = job s h := rfl
@[simp] theorem job_setLink (n : Nat) (x : Link) (h : Nat) : job (setLink s n x) h = job s h := rfl
@[simp] theorem job_modLink (n : Nat) (f : Link → Link) (h : Nat) : job (modLink s n f) h = job s h := rfl
@[simp] theorem job_setCluster (c : Nat) (x : Cluster) (h : Nat) : job (setCluster s c x) h = job s h := rfl
@[simp] theorem job_modCluster (c : Nat) (f : Cluster → Cluster) (h : Nat) : job (modCluster s c f) h = job s h := rfl
@[simp] theorem job_setDbg (u : Nat) (x : Dbg) (h : Nat) : job (setDbg s u x) h = job s h := rfl
@[simp] theorem job_wrBytes (k : Nat) (l : List Byte) (h : Nat) : job (wrBytes s k l) h = job s h := rfl
@[simp] theorem job_putBytes (l : List (Nat × Byte)) (h : Nat) : job (putBytes s l) h = job s h := rfl
@[simp] theorem job_zeroRange (k n : Nat) (h : Nat) : job (zeroRange s k n) h = job s h := rfl
@[simp] theorem cluster_modGrp (g : Nat) (f : Group → Group) (h : Nat) : cluster (modGrp s g f) h = cluster s h := rfl
@[simp] theorem cluster_modImage (g : Nat) (f : Image → Image) (h : Nat) : cluster (modImage s g f) h = cluster s h := rfl
@[simp] theorem cluster_modThread (g th : Nat) (f : Thread → Thread) (h : Nat) : cluster (modThread s g th f) h = cluster s h := rfl
@[simp] theorem cluster_modBlock (g th b : Nat) (f : Block → Block) (h : Nat) : cluster (modBlock s g th b f) h = cluster s h := rfl
@[simp] theorem cluster_modGraph (g gi : Nat) (f : Graph → Graph) (h : Nat) : cluster (modGraph s g gi f) h = cluster s h := rfl
@[simp] theorem cluster_modTile (g gi n : Nat) (f : Tile → Tile) (h : Nat) : cluster (modTile s g gi n f) h = cluster s h := rfl
@[simp] theorem cluster_modCe (g gi n : Nat) (f : Ce → Ce) (h : Nat) : cluster (modCe s g gi n f) h = cluster s h := rfl
@[simp] theorem cluster_modSu (g gi n : Nat) (f : SuState → SuState) (h : Nat) : cluster (modSu s g gi n f) h = cluster s h := rfl
@[simp] theorem cluster_modMc (g gi n : Nat) (f : Mc → Mc) (h : Nat) : cluster (modMc s g gi n f) h = cluster s h := rfl
@[simp] theorem cluster_modMt (g gi n : Nat) (f : Mt → Mt) (h : Nat) : cluster (modMt s g gi n f) h = cluster s h := rfl
@[simp] theorem cluster_modMtFn (g gi n : Nat) (f : MtState → MtState) (h : Nat) : cluster (modMtFn s g gi n f) h = cluster s h := rfl
@[simp] theorem cluster_modAg (g gi n lane : Nat) (f : AgState → AgState) (h : Nat) : cluster (modAg s g gi n lane f) h = cluster s h := rfl
@[simp] theorem cluster_setCtx (c : Nat) (x : Context) (h : Nat) : cluster (setCtx s c x) h = cluster s h := rfl
@[simp] theorem cluster_modCtx (c : Nat) (f : Context → Context) (h : Nat) : cluster (modCtx s c f) h = cluster s h := rfl
@[simp] theorem cluster_setQueue (q : Nat) (x : Queue) (h : Nat) : cluster (setQueue s q x) h = cluster s h := rfl
@[simp] theorem cluster_modQueue (q : Nat) (f : Queue → Queue) (h : Nat) : cluster (modQueue s q f) h = cluster s h := rfl
@[simp] theorem cluster_setBarrier (b : Nat) (x : Barrier) (h : Nat) : cluster (setBarrier s b x) h = cluster s h := rfl
@[simp] theorem cluster_setFn (n : Nat) (x : Fn) (h : Nat) : cluster (setFn s n x) h = cluster s h := rfl
@[simp] theorem cluster_setLink (n : Nat) (x : Link) (h : Nat) : cluster (setLink s n x) h = cluster s h := rfl
@[simp] theorem cluster_modLink (n : Nat) (f : Link → Link) (h : Nat) : cluster (modLink s n f) h = cluster s h := rfl
@[simp] theorem cluster_setJob (j : Nat) (x : Job) (h : Nat) : cluster (setJob s j x) h = cluster s h := rfl
@[simp] theorem cluster_setDbg (u : Nat) (x : Dbg) (h : Nat) : cluster (setDbg s u x) h = cluster s h := rfl
@[simp] theorem cluster_wrBytes (k : Nat) (l : List Byte) (h : Nat) : cluster (wrBytes s k l) h = cluster s h := rfl
@[simp] theorem cluster_putBytes (l : List (Nat × Byte)) (h : Nat) : cluster (putBytes s l) h = cluster s h := rfl
@[simp] theorem cluster_zeroRange (k n : Nat) (h : Nat) : cluster (zeroRange s k n) h = cluster s h := rfl
@[simp] theorem dbg_modGrp (g : Nat) (f : Group → Group) (h : Nat) : dbg (modGrp s g f) h = dbg s h := rfl
@[simp] theorem dbg_modImage (g : Nat) (f : Image → Image) (h : Nat) : dbg (modImage s g f) h = dbg s h := rfl
@[simp] theorem dbg_modThread (g th : Nat) (f : Thread → Thread) (h : Nat) : dbg (modThread s g th f) h = dbg s h := rfl
@[simp] theorem dbg_modBlock (g th b : Nat) (f : Block → Block) (h : Nat) : dbg (modBlock s g th b f) h = dbg s h := rfl
@[simp] theorem dbg_modGraph (g gi : Nat) (f : Graph → Graph) (h : Nat) : dbg (modGraph s g gi f) h = dbg s h := rfl
@[simp] theorem dbg_modTile (g gi n : Nat) (f : Tile → Tile) (h : Nat) : dbg (modTile s g gi n f) h = dbg s h := rfl
@[simp] theorem dbg_modCe (g gi n : Nat) (f : Ce → Ce) (h : Nat) : dbg (modCe s g gi n f) h = dbg s h := rfl
@[simp] theorem dbg_modSu (g gi n : Nat) (f : SuState → SuState) (h : Nat) : dbg (modSu s g gi n f) h = dbg s h := rfl
@[simp] theorem dbg_modMc (g gi n : Nat) (f : Mc → Mc) (h : Nat) : dbg (modMc s g gi n f) h = dbg s h := rfl
@[simp] theorem dbg_modMt (g gi n : Nat) (f : Mt → Mt) (h : Nat) : dbg (modMt s g gi n f) h = dbg s h := rfl
@[simp] theorem dbg_modMtFn (g gi n : Nat) (f : MtState → MtState) (h : Nat) : dbg (modMtFn s g gi n f) h = dbg s h := rfl
@[simp] theorem dbg_modAg (g gi n lane : Nat) (f : AgState → AgState) (h : Nat) : dbg (modAg s g gi n lane f) h = dbg s h := rfl
@[simp] theorem dbg_setCtx (c : Nat) (x : Context) (h : Nat) : dbg (setCtx s c x) h = dbg s h := rfl
@[simp] theorem dbg_modCtx (c : Nat) (f : Context → Context) (h : Nat) : dbg (modCtx s c f) h = dbg s h := rfl
@[simp] theorem dbg_setQueue (q : Nat) (x : Queue) (h : Nat) : dbg (setQueue s q x) h = dbg s h := rfl
@[simp] theorem dbg_modQueue (q : Nat) (f : Queue → Queue) (h : Nat) : dbg (modQueue s q f) h = dbg s h := rfl
@[simp] theorem dbg_setBarrier (b : Nat) (x : Barrier) (h : Nat) : dbg (setBarrier s b x) h = dbg s h := rfl
@[simp] theorem dbg_setFn (n : Nat) (x : Fn) (h : Nat) : dbg (setFn s n x) h = dbg s h := rfl
@[simp] theorem dbg_setLink (n : Nat) (x : Link) (h : Nat) : dbg (setLink s n x) h = dbg s h := rfl
@[simp] theorem dbg_modLink (n : Nat) (f : Link → Link) (h : Nat) : dbg (modLink s n f) h = dbg s h := rfl
@[simp] theorem dbg_setJob (j : Nat) (x : Job) (h : Nat) : dbg (setJob s j x) h = dbg s h := rfl
@[simp] theorem dbg_setCluster (c : Nat) (x : Cluster) (h : Nat) : dbg (setCluster s c x) h = dbg s h := rfl
@[simp] theorem dbg_modCluster (c : Nat) (f : Cluster → Cluster) (h : Nat) : dbg (modCluster s c f) h = dbg s h := rfl
@[simp] theorem dbg_wrBytes (k : Nat) (l : List Byte) (h : Nat) : dbg (wrBytes s k l) h = dbg s h := rfl
@[simp] theorem dbg_putBytes (l : List (Nat × Byte)) (h : Nat) : dbg (putBytes s l) h = dbg s h := rfl
@[simp] theorem dbg_zeroRange (k n : Nat) (h : Nat) : dbg (zeroRange s k n) h = dbg s h := rfl

/-! ## Reads of the part that has changed -/

@[simp] theorem grpOpt_modGrp_self (g : Nat) (f : Group → Group) : grp? (modGrp s g f) g = (grp? s g).map f := get?_modify_self ..
theorem grpOpt_modGrp_ne {g h : Nat} (f : Group → Group) (hh : h ≠ g) : grp? (modGrp s g f) h = grp? s h := get?_modify_ne _ _ hh
@[simp] theorem grpOpt_modImage_self (g : Nat) (f : Image → Image) : grp? (modImage s g f) g = (grp? s g).map fun x => { x with image := f x.image } := grpOpt_modGrp_self s g _
theorem grpOpt_modImage_ne {g h : Nat} (f : Image → Image) (hh : h ≠ g) : grp? (modImage s g f) h = grp? s h := grpOpt_modGrp_ne s _ hh

@[simp] theorem threadOpt_modThread_self (g th : Nat) (f : Thread → Thread) : thread? (modThread s g th f) g th = (thread? s g th).map f := by
  simp only [thread?, modThread, grpOpt_modImage_self]
  cases grp? s g <;> simp
theorem threadOpt_modThread_ne {g h th i : Nat} (f : Thread → Thread) (hh : h ≠ g ∨ i ≠ th) : thread? (modThread s g th f) h i = thread? s h i := by
  simp only [thread?, modThread]
  by_cases hg : h = g
  · subst hg
    rw [grpOpt_modImage_self]
    cases grp? s h with
    | none => rfl
    | some x => simpa using get?_modify_ne _ f (hh.resolve_left (fun h => h rfl))
  · rw [grpOpt_modImage_ne s _ hg]

@[simp] theorem blockOpt_modBlock_self (g th b : Nat) (f : Block → Block) : block? (modBlock s g th b f) g th b = (block? s g th b).map f := by
  simp only [block?, modBlock, threadOpt_modThread_self]
  cases thread? s g th <;> simp

@[simp] theorem graphOpt_modGraph_self (g gi : Nat) (f : Graph → Graph) : graph? (modGraph s g gi f) g gi = (graph? s g gi).map f := by
  simp only [graph?, modGraph, grpOpt_modImage_self]
  cases grp? s g <;> simp

@[simp] theorem tileOpt_modTile_self (g gi n : Nat) (f : Tile → Tile) : tile? (modTile s g gi n f) g gi n = (tile? s g gi n).map f := by
  simp only [tile?, modTile, graphOpt_modGraph_self]
  cases graph? s g gi <;> simp

@[simp] theorem ceOpt_modCe_self (g gi n : Nat) (f : Ce → Ce) : ce? (modCe s g gi n f) g gi n = (ce? s g gi n).map f := by
  simp only [ce?, modCe, tileOpt_modTile_self]
  cases tile? s g gi n <;> simp

@[simp] theorem suOpt_modSu_self (g gi n : Nat) (f : SuState → SuState) : su? (modSu s g gi n f) g gi n = (su? s g gi n).map fun u => { u with st := f u.st } := by
  simp only [su?, modSu, tileOpt_modTile_self]
  cases tile? s g gi n <;> simp

@[simp] theorem mcOpt_modMc_self (g gi n : Nat) (f : Mc → Mc) : mc? (modMc s g gi n f) g gi n = (mc? s g gi n).map f := by
  simp only [mc?, modMc, tileOpt_modTile_self]
  cases tile? s g gi n <;> simp

@[simp] theorem mtOpt_modMt_self (g gi n : Nat) (f : Mt → Mt) : mt? (modMt s g gi n f) g gi n = (mt? s g gi n).map f := by
  simp only [mt?, modMt, tileOpt_modTile_self]
  cases tile? s g gi n <;> simp

@[simp] theorem ctx_setCtx_self (k : Nat) (x : Context) : ctx (setCtx s k x) k = x := get_set_self ..
theorem ctx_setCtx_ne {k j : Nat} (x : Context) (h : j ≠ k) : ctx (setCtx s k x) j = ctx s j := get_set_ne _ _ _ h
@[simp] theorem ctx_modCtx_self (k : Nat) (f : Context → Context) : ctx (modCtx s k f) k = f (ctx s k) := get_set_self ..
theorem ctx_modCtx_ne {k j : Nat} (f : Context → Context) (h : j ≠ k) : ctx (modCtx s k f) j = ctx s j := get_set_ne _ _ _ h
@[simp] theorem queue_setQueue_self (k : Nat) (x : Queue) : queue (setQueue s k x) k = x := get_set_self ..
theorem queue_setQueue_ne {k j : Nat} (x : Queue) (h : j ≠ k) : queue (setQueue s k x) j = queue s j := get_set_ne _ _ _ h
@[simp] theorem queue_modQueue_self (k : Nat) (f : Queue → Queue) : queue (modQueue s k f) k = f (queue s k) := get_set_self ..
theorem queue_modQueue_ne {k j : Nat} (f : Queue → Queue) (h : j ≠ k) : queue (modQueue s k f) j = queue s j := get_set_ne _ _ _ h
@[simp] theorem barrier_setBarrier_self (k : Nat) (x : Barrier) : barrier (setBarrier s k x) k = x := get_set_self ..
theorem barrier_setBarrier_ne {k j : Nat} (x : Barrier) (h : j ≠ k) : barrier (setBarrier s k x) j = barrier s j := get_set_ne _ _ _ h
@[simp] theorem fnOf_setFn_self (k : Nat) (x : Fn) : fnOf (setFn s k x) k = x := get_set_self ..
theorem fnOf_setFn_ne {k j : Nat} (x : Fn) (h : j ≠ k) : fnOf (setFn s k x) j = fnOf s j := get_set_ne _ _ _ h
@[simp] theorem link_setLink_self (k : Nat) (x : Link) : link (setLink s k x) k = x := get_set_self ..
theorem link_setLink_ne {k j : Nat} (x : Link) (h : j ≠ k) : link (setLink s k x) j = link s j := get_set_ne _ _ _ h
@[simp] theorem link_modLink_self (k : Nat) (f : Link → Link) : link (modLink s k f) k = f (link s k) := get_set_self ..
theorem link_modLink_ne {k j : Nat} (f : Link → Link) (h : j ≠ k) : link (modLink s k f) j = link s j := get_set_ne _ _ _ h
@[simp] theorem job_setJob_self (k : Nat) (x : Job) : job (setJob s k x) k = x := get_set_self ..
theorem job_setJob_ne {k j : Nat} (x : Job) (h : j ≠ k) : job (setJob s k x) j = job s j := get_set_ne _ _ _ h
@[simp] theorem cluster_setCluster_self (k : Nat) (x : Cluster) : cluster (setCluster s k x) k = x := get_set_self ..
theorem cluster_setCluster_ne {k j : Nat} (x : Cluster) (h : j ≠ k) : cluster (setCluster s k x) j = cluster s j := get_set_ne _ _ _ h
@[simp] theorem cluster_modCluster_self (k : Nat) (f : Cluster → Cluster) : cluster (modCluster s k f) k = f (cluster s k) := get_set_self ..
theorem cluster_modCluster_ne {k j : Nat} (f : Cluster → Cluster) (h : j ≠ k) : cluster (modCluster s k f) j = cluster s j := get_set_ne _ _ _ h
@[simp] theorem dbg_setDbg_self (k : Nat) (x : Dbg) : dbg (setDbg s k x) k = x := get_set_self ..
theorem dbg_setDbg_ne {k j : Nat} (x : Dbg) (h : j ≠ k) : dbg (setDbg s k x) j = dbg s j := get_set_ne _ _ _ h

end Sys2Proof.Laws
end

