-- ==== Sys2Proof/Laws/Ops.lean ====
section
/-! SUPPORT. The shared operations: what each can do to storage and to the parts of the state that it is not about, and what it does. The provers cite these instead of unfolding. -/

namespace Sys2Proof.Laws

open Sys2Proof.Machine

/-- A fold of steps that each keep a property keeps it. -/
theorem foldl_keeps {α σ : Type} (P : σ → Prop) (f : σ → α → σ) (hf : ∀ s a, P s → P (f s a)) (l : List α) {s : σ} (h : P s) : P (l.foldl f s) := by
  induction l generalizing s with
  | nil => exact h
  | cons a r ih => exact ih (hf s a h)

/-- A fold of steps that each leave a part as it is leaves it. -/
theorem foldl_same {α σ β : Type} (p : σ → β) (f : σ → α → σ) (hf : ∀ s a, p (f s a) = p s) (l : List α) (s : σ) : p (l.foldl f s) = p s := by
  induction l generalizing s with
  | nil => rfl
  | cons a r ih => rw [List.foldl_cons, ih, hf]

/-! ## Records, events, fatal faults -/

@[simp] theorem record_eq (s : State) (cl cls code tile c payload : Nat) :
    record s cl cls code tile c payload = setCluster s cl (recordAt s.dtime cls code tile c payload (cluster s cl)) := rfl

@[simp] theorem recordAll_mem (s : State) (cls code c payload : Nat) (l : List Nat) : (recordAll s cls code c payload l).mem = s.mem :=
  by unfold recordAll; exact foldl_same State.mem _ (fun _ _ => by simp) l s

@[simp] theorem recordAll_groups (s : State) (cls code c payload : Nat) (l : List Nat) : (recordAll s cls code c payload l).groups = s.groups :=
  by unfold recordAll; exact foldl_same State.groups _ (fun _ _ => by simp) l s

@[simp] theorem schRecord_mem (s : State) (g code payload : Nat) : (schRecord s g code payload).mem = s.mem := by
  unfold schRecord; split <;> simp

@[simp] theorem schRecord_groups (s : State) (g code payload : Nat) : (schRecord s g code payload).groups = s.groups := by
  unfold schRecord; split <;> simp

@[simp] theorem devRecord_mem (s : State) (cls code payload : Nat) : (devRecord s cls code payload).mem = s.mem := rfl
@[simp] theorem devRecord_groups (s : State) (cls code payload : Nat) : (devRecord s cls code payload).groups = s.groups := rfl

/-- A function without an event ring takes no event. -/
theorem event_none (s : State) (f code c q err low : Nat) (h : (fnOf s f).evsize = 0) : event s f code c q err low = s := by simp [event, h]

/-- An event with room in the ring is written at its place, and EVPROD counts it (R296). -/
theorem event_room (s : State) (f code c q err low : Nat) (h0 : (fnOf s f).evsize.toNat ≠ 0)
    (h1 : ((fnOf s f).evprod - (fnOf s f).evcons).toNat ≠ 2 ^ (fnOf s f).evsize.toNat) :
    event s f code c q err low = setFn
      (wrNum s (physKey ((fnOf s f).evbase.toNat + 16 * ((fnOf s f).evprod.toNat % 2 ^ (fnOf s f).evsize.toNat))) 16
        (code + c % 4096 * 2 ^ 8 + q % 4096 * 2 ^ 20 + err % 256 * 2 ^ 32 + low % 2 ^ 24 * 2 ^ 40 + s.dtime % 2 ^ 64 * 2 ^ 64))
      f { fnOf s f with evprod := (fnOf s f).evprod + 1 } := by
  simp only [event, if_neg h0, if_neg h1]

theorem wf_event {s : State} (f code c q err low : Nat) (h : Memory.wf s.mem = true) : Memory.wf (event s f code c q err low).mem = true := by
  by_cases h0 : (fnOf s f).evsize.toNat = 0
  · rw [event_none _ _ _ _ _ _ _ (BitVec.eq_of_toNat_eq h0)]; exact h
  · by_cases h1 : ((fnOf s f).evprod - (fnOf s f).evcons).toNat = 2 ^ (fnOf s f).evsize.toNat
    · simp only [event, if_neg h0, if_pos h1]; exact h
    · rw [event_room _ _ _ _ _ _ _ h0 h1, setFn_mem]; exact wf_wrNum _ _ _ h

@[simp] theorem event_groups (s : State) (f code c q err low : Nat) : (event s f code c q err low).groups = s.groups := by
  by_cases h0 : (fnOf s f).evsize.toNat = 0
  · rw [event_none _ _ _ _ _ _ _ (BitVec.eq_of_toNat_eq h0)]
  · by_cases h1 : ((fnOf s f).evprod - (fnOf s f).evcons).toNat = 2 ^ (fnOf s f).evsize.toNat
    · simp only [event, if_neg h0, if_pos h1, setFn_groups]
    · rw [event_room _ _ _ _ _ _ _ h0 h1, setFn_groups]; rfl

/-- A second fatal fault changes nothing (R432). -/
theorem raiseFatal_again (s : State) (w : Wave) (code : Nat) (o : Option Nat) (work : Nat) (h : s.wave = some w) : raiseFatal s code o work = s := by
  simp [raiseFatal, h]

@[simp] theorem raiseFatal_mem (s : State) (code : Nat) (o : Option Nat) (work : Nat) : (raiseFatal s code o work).mem = s.mem := by unfold raiseFatal; split <;> rfl
@[simp] theorem raiseFatal_groups (s : State) (code : Nat) (o : Option Nat) (work : Nat) : (raiseFatal s code o work).groups = s.groups := by unfold raiseFatal; split <;> rfl

/-! ## Faults -/

@[simp] theorem blockFault_mem (s : State) (g th b : Nat) (slot : Option Nat) (code cause : Nat) (wr : Bool) (addr : Nat) :
    (blockFault s g th b slot code cause wr addr).mem = s.mem := rfl

/-- The first fault of a block is kept whole (R359). -/
theorem blockFault_first (s : State) (g th b : Nat) (slot : Option Nat) (code cause : Nat) (wr : Bool) (addr : Nat) (k : Block)
    (hk : block? s g th b = some k) (hf : k.fault = none) :
    block? (blockFault s g th b slot code cause wr addr) g th b
      = some { k with fault := some { slot := slot, code := code, cause := cause, wr := wr, addr := addr } } := by
  simp [blockFault, hk, hf]

/-- A later fault of a lower slot takes the place of an earlier one, and no other does (R359). -/
theorem blockFault_second (s : State) (g th b i j : Nat) (code cause : Nat) (wr : Bool) (addr : Nat) (k : Block) (old : FaultInfo)
    (hk : block? s g th b = some k) (hf : k.fault = some old) (hs : old.slot = some i) :
    block? (blockFault s g th b (some j) code cause wr addr) g th b
      = some (if j < i then { k with fault := some { slot := some j, code := code, cause := cause, wr := wr, addr := addr } } else k) := by
  simp only [blockFault, blockOpt_modBlock_self, hk, Option.map_some, hf, hs]

@[simp] theorem raiseFreeze_mem (s : State) (g code cause addr work : Nat) : (raiseFreeze s g code cause addr work).mem = s.mem := rfl
@[simp] theorem elemFreeze_mem (s : State) (g gi t code : Nat) : (elemFreeze s g gi t code).mem = s.mem := rfl

/-- The first freeze of a group starts its skid (R369). -/
theorem raiseFreeze_first (s : State) (g code cause addr work : Nat) (x : Group) (hx : grp? s g = some x) (hf : x.freeze = none) :
    grp? (raiseFreeze s g code cause addr work) g
      = some { x with freeze := some { slot := some work, code := code, cause := cause, wr := false, addr := addr }, frozenAt := s.cycle, drove := [work], skids := [] } := by
  simp [raiseFreeze, hx, hf]

/-- A freeze of a later cycle only stops the element that drives it (R369). -/
theorem raiseFreeze_again (s : State) (g code cause addr work : Nat) (x : Group) (f : FaultInfo) (hx : grp? s g = some x) (hf : x.freeze = some f) (hc : x.frozenAt ≠ s.cycle) :
    grp? (raiseFreeze s g code cause addr work) g = some { x with drove := work :: x.drove } := by
  simp [raiseFreeze, hx, hf, hc]

/-- Without a freeze nothing counts as skid. -/
theorem addSkid_live (s : State) (g work n : Nat) (x : Group) (hx : grp? s g = some x) (hf : x.freeze = none) : addSkid s g work n = s := by
  simp [addSkid, hx, hf]

@[simp] theorem addSkid_mem (s : State) (g work n : Nat) : (addSkid s g work n).mem = s.mem := by
  unfold addSkid; split
  · rfl
  · split <;> rfl

@[simp] theorem discardBlocks_mem (s : State) (g th : Nat) : (discardBlocks s g th).mem = s.mem := rfl

/-- Handler entry outside trap mode with a handler (R360): FLTCODE and FLTADDR written, trap mode on, w0 of the trap window holding FLTCODE, FLTADDR, RETRY, depth, WINTOP and DTIME, PC at TRAPVEC. -/
theorem trapEntry_enters (s : State) (g th : Nat) (f : FaultInfo) (perf : Bool) (retry : Nat) (t : Thread)
    (ht : thread? s g th = some t) (hm : t.trapMode = false) (hv : t.trapvec ≠ 0) :
    (trapEntry s g th f perf retry).2 = none
    ∧ thread? (trapEntry s g th f perf retry).1 g th = some { t with
        fltcode := fltcodeOf f perf, fltaddr := BitVec.ofNat 64 f.addr, trapMode := true
        trapWindow := packList 1024 64 [(fltcodeOf f perf).toNat, f.addr, retry, t.callers.length, t.wintop.toNat, s.dtime] :: t.trapWindow.drop 1
        pc := t.trapvec.toNat, from_ := retry } := by
  simp only [trapEntry, ht, hm, if_neg hv, Bool.false_eq_true, if_false, threadOpt_modThread_self, Option.map_some, true_and, modThread_dtime]

/-- In trap mode it is a double fault (R360). -/
theorem trapEntry_double (s : State) (g th : Nat) (f : FaultInfo) (perf : Bool) (retry : Nat) (t : Thread)
    (ht : thread? s g th = some t) (hm : t.trapMode = true) : (trapEntry s g th f perf retry).2 = some (0x33, f.code) := by
  simp [trapEntry, ht, hm]

/-- Without a handler the group ends with the fault's own code and cause (R360). -/
theorem trapEntry_ends (s : State) (g th : Nat) (f : FaultInfo) (perf : Bool) (retry : Nat) (t : Thread)
    (ht : thread? s g th = some t) (hm : t.trapMode = false) (hv : t.trapvec = 0) : (trapEntry s g th f perf retry).2 = some (f.code, f.cause) := by
  simp [trapEntry, ht, hm, hv]

@[simp] theorem trapEntry_mem (s : State) (g th : Nat) (f : FaultInfo) (perf : Bool) (retry : Nat) : (trapEntry s g th f perf retry).1.mem = s.mem := by
  unfold trapEntry; split
  · rfl
  · dsimp only; split
    · rfl
    · split <;> rfl

/-- Return from a trap (R365). -/
theorem trapReturn_thread (s : State) (g th target : Nat) (t : Thread) (ht : thread? s g th = some t) :
    thread? (trapReturn s g th target) g th = some { t with trapMode := false, pc := target % 2 ^ 57 / 32 * 32 } := by
  simp [trapReturn, ht]

@[simp] theorem trapReturn_mem (s : State) (g th target : Nat) : (trapReturn s g th target).mem = s.mem := rfl

/-! ## Debug units that watch -/

@[simp] theorem stopGang_mem (s : State) (g : Nat) (x : Group) : (stopGang s g x).mem = s.mem := by unfold stopGang; split <;> rfl

@[simp] theorem trigger_mem (s : State) (u why idx work hit : Nat) : (trigger s u why idx work hit).mem = s.mem := by
  unfold trigger; dsimp only; split
  · rfl
  · split
    · rfl
    · split
      · rfl
      · split <;> simp

@[simp] theorem watch_mem (s : State) (g work hit : Nat) (wr : Bool) (m : Word → Word → Bool) : (watch s g work hit wr m).mem = s.mem := by
  unfold watch
  refine foldl_same State.mem _ (fun s p => ?_) _ _
  dsimp only; split
  · split <;> simp
  · rfl

/-- Without a debug unit nothing watches. -/
theorem watch_none (s : State) (g work hit : Nat) (wr : Bool) (m : Word → Word → Bool) (h : s.dbgs = []) : watch s g work hit wr m = s := by simp [watch, h]

@[simp] theorem watchPad_mem (s : State) (g work : Nat) (sp : MvSpace) (o : Nat) (wr : Bool) : (watchPad s g work sp o wr).mem = s.mem := watch_mem ..

theorem watchPad_none (s : State) (g work : Nat) (sp : MvSpace) (o : Nat) (wr : Bool) (h : s.dbgs = []) : watchPad s g work sp o wr = s := watch_none _ _ _ _ _ _ h

@[simp] theorem watchEntry_mem (s : State) (g work tile frame slot : Nat) (o : Opnd) (wr : Bool) : (watchEntry s g work tile frame slot o wr).mem = s.mem := by
  unfold watchEntry; split <;> simp

@[simp] theorem watchBlock_mem (s : State) (g th : Nat) (k : Block) (slot : Nat) (o : Opnd) (wr : Bool) : (watchBlock s g th k slot o wr).mem = s.mem := by
  unfold watchBlock; split
  · rfl
  · split <;> simp

theorem watchBlock_none (s : State) (g th : Nat) (k : Block) (slot : Nat) (o : Opnd) (wr : Bool) (h : s.dbgs = []) : watchBlock s g th k slot o wr = s := by
  simp [watchBlock, h]

@[simp] theorem spoob_mem (s : State) (g cl : Nat) (sp : MvSpace) (o : Nat) : (spoob s g cl sp o).mem = s.mem := by
  unfold spoob spoobAt; dsimp only; split <;> rfl

/-! ## A slot of a block -/

@[simp] theorem markFired_mem (s : State) (g th b slot : Nat) : (markFired s g th b slot).mem = s.mem := by
  unfold markFired; dsimp only; rw [modBlock_mem]; split
  · split
    · rfl
    · exact foldl_same State.mem _ (fun _ _ => watchBlock_mem ..) _ _
  · rfl

/-- Without a debug unit, a slot that fires is marked and nothing else happens. -/
theorem markFired_eq (s : State) (g th b slot : Nat) (h : s.dbgs = []) : markFired s g th b slot = modBlock s g th b fun k => { k with fired := slot :: k.fired } := by
  unfold markFired; dsimp only; split <;> simp [h]

@[simp] theorem arrive_mem (s : State) (g th b slot : Nat) (t : Option Target) (v : BEntry) : (arrive s g th b slot t v).mem = s.mem := by
  unfold arrive; split
  · rfl
  · dsimp only; split
    · rfl
    · split
      · rfl
      · rw [modBlock_mem]; split <;> simp

/-- A target that is not used takes nothing. -/
@[simp] theorem arrive_none (s : State) (g th b slot : Nat) (v : BEntry) : arrive s g th b slot none v = s := rfl

/-- The first value for an entry fills it (R171). -/
theorem arrive_first (s : State) (g th b slot : Nat) (t : Target) (v : BEntry) (k : Block) (hd : s.dbgs = []) (hk : block? s g th b = some k)
    (he : entry? k t.slot.toNat t.opnd = none) :
    block? (arrive s g th b slot (some t) v) g th b = some { k with entries := Tab.set k.entries (entryKey t.slot.toNat t.opnd) v } := by
  have he' : Tab.get? k.entries (entryKey t.slot.toNat t.opnd) = none := he
  simp only [arrive, hk, he', Option.isSome_none, Bool.false_eq_true, if_false, watchBlock_none _ _ _ _ _ _ _ hd, ite_self, blockOpt_modBlock_self, Option.map_some]

/-- A second value keeps the first and raises BLOCK_DUP (R171). -/
theorem arrive_again (s : State) (g th b slot : Nat) (t : Target) (v e : BEntry) (k : Block) (hk : block? s g th b = some k)
    (he : entry? k t.slot.toNat t.opnd = some e) : arrive s g th b slot (some t) v = blockFault s g th b (some slot) 2 0 false k.addr := by
  have he' : Tab.get? k.entries (entryKey t.slot.toNat t.opnd) = some e := he
  simp only [arrive, hk, he', Option.isSome_some, if_true]

@[simp] theorem deliver_mem (s : State) (g th b slot : Nat) (t0 t1 : Option Target) (v : BEntry) : (deliver s g th b slot t0 t1 v).mem = s.mem := by simp [deliver]

@[simp] theorem setLfsr_mem (s : State) (g tile : Nat) (v : BitVec 32) : (setLfsr s g tile v).mem = s.mem := rfl

@[simp] theorem blockFlags_mem (s : State) (g th b slot : Nat) (fl : FlagSet) : (blockFlags s g th b slot fl).mem = s.mem := by
  unfold blockFlags; split
  · rfl
  · split <;> rfl

/-- An element-wise firing of a block stores nothing. -/
@[simp] theorem fireBlock_mem (s : State) (g th b slot : Nat) (pr : Pred) (ua ub uc : Bool) (t0 t1 : Option Target)
    (f : Value → Value → Value → BitVec 32 → Value × FlagSet × BitVec 32) : (fireBlock s g th b slot pr ua ub uc t0 t1 f).mem = s.mem := by
  unfold fireBlock; split
  · rfl
  · split
    · rfl
    · simp
    · simp
    · split
      · rfl
      · split
        · rfl
        · dsimp only; rw [blockFlags_mem, deliver_mem]; split <;> simp

/-- What a firing does when its entries hold values, its predicate holds and no lower slot is ready (R53, R142, R171). -/
theorem fireBlock_go (s : State) (g th b slot : Nat) (pr : Pred) (ua ub uc : Bool) (t0 t1 : Option Target) (f : Value → Value → Value → BitVec 32 → Value × FlagSet × BitVec 32)
    (k : Block) (x : Group) (va vb vc : Value) (hk : firing? s g th b slot = some k) (ht : takeEntries k slot pr ua ub uc = .go va vb vc)
    (hl : lowerReady s g th k slot = false) (hx : grp? s g = some x) :
    fireBlock s g th b slot pr ua ub uc t0 t1 f =
      let r := f va vb vc (lfsrOf x (ceTile k th slot))
      blockFlags (deliver (if r.2.2 = lfsrOf x (ceTile k th slot) then markFired s g th b slot else setLfsr (markFired s g th b slot) g (ceTile k th slot) r.2.2)
        g th b slot t0 t1 (.val r.1)) g th b slot r.2.1 := by
  unfold fireBlock
  simp only [hk, ht, hl, hx, Bool.false_eq_true, if_false]

theorem fireBlock_untaken (s : State) (g th b slot : Nat) (pr : Pred) (ua ub uc : Bool) (t0 t1 : Option Target) (f : Value → Value → Value → BitVec 32 → Value × FlagSet × BitVec 32)
    (k : Block) (hk : firing? s g th b slot = some k) (ht : takeEntries k slot pr ua ub uc = .untaken) :
    fireBlock s g th b slot pr ua ub uc t0 t1 f = markFired s g th b slot := by simp only [fireBlock, hk, ht]

theorem fireBlock_nulled (s : State) (g th b slot : Nat) (pr : Pred) (ua ub uc : Bool) (t0 t1 : Option Target) (f : Value → Value → Value → BitVec 32 → Value × FlagSet × BitVec 32)
    (k : Block) (hk : firing? s g th b slot = some k) (ht : takeEntries k slot pr ua ub uc = .nulled) :
    fireBlock s g th b slot pr ua ub uc t0 t1 f = deliver (markFired s g th b slot) g th b slot t0 t1 .void := by simp only [fireBlock, hk, ht]

theorem fireBlock_wait (s : State) (g th b slot : Nat) (pr : Pred) (ua ub uc : Bool) (t0 t1 : Option Target) (f : Value → Value → Value → BitVec 32 → Value × FlagSet × BitVec 32)
    (k : Block) (hk : firing? s g th b slot = some k) (ht : takeEntries k slot pr ua ub uc = .wait) :
    fireBlock s g th b slot pr ua ub uc t0 t1 f = s := by simp only [fireBlock, hk, ht]

/-! ## Channels -/

@[simp] theorem wake_mem (s : State) (g : Nat) : (wake s g).mem = s.mem := rfl
@[simp] theorem consume_mem (s : State) (g gi tile sink n : Nat) : (consume s g gi tile sink n).mem = s.mem := by unfold consume; split <;> rfl
@[simp] theorem dropMark_mem (s : State) (g gi tile sink c : Nat) : (dropMark s g gi tile sink c).mem = s.mem := by unfold dropMark; split <;> rfl
@[simp] theorem wakeSaved_mem (s : State) (p : Nat → Nat → WakeOn → Bool) : (wakeSaved s p).mem = s.mem := rfl

@[simp] theorem wakeRecords_mem (before s : State) : (wakeRecords before s).mem = s.mem := by
  unfold wakeRecords
  refine foldl_same State.mem _ (fun s p => ?_) _ _
  dsimp only; split
  · split <;> rfl
  · rfl

@[simp] theorem wakeOn_mem (s : State) (p : Nat → Nat → WakeOn → Bool) : (wakeOn s p).mem = s.mem := by simp [wakeOn]

/-! ## Time -/

/-- What the head of the agenda leaves behind: time, the site, and clusters whose queued records reach their rings; everything else as it was. -/
theorem passTime_same (s : State) (ns cycles : Nat) :
    (passTime s ns cycles).mem = s.mem ∧ (passTime s ns cycles).groups = s.groups ∧ (passTime s ns cycles).agenda = s.agenda ∧ (passTime s ns cycles).site = s.site
      ∧ (passTime s ns cycles).contexts = s.contexts ∧ (passTime s ns cycles).queues = s.queues ∧ (passTime s ns cycles).barriers = s.barriers
      ∧ (passTime s ns cycles).dtime = (s.dtime + ns) % 2 ^ 64 ∧ (passTime s ns cycles).cycle = s.cycle + cycles := by
  unfold passTime; dsimp only; split <;> simp

/-- Owners' writes that are due keep the canonical form, and without one nothing is done (R130). -/
theorem wf_ownerSettle {s : State} (h : Memory.wf s.mem = true) : Memory.wf (ownerSettle s).mem = true := by
  unfold ownerSettle; split
  · exact h
  · exact foldl_keeps (fun s : State => Memory.wf s.mem = true) (fun s (w : Nat × Nat × Nat) => wrNum s w.1 w.2.1 w.2.2) (fun _ w hs => wf_wrNum w.1 w.2.1 w.2.2 hs) _ h

@[simp] theorem ownerSettle_none (s : State) (h : s.ownerWrites = []) : ownerSettle s = s := by simp [ownerSettle, h]

/-- The agenda's head changes storage by the owners' writes that are due alone. -/
theorem begin_mem (s : State) (a : Sched) (rest : List Sched) : (begin_ s a rest).mem = (if ownerWaits a then s else ownerSettle s).mem := (passTime_same ..).1

theorem wf_begin {s : State} (a : Sched) (rest : List Sched) (h : Memory.wf s.mem = true) : Memory.wf (begin_ s a rest).mem = true := by
  rw [begin_mem]; split
  · exact h
  · exact wf_ownerSettle h

end Sys2Proof.Laws
end

