-- ==== Sys2Proof/Laws/PerInstr.lean ====
section
/-! SUPPORT. What is true of every instruction as syntax, one lemma for each constructor. -/

/-- An instruction is a word, a frame or an event, and only one of them: it has a word exactly where it has parts, a frame exactly where it has a frame's opcode, and an event has neither. -/
def Sys2Proof.Laws.Encoded.Statement (i : Sys2Proof.Instr) : Prop :=
  (Sys2Proof.encode i).isSome = (Sys2Proof.Machine.Instr.parts i).isSome
  ∧ (Sys2Proof.encodeFrame i).isSome = (Sys2Proof.Machine.Instr.frameOp i).isSome
  ∧ ((Sys2Proof.Machine.Instr.parts i).isSome && (Sys2Proof.Machine.Instr.frameOp i).isSome) = false
  ∧ Sys2Proof.Machine.Instr.isEvent i = ((Sys2Proof.encode i).isNone && (Sys2Proof.encodeFrame i).isNone)

open Sys2Proof

theorem Sys2Proof.Laws.Encoded.add (f : GFields) : Sys2Proof.Laws.Encoded.Statement (Instr.add f) := ⟨rfl, rfl, rfl, rfl⟩
theorem Sys2Proof.Laws.Encoded.sub (f : GFields) : Sys2Proof.Laws.Encoded.Statement (Instr.sub f) := ⟨rfl, rfl, rfl, rfl⟩
theorem Sys2Proof.Laws.Encoded.mul (f : GFields) : Sys2Proof.Laws.Encoded.Statement (Instr.mul f) := ⟨rfl, rfl, rfl, rfl⟩
theorem Sys2Proof.Laws.Encoded.mulh (f : GFields) : Sys2Proof.Laws.Encoded.Statement (Instr.mulh f) := ⟨rfl, rfl, rfl, rfl⟩
theorem Sys2Proof.Laws.Encoded.div (f : GFields) : Sys2Proof.Laws.Encoded.Statement (Instr.div f) := ⟨rfl, rfl, rfl, rfl⟩
theorem Sys2Proof.Laws.Encoded.rem (f : GFields) : Sys2Proof.Laws.Encoded.Statement (Instr.rem f) := ⟨rfl, rfl, rfl, rfl⟩
theorem Sys2Proof.Laws.Encoded.min (f : GFields) : Sys2Proof.Laws.Encoded.Statement (Instr.min f) := ⟨rfl, rfl, rfl, rfl⟩
theorem Sys2Proof.Laws.Encoded.max (f : GFields) : Sys2Proof.Laws.Encoded.Statement (Instr.max f) := ⟨rfl, rfl, rfl, rfl⟩
theorem Sys2Proof.Laws.Encoded.abs (f : GFields) : Sys2Proof.Laws.Encoded.Statement (Instr.abs f) := ⟨rfl, rfl, rfl, rfl⟩
theorem Sys2Proof.Laws.Encoded.mad (f : GFields) : Sys2Proof.Laws.Encoded.Statement (Instr.mad f) := ⟨rfl, rfl, rfl, rfl⟩
theorem Sys2Proof.Laws.Encoded.and (f : GFields) : Sys2Proof.Laws.Encoded.Statement (Instr.and f) := ⟨rfl, rfl, rfl, rfl⟩
theorem Sys2Proof.Laws.Encoded.or (f : GFields) : Sys2Proof.Laws.Encoded.Statement (Instr.or f) := ⟨rfl, rfl, rfl, rfl⟩
theorem Sys2Proof.Laws.Encoded.xor (f : GFields) : Sys2Proof.Laws.Encoded.Statement (Instr.xor f) := ⟨rfl, rfl, rfl, rfl⟩
theorem Sys2Proof.Laws.Encoded.not (f : GFields) : Sys2Proof.Laws.Encoded.Statement (Instr.not f) := ⟨rfl, rfl, rfl, rfl⟩
theorem Sys2Proof.Laws.Encoded.andn (f : GFields) : Sys2Proof.Laws.Encoded.Statement (Instr.andn f) := ⟨rfl, rfl, rfl, rfl⟩
theorem Sys2Proof.Laws.Encoded.shl (f : GFields) : Sys2Proof.Laws.Encoded.Statement (Instr.shl f) := ⟨rfl, rfl, rfl, rfl⟩
theorem Sys2Proof.Laws.Encoded.shr (f : GFields) : Sys2Proof.Laws.Encoded.Statement (Instr.shr f) := ⟨rfl, rfl, rfl, rfl⟩
theorem Sys2Proof.Laws.Encoded.sra (f : GFields) : Sys2Proof.Laws.Encoded.Statement (Instr.sra f) := ⟨rfl, rfl, rfl, rfl⟩
theorem Sys2Proof.Laws.Encoded.rol (f : GFields) : Sys2Proof.Laws.Encoded.Statement (Instr.rol f) := ⟨rfl, rfl, rfl, rfl⟩
theorem Sys2Proof.Laws.Encoded.ror (f : GFields) : Sys2Proof.Laws.Encoded.Statement (Instr.ror f) := ⟨rfl, rfl, rfl, rfl⟩
theorem Sys2Proof.Laws.Encoded.bfx (f : GFields) : Sys2Proof.Laws.Encoded.Statement (Instr.bfx f) := ⟨rfl, rfl, rfl, rfl⟩
theorem Sys2Proof.Laws.Encoded.bfi (f : GFields) : Sys2Proof.Laws.Encoded.Statement (Instr.bfi f) := ⟨rfl, rfl, rfl, rfl⟩
theorem Sys2Proof.Laws.Encoded.cmp (f : GFields) (cc : Cc) : Sys2Proof.Laws.Encoded.Statement (Instr.cmp f cc) := ⟨rfl, rfl, rfl, rfl⟩
theorem Sys2Proof.Laws.Encoded.sel (f : GFields) : Sys2Proof.Laws.Encoded.Statement (Instr.sel f) := ⟨rfl, rfl, rfl, rfl⟩
theorem Sys2Proof.Laws.Encoded.adda (f : GFields) : Sys2Proof.Laws.Encoded.Statement (Instr.adda f) := ⟨rfl, rfl, rfl, rfl⟩
theorem Sys2Proof.Laws.Encoded.movk (f : KFields) : Sys2Proof.Laws.Encoded.Statement (Instr.movk f) := ⟨rfl, rfl, rfl, rfl⟩
theorem Sys2Proof.Laws.Encoded.movkh (f : KFields) : Sys2Proof.Laws.Encoded.Statement (Instr.movkh f) := ⟨rfl, rfl, rfl, rfl⟩
theorem Sys2Proof.Laws.Encoded.fadd (f : GFields) : Sys2Proof.Laws.Encoded.Statement (Instr.fadd f) := ⟨rfl, rfl, rfl, rfl⟩
theorem Sys2Proof.Laws.Encoded.fsub (f : GFields) : Sys2Proof.Laws.Encoded.Statement (Instr.fsub f) := ⟨rfl, rfl, rfl, rfl⟩
theorem Sys2Proof.Laws.Encoded.fmul (f : GFields) : Sys2Proof.Laws.Encoded.Statement (Instr.fmul f) := ⟨rfl, rfl, rfl, rfl⟩
theorem Sys2Proof.Laws.Encoded.fma (f : GFields) : Sys2Proof.Laws.Encoded.Statement (Instr.fma f) := ⟨rfl, rfl, rfl, rfl⟩
theorem Sys2Proof.Laws.Encoded.fdiv (f : GFields) : Sys2Proof.Laws.Encoded.Statement (Instr.fdiv f) := ⟨rfl, rfl, rfl, rfl⟩
theorem Sys2Proof.Laws.Encoded.fsqrt (f : GFields) : Sys2Proof.Laws.Encoded.Statement (Instr.fsqrt f) := ⟨rfl, rfl, rfl, rfl⟩
theorem Sys2Proof.Laws.Encoded.frcp (f : GFields) : Sys2Proof.Laws.Encoded.Statement (Instr.frcp f) := ⟨rfl, rfl, rfl, rfl⟩
theorem Sys2Proof.Laws.Encoded.frsq (f : GFields) : Sys2Proof.Laws.Encoded.Statement (Instr.frsq f) := ⟨rfl, rfl, rfl, rfl⟩
theorem Sys2Proof.Laws.Encoded.fexp2 (f : GFields) : Sys2Proof.Laws.Encoded.Statement (Instr.fexp2 f) := ⟨rfl, rfl, rfl, rfl⟩
theorem Sys2Proof.Laws.Encoded.flog2 (f : GFields) : Sys2Proof.Laws.Encoded.Statement (Instr.flog2 f) := ⟨rfl, rfl, rfl, rfl⟩
theorem Sys2Proof.Laws.Encoded.fsin (f : GFields) : Sys2Proof.Laws.Encoded.Statement (Instr.fsin f) := ⟨rfl, rfl, rfl, rfl⟩
theorem Sys2Proof.Laws.Encoded.fcos (f : GFields) : Sys2Proof.Laws.Encoded.Statement (Instr.fcos f) := ⟨rfl, rfl, rfl, rfl⟩
theorem Sys2Proof.Laws.Encoded.ftanh (f : GFields) : Sys2Proof.Laws.Encoded.Statement (Instr.ftanh f) := ⟨rfl, rfl, rfl, rfl⟩
theorem Sys2Proof.Laws.Encoded.fsigm (f : GFields) : Sys2Proof.Laws.Encoded.Statement (Instr.fsigm f) := ⟨rfl, rfl, rfl, rfl⟩
theorem Sys2Proof.Laws.Encoded.fscale (f : GFields) : Sys2Proof.Laws.Encoded.Statement (Instr.fscale f) := ⟨rfl, rfl, rfl, rfl⟩
theorem Sys2Proof.Laws.Encoded.fmin (f : GFields) : Sys2Proof.Laws.Encoded.Statement (Instr.fmin f) := ⟨rfl, rfl, rfl, rfl⟩
theorem Sys2Proof.Laws.Encoded.fmax (f : GFields) : Sys2Proof.Laws.Encoded.Statement (Instr.fmax f) := ⟨rfl, rfl, rfl, rfl⟩
theorem Sys2Proof.Laws.Encoded.fabs (f : GFields) : Sys2Proof.Laws.Encoded.Statement (Instr.fabs f) := ⟨rfl, rfl, rfl, rfl⟩
theorem Sys2Proof.Laws.Encoded.frint (f : GFields) : Sys2Proof.Laws.Encoded.Statement (Instr.frint f) := ⟨rfl, rfl, rfl, rfl⟩
theorem Sys2Proof.Laws.Encoded.fcmp (f : GFields) (cc : Fcc) : Sys2Proof.Laws.Encoded.Statement (Instr.fcmp f cc) := ⟨rfl, rfl, rfl, rfl⟩
theorem Sys2Proof.Laws.Encoded.fclass (f : GFields) : Sys2Proof.Laws.Encoded.Statement (Instr.fclass f) := ⟨rfl, rfl, rfl, rfl⟩
theorem Sys2Proof.Laws.Encoded.shuf (f : GFields) : Sys2Proof.Laws.Encoded.Statement (Instr.shuf f) := ⟨rfl, rfl, rfl, rfl⟩
theorem Sys2Proof.Laws.Encoded.bcast (f : GFields) : Sys2Proof.Laws.Encoded.Statement (Instr.bcast f) := ⟨rfl, rfl, rfl, rfl⟩
theorem Sys2Proof.Laws.Encoded.lred (f : GFields) (op : RedOp) : Sys2Proof.Laws.Encoded.Statement (Instr.lred f op) := ⟨rfl, rfl, rfl, rfl⟩
theorem Sys2Proof.Laws.Encoded.lscan (f : GFields) (op : RedOp) : Sys2Proof.Laws.Encoded.Statement (Instr.lscan f op) := ⟨rfl, rfl, rfl, rfl⟩
theorem Sys2Proof.Laws.Encoded.pack (f : GFields) : Sys2Proof.Laws.Encoded.Statement (Instr.pack f) := ⟨rfl, rfl, rfl, rfl⟩
theorem Sys2Proof.Laws.Encoded.unpk (f : GFields) : Sys2Proof.Laws.Encoded.Statement (Instr.unpk f) := ⟨rfl, rfl, rfl, rfl⟩
theorem Sys2Proof.Laws.Encoded.cmpr (f : GFields) : Sys2Proof.Laws.Encoded.Statement (Instr.cmpr f) := ⟨rfl, rfl, rfl, rfl⟩
theorem Sys2Proof.Laws.Encoded.expd (f : GFields) : Sys2Proof.Laws.Encoded.Statement (Instr.expd f) := ⟨rfl, rfl, rfl, rfl⟩
theorem Sys2Proof.Laws.Encoded.clmul (f : GFields) : Sys2Proof.Laws.Encoded.Statement (Instr.clmul f) := ⟨rfl, rfl, rfl, rfl⟩
theorem Sys2Proof.Laws.Encoded.popc (f : GFields) : Sys2Proof.Laws.Encoded.Statement (Instr.popc f) := ⟨rfl, rfl, rfl, rfl⟩
theorem Sys2Proof.Laws.Encoded.clz (f : GFields) : Sys2Proof.Laws.Encoded.Statement (Instr.clz f) := ⟨rfl, rfl, rfl, rfl⟩
theorem Sys2Proof.Laws.Encoded.ctz (f : GFields) : Sys2Proof.Laws.Encoded.Statement (Instr.ctz f) := ⟨rfl, rfl, rfl, rfl⟩
theorem Sys2Proof.Laws.Encoded.brev (f : GFields) : Sys2Proof.Laws.Encoded.Statement (Instr.brev f) := ⟨rfl, rfl, rfl, rfl⟩
theorem Sys2Proof.Laws.Encoded.mkmsk (f : GFields) : Sys2Proof.Laws.Encoded.Statement (Instr.mkmsk f) := ⟨rfl, rfl, rfl, rfl⟩
theorem Sys2Proof.Laws.Encoded.mskop (f : GFields) (op : MskOp) : Sys2Proof.Laws.Encoded.Statement (Instr.mskop f op) := ⟨rfl, rfl, rfl, rfl⟩
theorem Sys2Proof.Laws.Encoded.laneid (f : GFields) : Sys2Proof.Laws.Encoded.Statement (Instr.laneid f) := ⟨rfl, rfl, rfl, rfl⟩
theorem Sys2Proof.Laws.Encoded.cvt (f : GFields) (src : Ty) : Sys2Proof.Laws.Encoded.Statement (Instr.cvt f src) := ⟨rfl, rfl, rfl, rfl⟩
theorem Sys2Proof.Laws.Encoded.cvtmx (f : GFields) (op : MxOp) : Sys2Proof.Laws.Encoded.Statement (Instr.cvtmx f op) := ⟨rfl, rfl, rfl, rfl⟩
theorem Sys2Proof.Laws.Encoded.br (f : BFields) : Sys2Proof.Laws.Encoded.Statement (Instr.br f) := ⟨rfl, rfl, rfl, rfl⟩
theorem Sys2Proof.Laws.Encoded.bri (f : BFields) : Sys2Proof.Laws.Encoded.Statement (Instr.bri f) := ⟨rfl, rfl, rfl, rfl⟩
theorem Sys2Proof.Laws.Encoded.call (f : BFields) : Sys2Proof.Laws.Encoded.Statement (Instr.call f) := ⟨rfl, rfl, rfl, rfl⟩
theorem Sys2Proof.Laws.Encoded.calli (f : BFields) : Sys2Proof.Laws.Encoded.Statement (Instr.calli f) := ⟨rfl, rfl, rfl, rfl⟩
theorem Sys2Proof.Laws.Encoded.ret (f : BFields) : Sys2Proof.Laws.Encoded.Statement (Instr.ret f) := ⟨rfl, rfl, rfl, rfl⟩
theorem Sys2Proof.Laws.Encoded.halt (f : BFields) : Sys2Proof.Laws.Encoded.Statement (Instr.halt f) := ⟨rfl, rfl, rfl, rfl⟩
theorem Sys2Proof.Laws.Encoded.read (f : WFields) : Sys2Proof.Laws.Encoded.Statement (Instr.read f) := ⟨rfl, rfl, rfl, rfl⟩
theorem Sys2Proof.Laws.Encoded.write (f : WFields) : Sys2Proof.Laws.Encoded.Statement (Instr.write f) := ⟨rfl, rfl, rfl, rfl⟩
theorem Sys2Proof.Laws.Encoded.null (f : GFields) (form : NullForm) : Sys2Proof.Laws.Encoded.Statement (Instr.null f form) := ⟨rfl, rfl, rfl, rfl⟩
theorem Sys2Proof.Laws.Encoded.mov (f : GFields) : Sys2Proof.Laws.Encoded.Statement (Instr.mov f) := ⟨rfl, rfl, rfl, rfl⟩
theorem Sys2Proof.Laws.Encoded.krd (f : WFields) : Sys2Proof.Laws.Encoded.Statement (Instr.krd f) := ⟨rfl, rfl, rfl, rfl⟩
theorem Sys2Proof.Laws.Encoded.ld (f : MFields) : Sys2Proof.Laws.Encoded.Statement (Instr.ld f) := ⟨rfl, rfl, rfl, rfl⟩
theorem Sys2Proof.Laws.Encoded.st (f : MFields) : Sys2Proof.Laws.Encoded.Statement (Instr.st f) := ⟨rfl, rfl, rfl, rfl⟩
theorem Sys2Proof.Laws.Encoded.ldx (f : MFields) : Sys2Proof.Laws.Encoded.Statement (Instr.ldx f) := ⟨rfl, rfl, rfl, rfl⟩
theorem Sys2Proof.Laws.Encoded.stx (f : MFields) : Sys2Proof.Laws.Encoded.Statement (Instr.stx f) := ⟨rfl, rfl, rfl, rfl⟩
theorem Sys2Proof.Laws.Encoded.aadd (f : MFields) : Sys2Proof.Laws.Encoded.Statement (Instr.aadd f) := ⟨rfl, rfl, rfl, rfl⟩
theorem Sys2Proof.Laws.Encoded.amin (f : MFields) : Sys2Proof.Laws.Encoded.Statement (Instr.amin f) := ⟨rfl, rfl, rfl, rfl⟩
theorem Sys2Proof.Laws.Encoded.amax (f : MFields) : Sys2Proof.Laws.Encoded.Statement (Instr.amax f) := ⟨rfl, rfl, rfl, rfl⟩
theorem Sys2Proof.Laws.Encoded.aand (f : MFields) : Sys2Proof.Laws.Encoded.Statement (Instr.aand f) := ⟨rfl, rfl, rfl, rfl⟩
theorem Sys2Proof.Laws.Encoded.aor (f : MFields) : Sys2Proof.Laws.Encoded.Statement (Instr.aor f) := ⟨rfl, rfl, rfl, rfl⟩
theorem Sys2Proof.Laws.Encoded.axor (f : MFields) : Sys2Proof.Laws.Encoded.Statement (Instr.axor f) := ⟨rfl, rfl, rfl, rfl⟩
theorem Sys2Proof.Laws.Encoded.axchg (f : MFields) : Sys2Proof.Laws.Encoded.Statement (Instr.axchg f) := ⟨rfl, rfl, rfl, rfl⟩
theorem Sys2Proof.Laws.Encoded.acas (f : MFields) : Sys2Proof.Laws.Encoded.Statement (Instr.acas f) := ⟨rfl, rfl, rfl, rfl⟩
theorem Sys2Proof.Laws.Encoded.afadd (f : MFields) : Sys2Proof.Laws.Encoded.Statement (Instr.afadd f) := ⟨rfl, rfl, rfl, rfl⟩
theorem Sys2Proof.Laws.Encoded.lde (f : MFields) : Sys2Proof.Laws.Encoded.Statement (Instr.lde f) := ⟨rfl, rfl, rfl, rfl⟩
theorem Sys2Proof.Laws.Encoded.ldf (f : MFields) : Sys2Proof.Laws.Encoded.Statement (Instr.ldf f) := ⟨rfl, rfl, rfl, rfl⟩
theorem Sys2Proof.Laws.Encoded.stf (f : MFields) : Sys2Proof.Laws.Encoded.Statement (Instr.stf f) := ⟨rfl, rfl, rfl, rfl⟩
theorem Sys2Proof.Laws.Encoded.fence (f : MFields) : Sys2Proof.Laws.Encoded.Statement (Instr.fence f) := ⟨rfl, rfl, rfl, rfl⟩
theorem Sys2Proof.Laws.Encoded.tmov (f : EFields) (e : MvEng) : Sys2Proof.Laws.Encoded.Statement (Instr.tmov f e) := ⟨rfl, rfl, rfl, rfl⟩
theorem Sys2Proof.Laws.Encoded.tmovt (f : EFields) (e : MvEng) : Sys2Proof.Laws.Encoded.Statement (Instr.tmovt f e) := ⟨rfl, rfl, rfl, rfl⟩
theorem Sys2Proof.Laws.Encoded.tmovc (f : EFields) (e : MvEng) : Sys2Proof.Laws.Encoded.Statement (Instr.tmovc f e) := ⟨rfl, rfl, rfl, rfl⟩
theorem Sys2Proof.Laws.Encoded.tmove (f : EFields) (e : MvEng) : Sys2Proof.Laws.Encoded.Statement (Instr.tmove f e) := ⟨rfl, rfl, rfl, rfl⟩
theorem Sys2Proof.Laws.Encoded.mgo (f : EFields) (cfg : BitVec 2) (last : Bool) : Sys2Proof.Laws.Encoded.Statement (Instr.mgo f cfg last) := ⟨rfl, rfl, rfl, rfl⟩
theorem Sys2Proof.Laws.Encoded.accrd (f : EFields) (e : AccEng) : Sys2Proof.Laws.Encoded.Statement (Instr.accrd f e) := ⟨rfl, rfl, rfl, rfl⟩
theorem Sys2Proof.Laws.Encoded.accwr (f : EFields) (e : AccEng) : Sys2Proof.Laws.Encoded.Statement (Instr.accwr f e) := ⟨rfl, rfl, rfl, rfl⟩
theorem Sys2Proof.Laws.Encoded.accclr (f : EFields) (region : Bool) (acc : BitVec 3) (afmt : AFmt) : Sys2Proof.Laws.Encoded.Statement (Instr.accclr f region acc afmt) := ⟨rfl, rfl, rfl, rfl⟩
theorem Sys2Proof.Laws.Encoded.rld (f : EFields) (lsp : MvSpace) : Sys2Proof.Laws.Encoded.Statement (Instr.rld f lsp) := ⟨rfl, rfl, rfl, rfl⟩
theorem Sys2Proof.Laws.Encoded.rst (f : EFields) (lsp : MvSpace) : Sys2Proof.Laws.Encoded.Statement (Instr.rst f lsp) := ⟨rfl, rfl, rfl, rfl⟩
theorem Sys2Proof.Laws.Encoded.ratom (f : EFields) (op : AtomOp) (lsp : MvSpace) : Sys2Proof.Laws.Encoded.Statement (Instr.ratom f op lsp) := ⟨rfl, rfl, rfl, rfl⟩
theorem Sys2Proof.Laws.Encoded.rmst (f : EFields) (lsp : MvSpace) : Sys2Proof.Laws.Encoded.Statement (Instr.rmst f lsp) := ⟨rfl, rfl, rfl, rfl⟩
theorem Sys2Proof.Laws.Encoded.rinv (f : EFields) (lsp : MvSpace) : Sys2Proof.Laws.Encoded.Statement (Instr.rinv f lsp) := ⟨rfl, rfl, rfl, rfl⟩
theorem Sys2Proof.Laws.Encoded.rfence (f : EFields) : Sys2Proof.Laws.Encoded.Statement (Instr.rfence f) := ⟨rfl, rfl, rfl, rfl⟩
theorem Sys2Proof.Laws.Encoded.cred (f : EFields) (op : CredOp) : Sys2Proof.Laws.Encoded.Statement (Instr.cred f op) := ⟨rfl, rfl, rfl, rfl⟩
theorem Sys2Proof.Laws.Encoded.cgath (f : EFields) : Sys2Proof.Laws.Encoded.Statement (Instr.cgath f) := ⟨rfl, rfl, rfl, rfl⟩
theorem Sys2Proof.Laws.Encoded.ca2a (f : EFields) : Sys2Proof.Laws.Encoded.Statement (Instr.ca2a f) := ⟨rfl, rfl, rfl, rfl⟩
theorem Sys2Proof.Laws.Encoded.cbcast (f : EFields) : Sys2Proof.Laws.Encoded.Statement (Instr.cbcast f) := ⟨rfl, rfl, rfl, rfl⟩
theorem Sys2Proof.Laws.Encoded.enop (f : EFields) (q : Qu) : Sys2Proof.Laws.Encoded.Statement (Instr.enop f q) := ⟨rfl, rfl, rfl, rfl⟩
theorem Sys2Proof.Laws.Encoded.barv (f : GFields) : Sys2Proof.Laws.Encoded.Statement (Instr.barv f) := ⟨rfl, rfl, rfl, rfl⟩
theorem Sys2Proof.Laws.Encoded.barw (f : GFields) : Sys2Proof.Laws.Encoded.Statement (Instr.barw f) := ⟨rfl, rfl, rfl, rfl⟩
theorem Sys2Proof.Laws.Encoded.baraw (f : GFields) : Sys2Proof.Laws.Encoded.Statement (Instr.baraw f) := ⟨rfl, rfl, rfl, rfl⟩
theorem Sys2Proof.Laws.Encoded.bart (f : GFields) : Sys2Proof.Laws.Encoded.Statement (Instr.bart f) := ⟨rfl, rfl, rfl, rfl⟩
theorem Sys2Proof.Laws.Encoded.bari (f : GFields) : Sys2Proof.Laws.Encoded.Statement (Instr.bari f) := ⟨rfl, rfl, rfl, rfl⟩
theorem Sys2Proof.Laws.Encoded.qput (f : GFields) : Sys2Proof.Laws.Encoded.Statement (Instr.qput f) := ⟨rfl, rfl, rfl, rfl⟩
theorem Sys2Proof.Laws.Encoded.qputw (f : GFields) : Sys2Proof.Laws.Encoded.Statement (Instr.qputw f) := ⟨rfl, rfl, rfl, rfl⟩
theorem Sys2Proof.Laws.Encoded.launch (f : GFields) : Sys2Proof.Laws.Encoded.Statement (Instr.launch f) := ⟨rfl, rfl, rfl, rfl⟩
theorem Sys2Proof.Laws.Encoded.spawn (f : GFields) : Sys2Proof.Laws.Encoded.Statement (Instr.spawn f) := ⟨rfl, rfl, rfl, rfl⟩
theorem Sys2Proof.Laws.Encoded.getsr (f : GFields) : Sys2Proof.Laws.Encoded.Statement (Instr.getsr f) := ⟨rfl, rfl, rfl, rfl⟩
theorem Sys2Proof.Laws.Encoded.setsr (f : GFields) : Sys2Proof.Laws.Encoded.Statement (Instr.setsr f) := ⟨rfl, rfl, rfl, rfl⟩
theorem Sys2Proof.Laws.Encoded.trap (f : GFields) : Sys2Proof.Laws.Encoded.Statement (Instr.trap f) := ⟨rfl, rfl, rfl, rfl⟩
theorem Sys2Proof.Laws.Encoded.tret (f : GFields) : Sys2Proof.Laws.Encoded.Statement (Instr.tret f) := ⟨rfl, rfl, rfl, rfl⟩
theorem Sys2Proof.Laws.Encoded.brk (f : GFields) : Sys2Proof.Laws.Encoded.Statement (Instr.brk f) := ⟨rfl, rfl, rfl, rfl⟩
theorem Sys2Proof.Laws.Encoded.mcut (f : GFields) : Sys2Proof.Laws.Encoded.Statement (Instr.mcut f) := ⟨rfl, rfl, rfl, rfl⟩
theorem Sys2Proof.Laws.Encoded.evt (f : GFields) : Sys2Proof.Laws.Encoded.Statement (Instr.evt f) := ⟨rfl, rfl, rfl, rfl⟩
theorem Sys2Proof.Laws.Encoded.pginv (f : GFields) : Sys2Proof.Laws.Encoded.Statement (Instr.pginv f) := ⟨rfl, rfl, rfl, rfl⟩
theorem Sys2Proof.Laws.Encoded.pgprobe (f : GFields) : Sys2Proof.Laws.Encoded.Statement (Instr.pgprobe f) := ⟨rfl, rfl, rfl, rfl⟩
theorem Sys2Proof.Laws.Encoded.scanc (f : SuFrame) : Sys2Proof.Laws.Encoded.Statement (Instr.scanc f) := ⟨rfl, rfl, rfl, rfl⟩
theorem Sys2Proof.Laws.Encoded.scanb (f : SuFrame) : Sys2Proof.Laws.Encoded.Statement (Instr.scanb f) := ⟨rfl, rfl, rfl, rfl⟩
theorem Sys2Proof.Laws.Encoded.scand (f : SuFrame) : Sys2Proof.Laws.Encoded.Statement (Instr.scand f) := ⟨rfl, rfl, rfl, rfl⟩
theorem Sys2Proof.Laws.Encoded.scanl (f : SuFrame) : Sys2Proof.Laws.Encoded.Statement (Instr.scanl f) := ⟨rfl, rfl, rfl, rfl⟩
theorem Sys2Proof.Laws.Encoded.skip (g gi tile : Nat) : Sys2Proof.Laws.Encoded.Statement (Instr.skip g gi tile) := ⟨rfl, rfl, rfl, rfl⟩
theorem Sys2Proof.Laws.Encoded.isect (f : SuFrame) : Sys2Proof.Laws.Encoded.Statement (Instr.isect f) := ⟨rfl, rfl, rfl, rfl⟩
theorem Sys2Proof.Laws.Encoded.union (f : SuFrame) : Sys2Proof.Laws.Encoded.Statement (Instr.union f) := ⟨rfl, rfl, rfl, rfl⟩
theorem Sys2Proof.Laws.Encoded.merge (f : SuFrame) : Sys2Proof.Laws.Encoded.Statement (Instr.merge f) := ⟨rfl, rfl, rfl, rfl⟩
theorem Sys2Proof.Laws.Encoded.gate (f : SuFrame) : Sys2Proof.Laws.Encoded.Statement (Instr.gate f) := ⟨rfl, rfl, rfl, rfl⟩
theorem Sys2Proof.Laws.Encoded.repeatOp (f : SuFrame) : Sys2Proof.Laws.Encoded.Statement (Instr.repeatOp f) := ⟨rfl, rfl, rfl, rfl⟩
theorem Sys2Proof.Laws.Encoded.reduce (f : SuFrame) : Sys2Proof.Laws.Encoded.Statement (Instr.reduce f) := ⟨rfl, rfl, rfl, rfl⟩
theorem Sys2Proof.Laws.Encoded.filter (f : SuFrame) : Sys2Proof.Laws.Encoded.Statement (Instr.filter f) := ⟨rfl, rfl, rfl, rfl⟩
theorem Sys2Proof.Laws.Encoded.split (f : SuFrame) : Sys2Proof.Laws.Encoded.Statement (Instr.split f) := ⟨rfl, rfl, rfl, rfl⟩
theorem Sys2Proof.Laws.Encoded.lwrc (f : SuFrame) : Sys2Proof.Laws.Encoded.Statement (Instr.lwrc f) := ⟨rfl, rfl, rfl, rfl⟩
theorem Sys2Proof.Laws.Encoded.lwrb (f : SuFrame) : Sys2Proof.Laws.Encoded.Statement (Instr.lwrb f) := ⟨rfl, rfl, rfl, rfl⟩
theorem Sys2Proof.Laws.Encoded.lwrd (f : SuFrame) : Sys2Proof.Laws.Encoded.Statement (Instr.lwrd f) := ⟨rfl, rfl, rfl, rfl⟩
theorem Sys2Proof.Laws.Encoded.mark (g gi tile port : Nat) : Sys2Proof.Laws.Encoded.Statement (Instr.mark g gi tile port) := ⟨rfl, rfl, rfl, rfl⟩
theorem Sys2Proof.Laws.Encoded.joinCompare (g gi tile : Nat) (upper : Bool) : Sys2Proof.Laws.Encoded.Statement (Instr.joinCompare g gi tile upper) := ⟨rfl, rfl, rfl, rfl⟩
theorem Sys2Proof.Laws.Encoded.frameAssign (g gi tile : Nat) : Sys2Proof.Laws.Encoded.Statement (Instr.frameAssign g gi tile) := ⟨rfl, rfl, rfl, rfl⟩
theorem Sys2Proof.Laws.Encoded.aglin (f : AgFrame) : Sys2Proof.Laws.Encoded.Statement (Instr.aglin f) := ⟨rfl, rfl, rfl, rfl⟩
theorem Sys2Proof.Laws.Encoded.agnd (f : AgFrame) : Sys2Proof.Laws.Encoded.Statement (Instr.agnd f) := ⟨rfl, rfl, rfl, rfl⟩
theorem Sys2Proof.Laws.Encoded.aggath (f : AgFrame) : Sys2Proof.Laws.Encoded.Statement (Instr.aggath f) := ⟨rfl, rfl, rfl, rfl⟩
theorem Sys2Proof.Laws.Encoded.agscat (f : AgFrame) : Sys2Proof.Laws.Encoded.Statement (Instr.agscat f) := ⟨rfl, rfl, rfl, rfl⟩
theorem Sys2Proof.Laws.Encoded.agrange (f : AgFrame) : Sys2Proof.Laws.Encoded.Statement (Instr.agrange f) := ⟨rfl, rfl, rfl, rfl⟩
theorem Sys2Proof.Laws.Encoded.completionToken (g gi tile lane : Nat) : Sys2Proof.Laws.Encoded.Statement (Instr.completionToken g gi tile lane) := ⟨rfl, rfl, rfl, rfl⟩
theorem Sys2Proof.Laws.Encoded.mtcmpr (f : MtFrame) : Sys2Proof.Laws.Encoded.Statement (Instr.mtcmpr f) := ⟨rfl, rfl, rfl, rfl⟩
theorem Sys2Proof.Laws.Encoded.mtexpd (f : MtFrame) : Sys2Proof.Laws.Encoded.Statement (Instr.mtexpd f) := ⟨rfl, rfl, rfl, rfl⟩
theorem Sys2Proof.Laws.Encoded.mtown (f : MtFrame) : Sys2Proof.Laws.Encoded.Statement (Instr.mtown f) := ⟨rfl, rfl, rfl, rfl⟩
theorem Sys2Proof.Laws.Encoded.mtsync (f : MtFrame) : Sys2Proof.Laws.Encoded.Statement (Instr.mtsync f) := ⟨rfl, rfl, rfl, rfl⟩
theorem Sys2Proof.Laws.Encoded.mtinv (f : MtFrame) : Sys2Proof.Laws.Encoded.Statement (Instr.mtinv f) := ⟨rfl, rfl, rfl, rfl⟩
theorem Sys2Proof.Laws.Encoded.parkedReaderServed (g gi tile : Nat) : Sys2Proof.Laws.Encoded.Statement (Instr.parkedReaderServed g gi tile) := ⟨rfl, rfl, rfl, rfl⟩
theorem Sys2Proof.Laws.Encoded.sweep (g gi tile : Nat) : Sys2Proof.Laws.Encoded.Statement (Instr.sweep g gi tile) := ⟨rfl, rfl, rfl, rfl⟩
theorem Sys2Proof.Laws.Encoded.mma (f : McFrame) : Sys2Proof.Laws.Encoded.Statement (Instr.mma f) := ⟨rfl, rfl, rfl, rfl⟩
theorem Sys2Proof.Laws.Encoded.mmas (f : McFrame) : Sys2Proof.Laws.Encoded.Statement (Instr.mmas f) := ⟨rfl, rfl, rfl, rfl⟩
theorem Sys2Proof.Laws.Encoded.mdrain (f : McFrame) : Sys2Proof.Laws.Encoded.Statement (Instr.mdrain f) := ⟨rfl, rfl, rfl, rfl⟩
theorem Sys2Proof.Laws.Encoded.mzero (f : McFrame) : Sys2Proof.Laws.Encoded.Statement (Instr.mzero f) := ⟨rfl, rfl, rfl, rfl⟩
theorem Sys2Proof.Laws.Encoded.mpass (f : McFrame) : Sys2Proof.Laws.Encoded.Statement (Instr.mpass f) := ⟨rfl, rfl, rfl, rfl⟩
theorem Sys2Proof.Laws.Encoded.kblockAccumulate (g gi tile : Nat) : Sys2Proof.Laws.Encoded.Statement (Instr.kblockAccumulate g gi tile) := ⟨rfl, rfl, rfl, rfl⟩
theorem Sys2Proof.Laws.Encoded.blockMap (g th : Nat) (exit : BitVec 3) : Sys2Proof.Laws.Encoded.Statement (Instr.blockMap g th exit) := ⟨rfl, rfl, rfl, rfl⟩
theorem Sys2Proof.Laws.Encoded.blockCommit (g th : Nat) : Sys2Proof.Laws.Encoded.Statement (Instr.blockCommit g th) := ⟨rfl, rfl, rfl, rfl⟩
theorem Sys2Proof.Laws.Encoded.blockIncomplete (g th : Nat) : Sys2Proof.Laws.Encoded.Statement (Instr.blockIncomplete g th) := ⟨rfl, rfl, rfl, rfl⟩
theorem Sys2Proof.Laws.Encoded.faultReport (g th : Nat) : Sys2Proof.Laws.Encoded.Statement (Instr.faultReport g th) := ⟨rfl, rfl, rfl, rfl⟩
theorem Sys2Proof.Laws.Encoded.engineIssue (g th : Nat) (q : Qu) : Sys2Proof.Laws.Encoded.Statement (Instr.engineIssue g th q) := ⟨rfl, rfl, rfl, rfl⟩
theorem Sys2Proof.Laws.Encoded.engineRetire (g th : Nat) (q : Qu) : Sys2Proof.Laws.Encoded.Statement (Instr.engineRetire g th q) := ⟨rfl, rfl, rfl, rfl⟩
theorem Sys2Proof.Laws.Encoded.engineStall (g th : Nat) : Sys2Proof.Laws.Encoded.Statement (Instr.engineStall g th) := ⟨rfl, rfl, rfl, rfl⟩
theorem Sys2Proof.Laws.Encoded.graphStall (g gi : Nat) : Sys2Proof.Laws.Encoded.Statement (Instr.graphStall g gi) := ⟨rfl, rfl, rfl, rfl⟩
theorem Sys2Proof.Laws.Encoded.servingPointArrival (cl k : Nat) : Sys2Proof.Laws.Encoded.Statement (Instr.servingPointArrival cl k) := ⟨rfl, rfl, rfl, rfl⟩
theorem Sys2Proof.Laws.Encoded.pcieCompletion (ok : Bool) : Sys2Proof.Laws.Encoded.Statement (Instr.pcieCompletion ok) := ⟨rfl, rfl, rfl, rfl⟩
theorem Sys2Proof.Laws.Encoded.doorbell (fn q off size : Nat) (v : BitVec 32) : Sys2Proof.Laws.Encoded.Statement (Instr.doorbell fn q off size v) := ⟨rfl, rfl, rfl, rfl⟩
theorem Sys2Proof.Laws.Encoded.packetRead (q : Nat) : Sys2Proof.Laws.Encoded.Statement (Instr.packetRead q) := ⟨rfl, rfl, rfl, rfl⟩
theorem Sys2Proof.Laws.Encoded.repoll (q : Nat) : Sys2Proof.Laws.Encoded.Statement (Instr.repoll q) := ⟨rfl, rfl, rfl, rfl⟩
theorem Sys2Proof.Laws.Encoded.commandStart (q : Nat) : Sys2Proof.Laws.Encoded.Statement (Instr.commandStart q) := ⟨rfl, rfl, rfl, rfl⟩
theorem Sys2Proof.Laws.Encoded.nop (q : Nat) : Sys2Proof.Laws.Encoded.Statement (Instr.nop q) := ⟨rfl, rfl, rfl, rfl⟩
theorem Sys2Proof.Laws.Encoded.launchCommand (q : Nat) : Sys2Proof.Laws.Encoded.Statement (Instr.launchCommand q) := ⟨rfl, rfl, rfl, rfl⟩
theorem Sys2Proof.Laws.Encoded.bararv (q : Nat) : Sys2Proof.Laws.Encoded.Statement (Instr.bararv q) := ⟨rfl, rfl, rfl, rfl⟩
theorem Sys2Proof.Laws.Encoded.barwt (q : Nat) : Sys2Proof.Laws.Encoded.Statement (Instr.barwt q) := ⟨rfl, rfl, rfl, rfl⟩
theorem Sys2Proof.Laws.Encoded.kload (q : Nat) : Sys2Proof.Laws.Encoded.Statement (Instr.kload q) := ⟨rfl, rfl, rfl, rfl⟩
theorem Sys2Proof.Laws.Encoded.kevict (q : Nat) : Sys2Proof.Laws.Encoded.Statement (Instr.kevict q) := ⟨rfl, rfl, rfl, rfl⟩
theorem Sys2Proof.Laws.Encoded.tstamp (q : Nat) : Sys2Proof.Laws.Encoded.Statement (Instr.tstamp q) := ⟨rfl, rfl, rfl, rfl⟩
theorem Sys2Proof.Laws.Encoded.traceon (q : Nat) : Sys2Proof.Laws.Encoded.Statement (Instr.traceon q) := ⟨rfl, rfl, rfl, rfl⟩
theorem Sys2Proof.Laws.Encoded.traceoff (q : Nat) : Sys2Proof.Laws.Encoded.Statement (Instr.traceoff q) := ⟨rfl, rfl, rfl, rfl⟩
theorem Sys2Proof.Laws.Encoded.qcmdCreate (fn q : Nat) (v : Word) : Sys2Proof.Laws.Encoded.Statement (Instr.qcmdCreate fn q v) := ⟨rfl, rfl, rfl, rfl⟩
theorem Sys2Proof.Laws.Encoded.qcmdReset (fn q : Nat) (v : Word) : Sys2Proof.Laws.Encoded.Statement (Instr.qcmdReset fn q v) := ⟨rfl, rfl, rfl, rfl⟩
theorem Sys2Proof.Laws.Encoded.qcmdResume (fn q : Nat) (v : Word) : Sys2Proof.Laws.Encoded.Statement (Instr.qcmdResume fn q v) := ⟨rfl, rfl, rfl, rfl⟩
theorem Sys2Proof.Laws.Encoded.qcmdDestroy (fn q : Nat) (v : Word) : Sys2Proof.Laws.Encoded.Statement (Instr.qcmdDestroy fn q v) := ⟨rfl, rfl, rfl, rfl⟩
theorem Sys2Proof.Laws.Encoded.ctxcmdCreate (fn c : Nat) (v : Word) : Sys2Proof.Laws.Encoded.Statement (Instr.ctxcmdCreate fn c v) := ⟨rfl, rfl, rfl, rfl⟩
theorem Sys2Proof.Laws.Encoded.ctxcmdSuspend (fn c : Nat) (v : Word) : Sys2Proof.Laws.Encoded.Statement (Instr.ctxcmdSuspend fn c v) := ⟨rfl, rfl, rfl, rfl⟩
theorem Sys2Proof.Laws.Encoded.ctxcmdResume (fn c : Nat) (v : Word) : Sys2Proof.Laws.Encoded.Statement (Instr.ctxcmdResume fn c v) := ⟨rfl, rfl, rfl, rfl⟩
theorem Sys2Proof.Laws.Encoded.ctxcmdDestroy (fn c : Nat) (v : Word) : Sys2Proof.Laws.Encoded.Statement (Instr.ctxcmdDestroy fn c v) := ⟨rfl, rfl, rfl, rfl⟩
theorem Sys2Proof.Laws.Encoded.teardownComplete (c : Nat) : Sys2Proof.Laws.Encoded.Statement (Instr.teardownComplete c) := ⟨rfl, rfl, rfl, rfl⟩
theorem Sys2Proof.Laws.Encoded.bcmdCreate (fn b : Nat) (v : Word) : Sys2Proof.Laws.Encoded.Statement (Instr.bcmdCreate fn b v) := ⟨rfl, rfl, rfl, rfl⟩
theorem Sys2Proof.Laws.Encoded.bcmdReset (fn b : Nat) (v : Word) : Sys2Proof.Laws.Encoded.Statement (Instr.bcmdReset fn b v) := ⟨rfl, rfl, rfl, rfl⟩
theorem Sys2Proof.Laws.Encoded.bcmdDestroy (fn b : Nat) (v : Word) : Sys2Proof.Laws.Encoded.Statement (Instr.bcmdDestroy fn b v) := ⟨rfl, rfl, rfl, rfl⟩
theorem Sys2Proof.Laws.Encoded.barrierTimeout (b : Nat) : Sys2Proof.Laws.Encoded.Statement (Instr.barrierTimeout b) := ⟨rfl, rfl, rfl, rfl⟩
theorem Sys2Proof.Laws.Encoded.externalArrival (fn b off size : Nat) (v : BitVec 32) (relaxed : Bool) : Sys2Proof.Laws.Encoded.Statement (Instr.externalArrival fn b off size v relaxed) := ⟨rfl, rfl, rfl, rfl⟩
theorem Sys2Proof.Laws.Encoded.bextdropRead (fn b : Nat) : Sys2Proof.Laws.Encoded.Statement (Instr.bextdropRead fn b) := ⟨rfl, rfl, rfl, rfl⟩
theorem Sys2Proof.Laws.Encoded.sluiceDecision (g : Nat) (place : List (Nat × Nat × Nat)) (victims : List Nat) : Sys2Proof.Laws.Encoded.Statement (Instr.sluiceDecision g place victims) := ⟨rfl, rfl, rfl, rfl⟩
theorem Sys2Proof.Laws.Encoded.groupStart (g : Nat) : Sys2Proof.Laws.Encoded.Statement (Instr.groupStart g) := ⟨rfl, rfl, rfl, rfl⟩
theorem Sys2Proof.Laws.Encoded.cut (g : Nat) : Sys2Proof.Laws.Encoded.Statement (Instr.cut g) := ⟨rfl, rfl, rfl, rfl⟩
theorem Sys2Proof.Laws.Encoded.quiescent (g : Nat) : Sys2Proof.Laws.Encoded.Statement (Instr.quiescent g) := ⟨rfl, rfl, rfl, rfl⟩
theorem Sys2Proof.Laws.Encoded.cutComplete (g : Nat) : Sys2Proof.Laws.Encoded.Statement (Instr.cutComplete g) := ⟨rfl, rfl, rfl, rfl⟩
theorem Sys2Proof.Laws.Encoded.saveComplete (g : Nat) : Sys2Proof.Laws.Encoded.Statement (Instr.saveComplete g) := ⟨rfl, rfl, rfl, rfl⟩
theorem Sys2Proof.Laws.Encoded.configDrain (g : Nat) : Sys2Proof.Laws.Encoded.Statement (Instr.configDrain g) := ⟨rfl, rfl, rfl, rfl⟩
theorem Sys2Proof.Laws.Encoded.groupComplete (g : Nat) : Sys2Proof.Laws.Encoded.Statement (Instr.groupComplete g) := ⟨rfl, rfl, rfl, rfl⟩
theorem Sys2Proof.Laws.Encoded.groupPark (g : Nat) : Sys2Proof.Laws.Encoded.Statement (Instr.groupPark g) := ⟨rfl, rfl, rfl, rfl⟩
theorem Sys2Proof.Laws.Encoded.promote (g : Nat) : Sys2Proof.Laws.Encoded.Statement (Instr.promote g) := ⟨rfl, rfl, rfl, rfl⟩
theorem Sys2Proof.Laws.Encoded.clusterHold (g : Nat) : Sys2Proof.Laws.Encoded.Statement (Instr.clusterHold g) := ⟨rfl, rfl, rfl, rfl⟩
theorem Sys2Proof.Laws.Encoded.budget (g : Nat) : Sys2Proof.Laws.Encoded.Statement (Instr.budget g) := ⟨rfl, rfl, rfl, rfl⟩
theorem Sys2Proof.Laws.Encoded.deadline (g : Nat) : Sys2Proof.Laws.Encoded.Statement (Instr.deadline g) := ⟨rfl, rfl, rfl, rfl⟩
theorem Sys2Proof.Laws.Encoded.gangArm (gang : BitVec 32) (midx : Nat) (nmem : BitVec 4) (gto : BitVec 16) : Sys2Proof.Laws.Encoded.Statement (Instr.gangArm gang midx nmem gto) := ⟨rfl, rfl, rfl, rfl⟩
theorem Sys2Proof.Laws.Encoded.gangGo (gang : BitVec 32) : Sys2Proof.Laws.Encoded.Statement (Instr.gangGo gang) := ⟨rfl, rfl, rfl, rfl⟩
theorem Sys2Proof.Laws.Encoded.gangGoack (gang : BitVec 32) (midx : Nat) : Sys2Proof.Laws.Encoded.Statement (Instr.gangGoack gang midx) := ⟨rfl, rfl, rfl, rfl⟩
theorem Sys2Proof.Laws.Encoded.gangAllgo (gang : BitVec 32) : Sys2Proof.Laws.Encoded.Statement (Instr.gangAllgo gang) := ⟨rfl, rfl, rfl, rfl⟩
theorem Sys2Proof.Laws.Encoded.gangAbort (gang : BitVec 32) : Sys2Proof.Laws.Encoded.Statement (Instr.gangAbort gang) := ⟨rfl, rfl, rfl, rfl⟩
theorem Sys2Proof.Laws.Encoded.gangDone (gang : BitVec 32) (midx : Nat) : Sys2Proof.Laws.Encoded.Statement (Instr.gangDone gang midx) := ⟨rfl, rfl, rfl, rfl⟩
theorem Sys2Proof.Laws.Encoded.gangdone (gang : BitVec 32) : Sys2Proof.Laws.Encoded.Statement (Instr.gangdone gang) := ⟨rfl, rfl, rfl, rfl⟩
theorem Sys2Proof.Laws.Encoded.gangTimeout (g : Nat) : Sys2Proof.Laws.Encoded.Statement (Instr.gangTimeout g) := ⟨rfl, rfl, rfl, rfl⟩
theorem Sys2Proof.Laws.Encoded.freezeLine (g : Nat) : Sys2Proof.Laws.Encoded.Statement (Instr.freezeLine g) := ⟨rfl, rfl, rfl, rfl⟩
theorem Sys2Proof.Laws.Encoded.pgicmdStart (fn c : Nat) (v : Word) : Sys2Proof.Laws.Encoded.Statement (Instr.pgicmdStart fn c v) := ⟨rfl, rfl, rfl, rfl⟩
theorem Sys2Proof.Laws.Encoded.invalidation (c : Nat) : Sys2Proof.Laws.Encoded.Statement (Instr.invalidation c) := ⟨rfl, rfl, rfl, rfl⟩
theorem Sys2Proof.Laws.Encoded.rpzero (fn die : Nat) (v : Word) : Sys2Proof.Laws.Encoded.Statement (Instr.rpzero fn die v) := ⟨rfl, rfl, rfl, rfl⟩
theorem Sys2Proof.Laws.Encoded.rpzeroComplete (die : Nat) : Sys2Proof.Laws.Encoded.Statement (Instr.rpzeroComplete die) := ⟨rfl, rfl, rfl, rfl⟩
theorem Sys2Proof.Laws.Encoded.evstatWrite (fn : Nat) (v : Word) : Sys2Proof.Laws.Encoded.Statement (Instr.evstatWrite fn v) := ⟨rfl, rfl, rfl, rfl⟩
theorem Sys2Proof.Laws.Encoded.registerWrite (fn off : Nat) (v : Word) : Sys2Proof.Laws.Encoded.Statement (Instr.registerWrite fn off v) := ⟨rfl, rfl, rfl, rfl⟩
theorem Sys2Proof.Laws.Encoded.lcmdEnable (fn n : Nat) (v : Word) : Sys2Proof.Laws.Encoded.Statement (Instr.lcmdEnable fn n v) := ⟨rfl, rfl, rfl, rfl⟩
theorem Sys2Proof.Laws.Encoded.lcmdDisable (fn n : Nat) (v : Word) : Sys2Proof.Laws.Encoded.Statement (Instr.lcmdDisable fn n v) := ⟨rfl, rfl, rfl, rfl⟩
theorem Sys2Proof.Laws.Encoded.lcmdRetrain (fn n : Nat) (v : Word) : Sys2Proof.Laws.Encoded.Statement (Instr.lcmdRetrain fn n v) := ⟨rfl, rfl, rfl, rfl⟩
theorem Sys2Proof.Laws.Encoded.linkTrained (n : Nat) (lanes : BitVec 16) (sw : Bool) (peer : BitVec 12) (domainTime : Option (BitVec 64)) : Sys2Proof.Laws.Encoded.Statement (Instr.linkTrained n lanes sw peer domainTime) := ⟨rfl, rfl, rfl, rfl⟩
theorem Sys2Proof.Laws.Encoded.trainingTimeout (n : Nat) : Sys2Proof.Laws.Encoded.Statement (Instr.trainingTimeout n) := ⟨rfl, rfl, rfl, rfl⟩
theorem Sys2Proof.Laws.Encoded.laneFail (n lane : Nat) : Sys2Proof.Laws.Encoded.Statement (Instr.laneFail n lane) := ⟨rfl, rfl, rfl, rfl⟩
theorem Sys2Proof.Laws.Encoded.replayLimit (n : Nat) : Sys2Proof.Laws.Encoded.Statement (Instr.replayLimit n) := ⟨rfl, rfl, rfl, rfl⟩
theorem Sys2Proof.Laws.Encoded.lreplayRead (fn n : Nat) : Sys2Proof.Laws.Encoded.Statement (Instr.lreplayRead fn n) := ⟨rfl, rfl, rfl, rfl⟩
theorem Sys2Proof.Laws.Encoded.lresyncRead (fn n : Nat) : Sys2Proof.Laws.Encoded.Statement (Instr.lresyncRead fn n) := ⟨rfl, rfl, rfl, rfl⟩
theorem Sys2Proof.Laws.Encoded.flit (n seqn : Nat) (f : FlitIn) : Sys2Proof.Laws.Encoded.Statement (Instr.flit n seqn f) := ⟨rfl, rfl, rfl, rfl⟩
theorem Sys2Proof.Laws.Encoded.creditFlit (n : Nat) (g0 g1 g2 : BitVec 32) : Sys2Proof.Laws.Encoded.Statement (Instr.creditFlit n g0 g1 g2) := ⟨rfl, rfl, rfl, rfl⟩
theorem Sys2Proof.Laws.Encoded.resyncFlit (n : Nat) (g0 g1 g2 r0 r1 r2 : BitVec 32) : Sys2Proof.Laws.Encoded.Statement (Instr.resyncFlit n g0 g1 g2 r0 r1 r2) := ⟨rfl, rfl, rfl, rfl⟩
theorem Sys2Proof.Laws.Encoded.readRequest (n : Nat) (p : Packet) : Sys2Proof.Laws.Encoded.Statement (Instr.readRequest n p) := ⟨rfl, rfl, rfl, rfl⟩
theorem Sys2Proof.Laws.Encoded.readResponse (n : Nat) (p : Packet) : Sys2Proof.Laws.Encoded.Statement (Instr.readResponse n p) := ⟨rfl, rfl, rfl, rfl⟩
theorem Sys2Proof.Laws.Encoded.writeRequest (n : Nat) (p : Packet) : Sys2Proof.Laws.Encoded.Statement (Instr.writeRequest n p) := ⟨rfl, rfl, rfl, rfl⟩
theorem Sys2Proof.Laws.Encoded.writeAcknowledgement (n : Nat) (p : Packet) : Sys2Proof.Laws.Encoded.Statement (Instr.writeAcknowledgement n p) := ⟨rfl, rfl, rfl, rfl⟩
theorem Sys2Proof.Laws.Encoded.atomicRequest (n : Nat) (p : Packet) : Sys2Proof.Laws.Encoded.Statement (Instr.atomicRequest n p) := ⟨rfl, rfl, rfl, rfl⟩
theorem Sys2Proof.Laws.Encoded.atomicResponse (n : Nat) (p : Packet) : Sys2Proof.Laws.Encoded.Statement (Instr.atomicResponse n p) := ⟨rfl, rfl, rfl, rfl⟩
theorem Sys2Proof.Laws.Encoded.invocation (n : Nat) (p : Packet) : Sys2Proof.Laws.Encoded.Statement (Instr.invocation n p) := ⟨rfl, rfl, rfl, rfl⟩
theorem Sys2Proof.Laws.Encoded.invocationResult (n : Nat) (p : Packet) : Sys2Proof.Laws.Encoded.Statement (Instr.invocationResult n p) := ⟨rfl, rfl, rfl, rfl⟩
theorem Sys2Proof.Laws.Encoded.circuitSetup (n : Nat) (p : Packet) : Sys2Proof.Laws.Encoded.Statement (Instr.circuitSetup n p) := ⟨rfl, rfl, rfl, rfl⟩
theorem Sys2Proof.Laws.Encoded.circuitCompletion (n : Nat) (p : Packet) : Sys2Proof.Laws.Encoded.Statement (Instr.circuitCompletion n p) := ⟨rfl, rfl, rfl, rfl⟩
theorem Sys2Proof.Laws.Encoded.collectiveStep (n : Nat) (p : Packet) : Sys2Proof.Laws.Encoded.Statement (Instr.collectiveStep n p) := ⟨rfl, rfl, rfl, rfl⟩
theorem Sys2Proof.Laws.Encoded.planRequest (n : Nat) (p : Packet) : Sys2Proof.Laws.Encoded.Statement (Instr.planRequest n p) := ⟨rfl, rfl, rfl, rfl⟩
theorem Sys2Proof.Laws.Encoded.plan (n : Nat) (p : Packet) : Sys2Proof.Laws.Encoded.Statement (Instr.plan n p) := ⟨rfl, rfl, rfl, rfl⟩
theorem Sys2Proof.Laws.Encoded.multicastAcknowledgement (n : Nat) (p : Packet) : Sys2Proof.Laws.Encoded.Statement (Instr.multicastAcknowledgement n p) := ⟨rfl, rfl, rfl, rfl⟩
theorem Sys2Proof.Laws.Encoded.requestTimeout (tag : BitVec 20) : Sys2Proof.Laws.Encoded.Statement (Instr.requestTimeout tag) := ⟨rfl, rfl, rfl, rfl⟩
theorem Sys2Proof.Laws.Encoded.jcmdOpen (fn j : Nat) (v : Word) : Sys2Proof.Laws.Encoded.Statement (Instr.jcmdOpen fn j v) := ⟨rfl, rfl, rfl, rfl⟩
theorem Sys2Proof.Laws.Encoded.jcmdAttest (fn j : Nat) (v : Word) : Sys2Proof.Laws.Encoded.Statement (Instr.jcmdAttest fn j v) := ⟨rfl, rfl, rfl, rfl⟩
theorem Sys2Proof.Laws.Encoded.jcmdRevoke (fn j : Nat) (v : Word) : Sys2Proof.Laws.Encoded.Statement (Instr.jcmdRevoke fn j v) := ⟨rfl, rfl, rfl, rfl⟩
theorem Sys2Proof.Laws.Encoded.jcmdClose (fn j : Nat) (v : Word) : Sys2Proof.Laws.Encoded.Statement (Instr.jcmdClose fn j v) := ⟨rfl, rfl, rfl, rfl⟩
theorem Sys2Proof.Laws.Encoded.spdmResponse (n : Nat) (ok : Bool) (digest : BitVec 512) : Sys2Proof.Laws.Encoded.Statement (Instr.spdmResponse n ok digest) := ⟨rfl, rfl, rfl, rfl⟩
theorem Sys2Proof.Laws.Encoded.spdmTimeout (n : Nat) : Sys2Proof.Laws.Encoded.Statement (Instr.spdmTimeout n) := ⟨rfl, rfl, rfl, rfl⟩
theorem Sys2Proof.Laws.Encoded.revokeComplete (n : Nat) : Sys2Proof.Laws.Encoded.Statement (Instr.revokeComplete n) := ⟨rfl, rfl, rfl, rfl⟩
theorem Sys2Proof.Laws.Encoded.spdmRequest (ide : Bool) (fns : List Nat) : Sys2Proof.Laws.Encoded.Statement (Instr.spdmRequest ide fns) := ⟨rfl, rfl, rfl, rfl⟩
theorem Sys2Proof.Laws.Encoded.hostLinkFail : Sys2Proof.Laws.Encoded.Statement Instr.hostLinkFail := ⟨rfl, rfl, rfl, rfl⟩
theorem Sys2Proof.Laws.Encoded.dbgcmdAttach (fn u : Nat) (v : Word) : Sys2Proof.Laws.Encoded.Statement (Instr.dbgcmdAttach fn u v) := ⟨rfl, rfl, rfl, rfl⟩
theorem Sys2Proof.Laws.Encoded.dbgcmdDetach (fn u : Nat) (v : Word) : Sys2Proof.Laws.Encoded.Statement (Instr.dbgcmdDetach fn u v) := ⟨rfl, rfl, rfl, rfl⟩
theorem Sys2Proof.Laws.Encoded.dbgcmdStop (fn u : Nat) (v : Word) : Sys2Proof.Laws.Encoded.Statement (Instr.dbgcmdStop fn u v) := ⟨rfl, rfl, rfl, rfl⟩
theorem Sys2Proof.Laws.Encoded.dbgcmdResume (fn u : Nat) (v : Word) : Sys2Proof.Laws.Encoded.Statement (Instr.dbgcmdResume fn u v) := ⟨rfl, rfl, rfl, rfl⟩
theorem Sys2Proof.Laws.Encoded.dbgcmdRead (fn u : Nat) (v : Word) : Sys2Proof.Laws.Encoded.Statement (Instr.dbgcmdRead fn u v) := ⟨rfl, rfl, rfl, rfl⟩
theorem Sys2Proof.Laws.Encoded.secWdog : Sys2Proof.Laws.Encoded.Statement Instr.secWdog := ⟨rfl, rfl, rfl, rfl⟩
theorem Sys2Proof.Laws.Encoded.freezeWave (cl : Nat) (skid : BitVec 6) : Sys2Proof.Laws.Encoded.Statement (Instr.freezeWave cl skid) := ⟨rfl, rfl, rfl, rfl⟩
theorem Sys2Proof.Laws.Encoded.capsuleSeal : Sys2Proof.Laws.Encoded.Statement Instr.capsuleSeal := ⟨rfl, rfl, rfl, rfl⟩
theorem Sys2Proof.Laws.Encoded.capcmdExport (fn : Nat) (v : Word) : Sys2Proof.Laws.Encoded.Statement (Instr.capcmdExport fn v) := ⟨rfl, rfl, rfl, rfl⟩
theorem Sys2Proof.Laws.Encoded.exportComplete (fn : Nat) (ok : Bool) : Sys2Proof.Laws.Encoded.Statement (Instr.exportComplete fn ok) := ⟨rfl, rfl, rfl, rfl⟩
theorem Sys2Proof.Laws.Encoded.capcmdAck (fn : Nat) (v : Word) : Sys2Proof.Laws.Encoded.Statement (Instr.capcmdAck fn v) := ⟨rfl, rfl, rfl, rfl⟩
theorem Sys2Proof.Laws.Encoded.einjcmdFlip (fn : Nat) (v : Word) : Sys2Proof.Laws.Encoded.Statement (Instr.einjcmdFlip fn v) := ⟨rfl, rfl, rfl, rfl⟩
theorem Sys2Proof.Laws.Encoded.rstcmdWarm (fn : Nat) (v : Word) : Sys2Proof.Laws.Encoded.Statement (Instr.rstcmdWarm fn v) := ⟨rfl, rfl, rfl, rfl⟩
theorem Sys2Proof.Laws.Encoded.reccmdLoad (fn : Nat) (ok : Bool) : Sys2Proof.Laws.Encoded.Statement (Instr.reccmdLoad fn ok) := ⟨rfl, rfl, rfl, rfl⟩
theorem Sys2Proof.Laws.Encoded.functionLevelReset (fn : Nat) : Sys2Proof.Laws.Encoded.Statement (Instr.functionLevelReset fn) := ⟨rfl, rfl, rfl, rfl⟩
theorem Sys2Proof.Laws.Encoded.powerGood : Sys2Proof.Laws.Encoded.Statement Instr.powerGood := ⟨rfl, rfl, rfl, rfl⟩
theorem Sys2Proof.Laws.Encoded.bringupStep (ok : Bool) (failed : List Nat) (atomok : Bool) : Sys2Proof.Laws.Encoded.Statement (Instr.bringupStep ok failed atomok) := ⟨rfl, rfl, rfl, rfl⟩
theorem Sys2Proof.Laws.Encoded.powerLoss : Sys2Proof.Laws.Encoded.Statement Instr.powerLoss := ⟨rfl, rfl, rfl, rfl⟩
theorem Sys2Proof.Laws.Encoded.supplySag (cl : Nat) (amount : BitVec 4) : Sys2Proof.Laws.Encoded.Statement (Instr.supplySag cl amount) := ⟨rfl, rfl, rfl, rfl⟩
theorem Sys2Proof.Laws.Encoded.droopEpisodeEnd (cl : Nat) : Sys2Proof.Laws.Encoded.Statement (Instr.droopEpisodeEnd cl) := ⟨rfl, rfl, rfl, rfl⟩
theorem Sys2Proof.Laws.Encoded.thermal (watts : BitVec 13) (temp : BitVec 8) : Sys2Proof.Laws.Encoded.Statement (Instr.thermal watts temp) := ⟨rfl, rfl, rfl, rfl⟩
theorem Sys2Proof.Laws.Encoded.throttleClear : Sys2Proof.Laws.Encoded.Statement Instr.throttleClear := ⟨rfl, rfl, rfl, rfl⟩
theorem Sys2Proof.Laws.Encoded.gatecmdGate (fn : Nat) (v : Word) : Sys2Proof.Laws.Encoded.Statement (Instr.gatecmdGate fn v) := ⟨rfl, rfl, rfl, rfl⟩
theorem Sys2Proof.Laws.Encoded.gatecmdUngate (fn : Nat) (v : Word) : Sys2Proof.Laws.Encoded.Statement (Instr.gatecmdUngate fn v) := ⟨rfl, rfl, rfl, rfl⟩
theorem Sys2Proof.Laws.Encoded.d3hot : Sys2Proof.Laws.Encoded.Statement Instr.d3hot := ⟨rfl, rfl, rfl, rfl⟩
theorem Sys2Proof.Laws.Encoded.d0 : Sys2Proof.Laws.Encoded.Statement Instr.d0 := ⟨rfl, rfl, rfl, rfl⟩
theorem Sys2Proof.Laws.Encoded.getstat : Sys2Proof.Laws.Encoded.Statement Instr.getstat := ⟨rfl, rfl, rfl, rfl⟩
theorem Sys2Proof.Laws.Encoded.getpres : Sys2Proof.Laws.Encoded.Statement Instr.getpres := ⟨rfl, rfl, rfl, rfl⟩
theorem Sys2Proof.Laws.Encoded.setpcap (watts : BitVec 13) : Sys2Proof.Laws.Encoded.Statement (Instr.setpcap watts) := ⟨rfl, rfl, rfl, rfl⟩
theorem Sys2Proof.Laws.Encoded.warmrst : Sys2Proof.Laws.Encoded.Statement Instr.warmrst := ⟨rfl, rfl, rfl, rfl⟩
theorem Sys2Proof.Laws.Encoded.mctpControl : Sys2Proof.Laws.Encoded.Statement Instr.mctpControl := ⟨rfl, rfl, rfl, rfl⟩
theorem Sys2Proof.Laws.Encoded.beat (g gi ch node : Nat) : Sys2Proof.Laws.Encoded.Statement (Instr.beat g gi ch node) := ⟨rfl, rfl, rfl, rfl⟩
theorem Sys2Proof.Laws.Encoded.kernelLoadEnd (c kid : Nat) : Sys2Proof.Laws.Encoded.Statement (Instr.kernelLoadEnd c kid) := ⟨rfl, rfl, rfl, rfl⟩
theorem Sys2Proof.Laws.Encoded.peerAttestationRequest (n : Nat) (ok keys : Bool) : Sys2Proof.Laws.Encoded.Statement (Instr.peerAttestationRequest n ok keys) := ⟨rfl, rfl, rfl, rfl⟩
theorem Sys2Proof.Laws.Encoded.hostLinkUp : Sys2Proof.Laws.Encoded.Statement Instr.hostLinkUp := ⟨rfl, rfl, rfl, rfl⟩
theorem Sys2Proof.Laws.Encoded.securityViolation (cl : Nat) (detail : BitVec 16) : Sys2Proof.Laws.Encoded.Statement (Instr.securityViolation cl detail) := ⟨rfl, rfl, rfl, rfl⟩
end

