-- ==== Sys2Proof/Laws/Tokens.lean ====
section
/-! SUPPORT. Tokens: what an heir, a hop and an arrival change of a token, and that sampling leaves the state alone where no token is sampled. -/

namespace Sys2Proof.Laws
open Sys2Proof.Machine

@[simp] theorem heir_payload (a t : Token) : (heir a t).payload = t.payload := by
  unfold heir; split <;> rfl
@[simp] theorem hop_payload (time work : Nat) (t : Token) : (hop time work t).payload = t.payload := rfl
@[simp] theorem hop_tag (time work : Nat) (t : Token) : (hop time work t).tag = t.tag := rfl
@[simp] theorem arriveOn_payload (time : Nat) (t : Token) : (arriveOn time t).payload = t.payload := rfl
@[simp] theorem arriveOn_tag (time : Nat) (t : Token) : (arriveOn time t).tag = t.tag := rfl

/-- R27: the bit of the source passes on. -/
@[simp] theorem sampledOf_heir (a t : Token) : sampledOf (heir a t) = sampledOf a := by
  unfold heir
  split <;> simp_all [sampledOf, BitVec.getLsbD]

/-- A token without a hop log gains none on its way. -/
theorem hop_plain (time work : Nat) {t : Token} (h : t.log = none) : hop time work t = t := by
  cases t; simp_all [hop]
theorem arriveOn_plain (time : Nat) {t : Token} (h : t.log = none) : arriveOn time t = t := by
  cases t; simp_all [arriveOn]

/-- Tokens that are not sampled reach no sink. -/
theorem sinkAll_plain (s : State) (g gi tile : Nat) : ∀ l : List Token, (∀ t ∈ l, sampledOf t = false) → sinkAll s g gi tile l = s
  | [], _ => rfl
  | t :: r, h => by
    have ht : sampledOf t = false := h t (by simp)
    have hr := sinkAll_plain s g gi tile r fun u hu => h u (by simp [hu])
    simpa [sinkAll, ht] using hr

end Sys2Proof.Laws
end

