-- ==== Sys2Proof/Tests/Slice0.lean ====
section
/-! SUPPORT. Tests: ill-formed terms that each check refuses, words and frames laid out by hand from the spec's encodings, steps on small states with results from the spec's own examples or by hand, and for every
statement states and operands that meet its hypotheses. -/

namespace Sys2Proof.Tests

set_option Elab.async false

open Sys2Proof Sys2Proof.Machine Sys2Proof.Claims

/-! ## Fields and small states -/

def g0 : GFields := { pr := .always, ty := .n64, t0 := some ⟨1, .a⟩, t1 := none, i := false, rnd := .rne, na := false, nb := false, nc := false, sat := false, imm := 0 }
def gty (t : Ty) : GFields := { g0 with ty := t }
def gim (t : Ty) (n : BitVec 20) : GFields := { g0 with ty := t, i := true, imm := n }
def m0 (sp : Space) : MFields := { pr := .always, ty := .i8, t0 := some ⟨1, .a⟩, t1 := none, seq := 0, pseq := 127, sseq := 127, spc := sp, pol := .rlx, scope := .tile }
def b0 : BFields := { pr := .always, hint := false, exit := 0, off := 0 }
def k0 (t : Ty) (n : BitVec 38) : KFields := { pr := .always, ty := t, t0 := some ⟨1, .a⟩, imm := n }
def w0 (n : BitVec 5) : WFields := { pr := .always, t0 := some ⟨1, .a⟩, t1 := none, word := n, ksel := 0 }
def e0 : EFields := { pr := .always, ty := .i8, pop := none, push := none }

/-- A block of one word, with values in the four entries of slot 0. -/
def blkOf (w : Word) (a b c p : Value) : Block :=
  { oneBlock w with entries := [(entryKey 0 .a, .val a), (entryKey 0 .b, .val b), (entryKey 0 .c, .val c), (entryKey 0 .p, .val p)], stmask := 1, wrmask := 1 }

/-- A ready part, one group on cluster 0 (present), one thread with one block, at slot 0. -/
def blkSt (a b c p : Value) : State :=
  { placeImage State.reset { Image.empty with threads := [(0, { freshThread 0 with blocks := [blkOf 0 a b c p] })] } with present := 1, site := .block 0 0 0 0 }

/-- The number that a step delivered to operand A of slot 1, as lane i. -/
def laneOut (r : Host.Outcome State Fault Refusal) (i : Nat) : Option Nat :=
  match r with
  | .next s => ((block? s 0 0 0).bind fun k => entry? k 1 .a).bind fun e => match e with | .val v => some (lane v i).toNat | .void => none
  | _ => none

/-- The flags that a step left in its block, and the code of the block's fault. -/
def flagsOut (r : Host.Outcome State Fault Refusal) : Option (BitVec 5) := match r with | .next s => (block? s 0 0 0).map (·.flags) | _ => none
def faultOut (r : Host.Outcome State Fault Refusal) : Option (Option Nat) := match r with | .next s => (block? s 0 0 0).map fun k => k.fault.map (·.code) | _ => none

def l0 (n : Nat) : Value := lane0 (BitVec.ofNat 64 n)

/-! ## Well-formedness: one term for each check, which the check refuses (R92, R93) -/

theorem wf_ok : Instr.wf .block (.add g0) = true := by decide
theorem wf_mode : Instr.wf .graph (.barv { g0 with ty := .i8, t0 := none }) = false := by decide
theorem wf_type : Instr.wf .block (.abs (gty .n64)) = false := by decide
theorem wf_imm : Instr.wf .block (.add { g0 with imm := 1 }) = false := by decide
theorem wf_rnd : Instr.wf .block (.add { g0 with rnd := .rtz }) = false := by decide
theorem wf_sat : Instr.wf .block (.rem { g0 with sat := true }) = false := by decide
theorem wf_neg : Instr.wf .block (.add { g0 with na := true }) = false := by decide
theorem wf_noImm : Instr.wf .block (.not { g0 with i := true }) = false := by decide
theorem wf_targets : Instr.wf .block (.add { g0 with t0 := none, t1 := some ⟨1, .a⟩ }) = false := by decide
theorem wf_sameTargets : Instr.wf .block (.add { g0 with t1 := some ⟨1, .a⟩ }) = false := by decide
theorem wf_graphTarget : Instr.wf .graph (.add { g0 with t0 := some ⟨16, .a⟩ }) = false := by decide
theorem wf_nullTargets : Instr.wf .block (.null { g0 with ty := .i8, t0 := none } .targets) = false := by decide
theorem wf_seq : Instr.wf .block (.ld { m0 .gm with seq := 32 }) = false := by decide
theorem wf_space : Instr.wf .block (.lde (m0 .up)) = false := by decide
theorem wf_off : Instr.wf .block (.ret { b0 with off := 1 }) = false := by decide
theorem wf_word : Instr.wf .graph (.krd { w0 1 with ksel := 0 }) = false := by decide
theorem wf_ownQueue : Instr.wf .block (.enop { e0 with push := some .tm } .tm) = false := by decide
theorem wf_eng : Instr.wf .block (.accclr e0 false 1 .f64) = false := by decide
theorem wf_suUnused : Instr.wf .block (.reduce { valbase := 1, param := 0, len := 0, segbase := 0, crdbase := 0, mtsel := 0, bcout := false, bcin := false, level := 0, redop := 0, duppol := 0, strict := false }) = false := by decide
theorem wf_mcTypes : Instr.wf .block (.mma { wid := 0, hgt := 0, posx := 0, posy := 0, kblk := 0, boff := 0, mxs := false, bty := .e4, aty := .i8, acc := 0 }) = false := by decide
theorem wf_mcPlace : Instr.wf .block (.mma { wid := 0, hgt := 0, posx := 1, posy := 0, kblk := 0, boff := 0, mxs := false, bty := .i8, aty := .i8, acc := 0 }) = false := by decide
theorem wf_agDims : Instr.wf .block (.aglin { stride3 := 0, stride2 := 0, stride1 := 8, cnt3 := 0, cnt2 := 0, cnt1 := 0, cnt0 := 0, base := 0, spc := .up, ndim := 0, ty := .n64, irel := false, wr := false }) = false := by decide
theorem wf_mtRange : Instr.wf .block (.mtown { ovfbase := 0, limit := 0, base := 0, param := 0 }) = false := by decide
theorem wf_event : Instr.wf .block .powerGood = false := by decide

/-! ## Decoding: words and frames laid out by hand -/

theorem decode_cmp : (decodeWord .block 0x054487C008020064).toOption = some (.cmp { gim .i32 100 with t0 := some ⟨7, .p⟩ } .lt) := by decide
theorem decode_shr : (decodeWord .block 0x03C7C00008000003).toOption = some (.shr { gim .n64 3 with t0 := some ⟨64, .a⟩ }) := by decide
theorem decode_mul : (decodeWord .block 0x0086C00000000000).toOption = some (.mul { gty .i64 with t0 := some ⟨64, .a⟩ }) := by decide
theorem decode_add : (decodeWord .block 0x0007820008020200).toOption = some (.add { gim .n64 0x20200 with t0 := some ⟨2, .a⟩ }) := rfl
theorem decode_mov : (decodeWord .block 0x32C0812080000000).toOption = some (.mov { gty .i8 with t0 := some ⟨1, .a⟩, t1 := some ⟨2, .a⟩ }) := by decide
theorem decode_cvtmx : (decodeWord .graph 0x244AC00000100000).toOption = some (.cvtmx { gty .f4 with t0 := some ⟨64, .a⟩, sat := true } .qnt) := by decide
theorem decode_ld : (decodeWord .block 0x40008600001FFF80).toOption = some (.ld { m0 .up with t0 := some ⟨6, .a⟩ }) := by decide
theorem decode_qput : (decodeWord .block 0x6200860008000005).toOption = some (.qput { gim .i8 5 with t0 := some ⟨6, .a⟩ }) := by decide
theorem decode_launch : (decodeWord .block 0x6280890000000000).toOption = some (.launch { gty .i8 with t0 := some ⟨9, .a⟩ }) := by decide
theorem decode_spawn : (decodeWord .block 0x62C0840008000003).toOption = some (.spawn { gim .i8 3 with t0 := some ⟨4, .a⟩ }) := by decide
theorem decode_tmov : (decodeWord .block 0x5000000000421C00).toOption = some (.tmov { e0 with push := some .ct } { ssp := .gm, dsp := .cp, esz := 3 }) := by decide
theorem decode_mgo : (decodeWord .block 0x5200000004000000).toOption = some (.mgo { e0 with pop := some .tm } 0 false) := by decide
theorem decode_mgoLast : (decodeWord .block 0x5200000000540000).toOption = some (.mgo { e0 with push := some .ct } 1 true) := by decide
theorem decode_accrd : (decodeWord .block 0x524000000040AD00).toOption = some (.accrd { e0 with push := some .ct } { spc := .cp, acc := 2, ety := .f32, afmt := .a36 }) := by decide
theorem decode_rst : (decodeWord .block 0x5440000000008000).toOption = some (.rst e0 .cp) := by decide
theorem decode_rfence : (decodeWord .block 0x5540000000400000).toOption = some (.rfence { e0 with push := some .ct }) := by decide
theorem decode_cred : (decodeWord .block 0x560D000000400000).toOption = some (.cred { e0 with ty := .f32, push := some .ct } .add) := by decide
theorem decode_enopPop : (decodeWord .block 0x57C0000004000000).toOption = some (.enop { e0 with pop := some .tm } .ct) := by decide
theorem decode_scanc : (decodeTableWord 256 (0x504000200 + 0x100 * 2 ^ 64 + 0x10010000000A * 2 ^ 128)).isSome = true := by decide
theorem decode_mmas : (decodeTableWord 64 0x354241).isSome = true := by decide
theorem decode_noRow : (decodeWord .block 0xFFC0000000000000).toOption = none := by decide

/-! ## Compute instructions in a block: a slot whose entries hold values -/

/-- Every row of O1 to O9 has a state in which its slot fires, with each use of entries and, below, with each predicate. -/
theorem witness_blockGo : ∃ x k, BlockGo (blkSt 1 2 3 1) 0 0 0 0 .always true true true x k 1 2 3 := ⟨_, _, rfl, rfl, rfl, rfl, rfl⟩
theorem witness_blockGoTrue : ∃ x k, BlockGo (blkSt 1 2 3 1) 0 0 0 0 .ifTrue true true false x k 1 2 3 := ⟨_, _, rfl, rfl, rfl, by decide +kernel, rfl⟩
theorem witness_blockGoFalse : ∃ x k, BlockGo (blkSt 1 2 3 0) 0 0 0 0 .ifFalse false false false x k 1 2 3 := ⟨_, _, rfl, rfl, rfl, by decide +kernel, rfl⟩

theorem witness_row_arith : (arithRow (.abs (gty .i8))).isSome = true := rfl
theorem witness_row_logic : (logicRow (.ror (gty .n64))).isSome = true := rfl
theorem witness_row_field : (fieldRow (.bfi (gty .i16))).isSome = true := rfl
theorem witness_row_float : (floatRow (.fma (gty .a36))).isSome = true := rfl
theorem witness_row_function : (functionRow (.fsigm (gty .bf16))).isSome = true := rfl
theorem witness_row_select : (fpSelectRow (.fclass (gty .a36))).isSome = true := rfl
theorem witness_row_bit : (bitRow (.brev (gty .n8))).isSome = true := rfl
theorem witness_types : (gty .n32).ty = .n8 ∨ (gty .n32).ty = .n16 ∨ (gty .n32).ty = .n32 := by decide
theorem witness_pack : Ty.isInt (gty .i16).ty = true ∧ 16 ≤ Ty.width (gty .i16).ty := by decide
theorem witness_mx : (gty .f4).ty = .e4 ∨ (gty .f4).ty = .e5 ∨ (gty .f4).ty = .f4 := by decide

/-- R148: a sum wraps at 2^64. -/
theorem test_add_wraps : laneOut (exec (.add (gty .n64)) (blkSt (l0 (2 ^ 64 - 1)) (l0 1) 0 0)) 0 = some 0 := by decide +kernel
/-- R142: a saturated difference stays at the type's limit. -/
theorem test_sub_saturates : laneOut (exec (.sub { gty .i8 with sat := true }) (blkSt (l0 0x80) (l0 1) 0 0)) 0 = some 0x80 := by decide +kernel
theorem test_mul_wraps : laneOut (exec (.mul (gty .i8)) (blkSt (l0 0x40) (l0 4) 0 0)) 0 = some 0 := by decide +kernel
theorem test_mulh_high : laneOut (exec (.mulh (gty .n64)) (blkSt (l0 (2 ^ 63)) (l0 4) 0 0)) 0 = some 2 := by decide +kernel
/-- R149. -/
theorem test_div_zero : laneOut (exec (.div { gty .n64 with sat := true }) (blkSt (l0 5) (l0 0) 0 0)) 0 = some (2 ^ 64 - 1) := by decide +kernel
theorem test_div_corner : laneOut (exec (.div { gty .i64 with sat := true }) (blkSt (l0 (2 ^ 63)) (l0 (2 ^ 64 - 1)) 0 0)) 0 = some (2 ^ 63 - 1) := by decide +kernel
theorem test_rem_sign : laneOut (exec (.rem (gty .i64)) (blkSt (l0 (2 ^ 64 - 7)) (l0 2) 0 0)) 0 = some (2 ^ 64 - 1) := by decide +kernel
theorem test_min_signed : laneOut (exec (.min (gty .i64)) (blkSt (l0 (2 ^ 64 - 1)) (l0 1) 0 0)) 0 = some (2 ^ 64 - 1) := by decide +kernel
theorem test_max_unsigned : laneOut (exec (.max (gty .n64)) (blkSt (l0 (2 ^ 64 - 1)) (l0 1) 0 0)) 0 = some (2 ^ 64 - 1) := by decide +kernel
theorem test_abs_least : laneOut (exec (.abs (gty .i64)) (blkSt (l0 (2 ^ 63)) 0 0 0)) 0 = some (2 ^ 63) := by decide +kernel
theorem test_mad : laneOut (exec (.mad (gty .n64)) (blkSt (l0 3) (l0 5) (l0 7) 0)) 0 = some 22 := by decide +kernel
/-- R150. -/
theorem test_andn : laneOut (exec (.andn (gty .n64)) (blkSt (l0 7) (l0 5) 0 0)) 0 = some 2 := by decide +kernel
theorem test_shl_saturates : laneOut (exec (.shl { gty .i64 with sat := true }) (blkSt (l0 (2 ^ 64 - 1)) (l0 64) 0 0)) 0 = some (2 ^ 63) := by decide +kernel
theorem test_shr_logical : laneOut (exec (.shr (gim .i64 1)) (blkSt (l0 (2 ^ 63)) 0 0 0)) 0 = some (2 ^ 62) := by decide +kernel
theorem test_sra_beyond : laneOut (exec (.sra (gim .n64 64)) (blkSt (l0 (2 ^ 63)) 0 0 0)) 0 = some (2 ^ 64 - 1) := by decide +kernel
theorem test_rol : laneOut (exec (.rol (gim .n64 65)) (blkSt (l0 (2 ^ 63 + 1)) 0 0 0)) 0 = some 3 := by decide +kernel
theorem test_ror : laneOut (exec (.ror (gim .n64 1)) (blkSt (l0 3) 0 0 0)) 0 = some (2 ^ 63 + 1) := by decide +kernel
/-- R151: a field that reaches past the top reads sign bits. -/
theorem test_bfx_sign : laneOut (exec (.bfx (gty .i64)) (blkSt (l0 (2 ^ 63)) (l0 (60 + 8 * 256)) 0 0)) 0 = some (2 ^ 64 - 8) := by decide +kernel
theorem test_bfi : laneOut (exec (.bfi (gty .n64)) (blkSt (l0 0xFFFF) (l0 (4 + 4 * 256)) (l0 0x3) 0)) 0 = some 0xFF3F := by decide +kernel
/-- R152. -/
theorem test_cmp_signed : laneOut (exec (.cmp (gty .i64) .lt) (blkSt (l0 (2 ^ 64 - 1)) (l0 0) 0 0)) 0 = some (2 ^ 64 - 1) := by decide +kernel
theorem test_sel_b : laneOut (exec (.sel (gty .n64)) (blkSt (l0 1) (l0 2) (l0 0) 0)) 0 = some 2 := by decide +kernel
/-- R153: an address wraps within 57 bits. -/
theorem test_adda_wraps : laneOut (exec (.adda (gim .n64 1)) (blkSt (l0 (2 ^ 57 - 1)) 0 0 0)) 0 = some 0 := by decide +kernel
/-- R154: MOVK.n32 0x3DCC_CCCD in both elements of a lane. -/
theorem test_movk : laneOut (exec (.movk (k0 .n32 0x3DCCCCCD)) (blkSt 0 0 0 0)) 0 = some 0x3DCCCCCD3DCCCCCD := by decide +kernel
theorem test_movkh : laneOut (exec (.movkh (k0 .n64 1)) (blkSt (l0 (2 ^ 26 + 5)) 0 0 0)) 0 = some (2 ^ 26 + 5) := by decide +kernel

/-- R158's example: FMA.f32 of 0x3F80_0400, 0x3F7F_F800 and −1 is 0xB280_0000 without a flag. -/
theorem test_fma : laneOut (exec (.fma (gty .f32)) (blkSt (l0 0x3F800400) (l0 0x3F7FF800) (l0 0xBF800000) 0)) 0 = some 0xB2800000
    ∧ flagsOut (exec (.fma (gty .f32)) (blkSt (l0 0x3F800400) (l0 0x3F7FF800) (l0 0xBF800000) 0)) = some 0 := by decide +kernel
/-- R158's example: FMUL rounds to 1.0 and raises NX. -/
theorem test_fmul : laneOut (exec (.fmul (gty .f32)) (blkSt (l0 0x3F800400) (l0 0x3F7FF800) 0 0)) 0 = some 0x3F800000
    ∧ flagsOut (exec (.fmul (gty .f32)) (blkSt (l0 0x3F800400) (l0 0x3F7FF800) 0 0)) = some flagNX := by decide +kernel
/-- R155: an exact zero sum is −0 under RDN; a quotient by zero raises DZ. -/
theorem test_fadd_rdn : laneOut (exec (.fadd { gty .f64 with rnd := .rdn }) (blkSt (splat 0x3FF0000000000000) (splat 0xBFF0000000000000) 0 0)) 0 = some (2 ^ 63) := by decide +kernel
theorem test_fsub_rne : laneOut (exec (.fsub (gty .f64)) (blkSt (l0 0x3FF0000000000000) (l0 0x3FF0000000000000) 0 0)) 0 = some 0 := by decide +kernel
theorem test_fdiv_zero : laneOut (exec (.fdiv (gty .f64)) (blkSt (splat 0x3FF0000000000000) 0 0 0)) 0 = some 0x7FF0000000000000
    ∧ flagsOut (exec (.fdiv (gty .f64)) (blkSt (splat 0x3FF0000000000000) 0 0 0)) = some flagDZ := by decide +kernel
theorem test_fsqrt_four : laneOut (exec (.fsqrt (gty .f64)) (blkSt (splat 0x4010000000000000) 0 0 0)) 0 = some 0x4000000000000000 := by decide +kernel
theorem test_fscale : laneOut (exec (.fscale (gty .f64)) (blkSt (splat 0x3FF0000000000000) (splat 0x4000000000000000) 0 0)) 0 = some 0x4010000000000000 := by decide +kernel
/-- R156: an exact result raises no NX; FSIN.f32 of 0.5 is 1.0. -/
theorem test_fexp2_exact : laneOut (exec (.fexp2 (gty .bf16)) (blkSt (splat 0x4000400040004000) 0 0 0)) 0 = some 0x4080408040804080
    ∧ flagsOut (exec (.fexp2 (gty .bf16)) (blkSt (splat 0x4000400040004000) 0 0 0)) = some 0 := by decide +kernel
theorem test_flog2_one : laneOut (exec (.flog2 (gty .bf16)) (blkSt (splat 0x3F803F803F803F80) 0 0 0)) 0 = some 0 := by decide +kernel
theorem test_fsin_half : laneOut (exec (.fsin (gty .f32)) (blkSt (splat 0x3F0000003F000000) 0 0 0)) 0 = some 0x3F8000003F800000 := by decide +kernel
theorem test_fcos_half : laneOut (exec (.fcos (gty .f32)) (blkSt (splat 0x3F0000003F000000) 0 0 0)) 0 = some 0 := by decide +kernel
theorem test_frcp_zero : laneOut (exec (.frcp (gty .f64)) (blkSt 0 0 0 0)) 0 = some 0x7FF0000000000000 := by decide +kernel
/-- R157: −0 is below +0; one NaN gives the other input; FRINT keeps the sign. -/
theorem test_fmin_zero : laneOut (exec (.fmin (gty .f64)) (blkSt 0 (l0 (2 ^ 63)) 0 0)) 0 = some (2 ^ 63) := by decide +kernel
theorem test_fmax_nan : laneOut (exec (.fmax (gty .f64)) (blkSt (l0 0x7FF8000000000000) (l0 5) 0 0)) 0 = some 5 := by decide +kernel
theorem test_frint_sign : laneOut (exec (.frint (gty .f64)) (blkSt (l0 0xBFD0000000000000) 0 0 0)) 0 = some (2 ^ 63) := by decide +kernel
/-- R158. -/
theorem test_fcmp_un : laneOut (exec (.fcmp (gty .f64) .un) (blkSt (l0 0x7FF8000000000000) 0 0 0)) 0 = some (2 ^ 64 - 1) := by decide +kernel
theorem test_fclass_subnormal : laneOut (exec (.fclass (gty .f64)) (blkSt (l0 1) 0 0 0)) 0 = some 32 := by decide +kernel

/-- R159's examples: 70,000.0 and 1.0 to f16, without and with SAT. -/
theorem test_cvt : laneOut (exec (.cvt (gty .f16) .f32) (blkSt (l0 0x3F8000004788B800) 0 0 0)) 0 = some 0x3C007C00 := by decide +kernel
theorem test_cvt_sat : laneOut (exec (.cvt { gty .f16 with sat := true } .f32) (blkSt (l0 0x3F8000004788B800) 0 0 0)) 0 = some 0x3C007BFF := by decide +kernel
/-- R168's example: a block of f4 with scale 0x80. -/
theorem test_cvtmx : laneOut (exec (.cvtmx (gty .f4) .qnt) (blkSt (packList 1024 32 [0x41200000, 0xC0400000, 0x3F333333]) 0 0 0)) 0 = some 0x1B6
    ∧ laneOut (exec (.cvtmx (gty .f4) .qnt) (blkSt (packList 1024 32 [0x41200000, 0xC0400000, 0x3F333333]) 0 0 0)) 15 = some 0x80 := by decide +kernel
/-- R161, R164: an index is read modulo N; selected elements are packed downward. -/
theorem test_shuf : laneOut (exec (.shuf (gty .n64)) (blkSt (packList 1024 64 [10, 11]) (packList 1024 64 [17]) 0 0)) 0 = some 11 := by decide +kernel
theorem test_bcast : laneOut (exec (.bcast (gim .n64 1)) (blkSt (packList 1024 64 [10, 11]) 0 0 0)) 3 = some 11 := by decide +kernel
theorem test_cmpr : laneOut (exec (.cmpr (gty .n64)) (blkSt (packList 1024 64 [10, 11, 12]) (packList 1024 64 [0, 1, 1]) 0 0)) 1 = some 12 := by decide +kernel
theorem test_expd : laneOut (exec (.expd (gty .n64)) (blkSt (packList 1024 64 [10, 11]) (packList 1024 64 [0, 1, 1]) 0 0)) 2 = some 11 := by decide +kernel
/-- R162: 1 + 2 + … + 16, and the running sums. -/
theorem test_lred : laneOut (exec (.lred (gty .n64) .add) (blkSt (packList 1024 64 [1, 2, 3, 4, 5, 6, 7, 8, 9, 10, 11, 12, 13, 14, 15, 16]) 0 0 0)) 7 = some 136 := by decide +kernel
theorem test_lscan : laneOut (exec (.lscan (gty .n64) .add) (blkSt (packList 1024 64 [1, 2, 3, 4]) 0 0 0)) 2 = some 6 := by decide +kernel
/-- R163, R165. -/
theorem test_pack : laneOut (exec (.pack (gty .n64)) (blkSt (l0 0x1FFFFFFFF) (l0 3) 0 0)) 0 = some 0x3FFFFFFFF := by decide +kernel
theorem test_unpk : laneOut (exec (.unpk (gim .i64 1)) (blkSt (l0 0x8000000000000000) 0 0 0)) 0 = some 0xFFFFFFFF80000000 := by decide +kernel
theorem test_clmul : laneOut (exec (.clmul (gty .n32)) (blkSt (l0 3) (l0 3) 0 0)) 0 = some 5 := by decide +kernel
theorem test_popc : laneOut (exec (.popc (gty .n64)) (blkSt (l0 0xFF0) 0 0 0)) 0 = some 8 := by decide +kernel
theorem test_clz_zero : laneOut (exec (.clz (gty .n64)) (blkSt 0 0 0 0)) 0 = some 64 := by decide +kernel
theorem test_ctz : laneOut (exec (.ctz (gty .n64)) (blkSt (l0 8) 0 0 0)) 0 = some 3 := by decide +kernel
theorem test_brev : laneOut (exec (.brev (gty .n64)) (blkSt (l0 1) 0 0 0)) 0 = some (2 ^ 63) := by decide +kernel
/-- R166, R167. -/
theorem test_mkmsk : laneOut (exec (.mkmsk (gty .f64)) (blkSt (packList 1024 64 [0, 2 ^ 63, 1]) 0 0 0)) 0 = some 6 := by decide +kernel
theorem test_mskop_first : laneOut (exec (.mskop (gty .n64) .first) (blkSt (l0 0x14) 0 0 0)) 5 = some 2 := by decide +kernel
theorem test_laneid : laneOut (exec (.laneid (gty .n64)) (blkSt 0 0 0 0)) 9 = some 9 := by decide +kernel
theorem test_mov : laneOut (exec (.mov (gty .i8)) (blkSt (l0 77) 0 0 0)) 0 = some 77 := by decide +kernel
/-- R172: a predicate that fails sends nothing. -/
theorem test_untaken : laneOut (exec (.mov { gty .i8 with pr := .ifTrue }) (blkSt (l0 77) 0 0 0)) 0 = none := by decide +kernel

/-! ## A slot of a resident graph -/

/-- A graph of one CE whose slot 1 holds tokens in its entries A and B. -/
def ceSt (a b : List Token) : State :=
  let c := { oneCe 0 with sloten := 6, frames := { freshCeFrame with live := true, ks := [0, 0, 0, 0], entries := [(entryKey 1 .a, a), (entryKey 1 .b, b)] } :: List.replicate 7 freshCeFrame }
  { placeImage State.reset { Image.empty with graphs := [(0, oneGraph 128 { emptyTile with ce := some c })] } with present := 1, site := .ce 0 0 128 0 1 }

def v0 (n : Nat) : Token := tok kindVAL 0 n

/-- The payloads that reached entry A of slot 2 of the CE, and the code on the group's freeze line. -/
def ceOut (r : Host.Outcome State Fault Refusal) : Option (List Nat) :=
  match r with
  | .next s => (ce? s 0 0 128).map fun c => ((frame? c 0).map fun f => (Tab.get f.entries (entryKey 2 .a) []).map fun t => t.payload.toNat).getD []
  | _ => none
def freezeOut (r : Host.Outcome State Fault Refusal) : Option (Option Nat) := match r with | .next s => (grp? s 0).map fun x => x.freeze.map (·.code) | _ => none

theorem witness_graphGo : ∃ x gr c, GraphGo (ceSt [v0 2, v0 3] [v0 5, v0 6]) 0 0 128 0 1 x gr c (some ⟨2, .a⟩) none [.a, .b] 2 :=
  ⟨_, _, _, rfl, rfl, rfl, by decide +kernel, by decide +kernel, by decide +kernel, by decide +kernel, by decide, by decide +kernel⟩

/-- The CE with a P entry besides: a token of an across-lane or an operand-free instruction. -/
def ceStP (a p : List Token) : State :=
  modCe (ceSt a []) 0 0 128 fun c => { c with frames := modAt c.frames 0 fun f => { f with entries := [(entryKey 1 .a, a), (entryKey 1 .p, p)] } }
/-- MOVK or LANEID without P, and with a P token of 1. -/
theorem witness_once : ∃ gr c, (ceStP [] [v0 1]).site = .ce 0 0 128 0 1 ∧ ceFiring? (ceStP [] [v0 1]) 0 0 128 0 1 = some (gr, c) ∧ ceLowerReady gr c 128 1 = false
    ∧ outRoom gr c 128 (some ⟨2, .a⟩) none = true ∧ entryClosed gr c 128 0 1 .p = false ∧ entryTokens gr c 128 0 1 .p = [v0 1] ∧ badToken (v0 1) = false :=
  ⟨_, _, rfl, rfl, by decide +kernel, by decide +kernel, by decide +kernel, by decide +kernel, by decide +kernel⟩
/-- An across-lane instruction on two values and a STOP, on a STOP alone, on a whole value of 16 tokens, and, with P, on entries that end differently. -/
theorem witness_across (a p : List Token) (h : (a, p) = ([v0 2, v0 3, tok kindSTOP 0 0], []) ∨ (a, p) = ([tok kindSTOP 0 0], []) ∨ (a, p) = (List.replicate 16 (v0 1), []) ∨ (a, p) = ([v0 2, tok kindSTOP 0 0], [v0 1, tok kindSTOP 1 0])) :
    ∃ x gr c, (ceStP a p).site = .ce 0 0 128 0 1 ∧ grp? (ceStP a p) 0 = some x ∧ ceFiring? (ceStP a p) 0 0 128 0 1 = some (gr, c) ∧ ceLowerReady gr c 128 1 = false ∧ outRoom gr c 128 (some ⟨2, .a⟩) none = true
      ∧ ∀ q ∈ (Opnd.a, a) :: (if p = [] then [] else [(Opnd.p, p)]), entryClosed gr c 128 0 1 q.1 = false ∧ valueOf 16 (entryTokens gr c 128 0 1 q.1) = q.2
        ∧ (q.2.length = 16 ∨ (endOf q.2).isSome = true) ∧ ∀ t ∈ q.2, badToken t = false := by
  rcases h with h | h | h | h <;> cases h <;> exact ⟨_, _, _, rfl, rfl, rfl, by decide +kernel, by decide +kernel, by decide +kernel⟩
theorem witness_ends : endsAgree [endOf [v0 2, tok kindSTOP 0 0], endOf [v0 1, tok kindSTOP 1 0]] = false ∧ endsAgree [endOf [v0 2, tok kindSTOP 0 0], endOf [v0 1, tok kindSTOP 0 0]] = true := by decide +kernel

/-- A block of 32 f4 elements, a SCALE and two values, for CVTMX dq, and a STOP alone. -/
def mxToks : List Token := [tok kindSCALE 0 127, v0 0x2, v0 0]
theorem witness_dequantise (a : List Token) (h : a = mxToks ∨ a = [tok kindSTOP 0 0]) : ∃ x gr c hd body, (ceStP a []).site = .ce 0 0 128 0 1 ∧ grp? (ceStP a []) 0 = some x ∧ ceFiring? (ceStP a []) 0 0 128 0 1 = some (gr, c)
    ∧ entryClosed gr c 128 0 1 .a = false ∧ ceLowerReady gr c 128 1 = false ∧ outRoom gr c 128 (some ⟨2, .a⟩) none = true ∧ (entryTokens gr c 128 0 1 .a).take 3 = hd :: body ∧ (∀ t ∈ hd :: body, badToken t = false)
    ∧ (kindOf hd = 8 ∧ levelOf hd = 0 ∧ body.length + 1 = 3 ∧ (∀ t ∈ body, isControl t = false) ∨ isControl hd = true ∧ kindOf hd ≠ 8) := by
  rcases h with h | h <;> subst h <;> exact ⟨_, _, _, _, _, rfl, rfl, rfl, by decide +kernel, by decide +kernel, by decide +kernel, rfl, by decide +kernel, by decide +kernel⟩
/-- R168: element 0 is 1, that is 0x3F80_0000, under a scale of 2 to the 0. -/
theorem test_graph_dq : (ceOut (exec (.cvtmx { g0 with ty := .f4, t0 := some ⟨2, .a⟩ } .dq) (ceStP mxToks []))).map (fun l => (l.length, l.head?)) = some (16, some 0x3F800000) := by decide +kernel
/-- R162, R144: a sum over two lanes of a value that a STOP cuts short, then the STOP. -/
theorem test_graph_lred : ceOut (exec (.lred { g0 with ty := .i64, t0 := some ⟨2, .a⟩ } .add) (ceStP [v0 2, v0 3, tok kindSTOP 0 0] [])) = some [5, 0] := by decide +kernel
/-- R177: EMPTY passes through MOV as it is. -/
theorem test_graph_mov : ceOut (exec (.mov { g0 with t0 := some ⟨2, .a⟩ }) (ceStP [tok kindEMPTY 0 7, v0 9] [])) = some [7, 9] := by decide +kernel
/-- R143: two positions of an addition, in order. -/
theorem test_graph_add : ceOut (exec (.add { g0 with t0 := some ⟨2, .a⟩ }) (ceSt [v0 2, v0 3] [v0 5, v0 6])) = some [7, 9] := by decide +kernel
/-- R43: a value beside a STOP is TOKEN_ALIGN. -/
theorem test_graph_align : freezeOut (exec (.add { g0 with t0 := some ⟨2, .a⟩ }) (ceSt [v0 2] [tok kindSTOP 0 0])) = some (some 0x21) := by decide +kernel

/-! ## Branches, windows, voids -/

theorem witness_blockAt : ∃ k, BlockAt (blkSt 1 2 3 1) 0 0 0 0 .always true true true k 1 2 3 ∧ Unwatched (blkSt 1 2 3 1) ∧ k.branch = none ∧ k.fault = none ∧ k.waits = []
    ∧ has k.wrDone 31 = false ∧ has k.wrDischarged 31 = false ∧ has k.stDone 31 = false ∧ has k.stDischarged 31 = false :=
  ⟨_, ⟨rfl, rfl, rfl, rfl⟩, rfl, rfl, rfl, rfl, rfl, rfl, rfl, rfl⟩
theorem witness_windowSeen : ∃ t, thread? (blkSt 1 2 3 1) 0 0 = some t ∧ (windowSeen t 0)[31]? = some (some 0) := ⟨_, rfl, by decide +kernel⟩

/-- The block after its BR has fired, or after its WRITE of w5 has. -/
def blkWith (f : Block → Block) : State := modBlock (blkSt 1 2 3 1) 0 0 0 f

theorem witness_secondValue : ∃ k e, block? (blkSt 1 2 3 1) 0 0 0 = some k ∧ entry? k 0 .a = some e ∧ k.fault = none := ⟨_, _, rfl, rfl, rfl⟩
theorem witness_secondBranch : ∃ k, Unwatched (blkWith fun k => { k with branch := some (.br, 32) })
    ∧ BlockAt (blkWith fun k => { k with branch := some (.br, 32) }) 0 0 0 0 .always false false false k 1 2 3 ∧ k.branch = some (.br, 32) ∧ k.fault = none :=
  ⟨_, rfl, ⟨rfl, rfl, rfl, rfl⟩, rfl, rfl⟩
theorem witness_secondWrite : ∃ k, BlockAt (blkWith fun k => { k with wrDone := [5] }) 0 0 0 0 .always true false false k 1 2 3 ∧ has k.wrDone 5 = true := ⟨_, ⟨rfl, rfl, rfl, rfl⟩, rfl⟩
theorem witness_untaken : ∃ k, firing? (blkSt 1 2 3 0) 0 0 0 0 = some k ∧ takeEntries k 0 .ifTrue true true false = .untaken := ⟨_, rfl, by decide +kernel⟩
theorem witness_nulled : ∃ k, firing? (blkWith fun k => { k with entries := [(entryKey 0 .a, .void)] }) 0 0 0 0 = some k ∧ takeEntries k 0 .always true false false = .nulled := ⟨_, rfl, rfl⟩
theorem witness_wait : ∃ k, firing? (blkWith fun k => { k with entries := [] }) 0 0 0 0 = some k ∧ takeEntries k 0 .always true false false = .wait := ⟨_, rfl, rfl⟩

def branchOut (r : Host.Outcome State Fault Refusal) : Option (Option (BranchKind × Nat)) := match r with | .next s => (block? s 0 0 0).map (·.branch) | _ => none

/-- R70: an offset of −1 from a block at 64. -/
theorem test_br_back : branchOut (exec (.br { b0 with off := BitVec.ofInt 48 (-1) }) (blkWith fun k => { k with addr := 64 })) = some (some (.br, 32)) := by decide +kernel
theorem test_ret : branchOut (exec (.ret b0) (blkSt (l0 0x47) 0 0 0)) = some (some (.ret, 0x40)) := by decide +kernel
theorem test_call : branchOut (exec (.call { b0 with off := 2 }) (blkSt 0 0 0 0)) = some (some (.call, 64)) := by decide +kernel
theorem test_bri : branchOut (exec (.bri b0) (blkSt (l0 (2 ^ 57 + 0x60)) 0 0 0)) = some (some (.br, 0x60)) := by decide +kernel
theorem test_write : (match exec (.write (w0 5)) (blkSt (l0 9) 0 0 0) with | .next s => (block? s 0 0 0).map fun k => (k.wrDone, (Tab.get k.wrVals 5 0).toNat) | _ => none) = some ([5], 9) := by decide +kernel
/-- R173: the void of a store's SEQ 0 and 2. -/
theorem test_null_st : (match exec (.null { gim .i8 5 with t0 := none } .st0) (blkSt 0 0 0 0) with | .next s => (block? s 0 0 0).map fun k => (has k.stDischarged 0, has k.stDischarged 1, has k.stDischarged 2) | _ => none)
    = some (true, false, true) := by decide +kernel

/-! ## Memory -/

/-- A block of one memory instruction. -/
def memSt (i : Instr) (a b c : Value) : State := modBlock (blkSt a b c 1) 0 0 0 fun k => { k with words := [(encode i).getD 0] }

def mf (sp : Space) (t : Ty) : MFields := { m0 sp with ty := t }

/-- The edge AG and the tile-move engine of cluster 0 hold the translation of the page at 0x1_0000 with a leaf. -/
def mapped (leaf : Word) (s : State) : State :=
  { s with extents := [(0, [{ ctx := 0, base := 0x10000, size := 16, leaf := leaf }]), (1000, [{ ctx := 0, base := 0x10000, size := 16, leaf := leaf }])] }

/-- A normal page at physical 0x5_0000, readable and writable. -/
def hbmLeaf : Word := 0x5000F
/-- A sync page of tile 0. -/
def syncLeaf : Word := 0x2F

/-- MT 0 of graph 0 runs MTSYNC over its whole pad, with one word full. -/
def syncSt (full : Bool) (s : State) : State :=
  let f : Frame := 0x28B + (0x20000 : Frame) <<< 128
  let m := freshMtFn f
  let fn := { m with sync := [(8, { (freshSync m) with full := full })] }
  modImage s 0 fun i => { i with graphs := [(0, oneGraph 0 { emptyTile with mt := some { fn := some fn, ag0 := none, ag1 := none } })] }

theorem witness_mem_ld : ∃ x t k, Sound (memSt (.ld (m0 .up)) (l0 256) 0 0) ∧ MemGo (memSt (.ld (m0 .up)) (l0 256) 0 0) 0 0 0 0 (m0 .up) .ld x t k (l0 256) 0 0
    ∧ padKey x (mvOfSpace .up) (clusterOfThread x 0) 128 256 = some (upKey 0 256) :=
  ⟨_, _, _, ⟨rfl, rfl⟩, ⟨⟨rfl, rfl, rfl, by decide +kernel⟩, rfl, rfl, by decide +kernel, fun _ => by decide +kernel⟩, by decide +kernel⟩
/-- Beyond a dp allocation of nothing. -/
theorem witness_mem_beyond : ∃ x, grp? (memSt (.ld (m0 .dp)) (l0 256) 0 0) 0 = some x ∧ padKey x (mvOfSpace .dp) (clusterOfThread x 0) 128 256 = none := ⟨_, rfl, by decide +kernel⟩
theorem witness_mem_gm : gmFind (mapped hbmLeaf (memSt (.ld (m0 .gm)) (l0 0x10080) 0 0)) (edgeHolder 0) 0 0x10080 128 .read
    = (mapped hbmLeaf (memSt (.ld (m0 .gm)) (l0 0x10080) 0 0), .at_ 0x50080 none) := rfl
theorem witness_mem_ldx : ∃ x t k, MemGo (memSt (.ldx (mf .cp .n64)) (l0 8) 0 0) 0 0 0 0 (mf .cp .n64) .ldx x t k (l0 8) 0 0 ∧ 8 ≤ Ty.width (mf .cp .n64).ty
    ∧ padKey x (mvOfSpace .cp) (clusterOfThread x 0) 8 8 = some (cpKey 0 8) :=
  ⟨_, _, _, ⟨⟨rfl, rfl, rfl, by decide +kernel⟩, rfl, rfl, by decide +kernel, fun _ => by decide +kernel⟩, by decide, by decide +kernel⟩
/-- Every index of that gather is 0, and its address 8. -/
theorem witness_mem_index : ((List.range 16).all fun j => activeAt 8 64 (0 : Value) j == some 8) = true := by decide +kernel
theorem witness_mem_st : ∃ x t k, MemGo (memSt (.st { m0 .up with t0 := none }) (l0 0) (l0 7) 0) 0 0 0 0 { m0 .up with t0 := none } .st x t k (l0 0) (l0 7) 0
    ∧ has k.stDone 0 = false ∧ has k.stDischarged 0 = false := ⟨_, _, _, ⟨⟨rfl, rfl, rfl, by decide +kernel⟩, rfl, rfl, by decide +kernel, fun _ => by decide +kernel⟩, rfl, rfl⟩
theorem witness_mem_stGm : gmFind (mapped hbmLeaf (memSt (.st (m0 .gm)) (l0 0x10080) 0 0)) (edgeHolder 0) 0 0x10080 128 .write
    = (mapped hbmLeaf (memSt (.st (m0 .gm)) (l0 0x10080) 0 0), .at_ 0x50080 none) := rfl
theorem witness_mem_stx : ∃ x t k, MemGo (memSt (.stx { mf .up .n8 with t0 := none }) (l0 0) 0 0) 0 0 0 0 { mf .up .n8 with t0 := none } .stx x t k (l0 0) 0 0 :=
  ⟨_, _, _, ⟨⟨rfl, rfl, rfl, by decide +kernel⟩, rfl, rfl, by decide +kernel, fun _ => by decide +kernel⟩⟩
theorem witness_mem_atomic : ∃ x t k, atomicTy .cas .f64 ∧ MemGo (memSt (.acas (mf .up .f64)) (l0 8) (l0 1) (l0 0)) 0 0 0 0 (mf .up .f64) (.atom .cas) x t k (l0 8) (l0 1) (l0 0)
    ∧ padKey x (mvOfSpace .up) (clusterOfThread x 0) 8 8 = some (upKey 0 8) :=
  ⟨_, _, _, by simp [atomicTy], ⟨⟨rfl, rfl, rfl, by decide +kernel⟩, rfl, rfl, by decide +kernel, fun _ => by decide +kernel⟩, by decide +kernel⟩
theorem witness_mem_atomicGm : gmFind (mapped hbmLeaf (memSt (.aadd (mf .gm .n64)) (l0 0x10080) 0 0)) (edgeHolder 0) 0 0x10080 8 .atomic
    = (mapped hbmLeaf (memSt (.aadd (mf .gm .n64)) (l0 0x10080) 0 0), .at_ 0x50080 none)
    ∧ isHost 0x50080 = false ∧ isPeer 0x50080 = false := ⟨rfl, by decide +kernel, by decide +kernel⟩

def syncMem (full : Bool) (i : Instr) : State := mapped syncLeaf (syncSt full (memSt i (l0 0x10008) (l0 5) 0))

theorem witness_sync : ∃ x t k m, MemGo (syncMem true (.lde (m0 .gm))) 0 0 0 0 (m0 .gm) .lde x t k (l0 0x10008) (l0 5) 0
    ∧ gmFind (syncMem true (.lde (m0 .gm))) (edgeHolder 0) 0 0x10008 8 .sync = (syncMem true (.lde (m0 .gm)), .at_ (upKey 0 8) (some (0, 0, 8)))
    ∧ mtSync? (syncMem true (.lde (m0 .gm))) 0 0 0 = some m ∧ (syncWord m 8).serving = false ∧ (syncWord m 8).full = true :=
  ⟨_, _, _, _, ⟨⟨rfl, rfl, rfl, by decide +kernel⟩, rfl, rfl, by decide +kernel, fun _ => by decide +kernel⟩, rfl, rfl, rfl, rfl⟩
theorem witness_syncEmpty : ∃ m, mtSync? (syncMem false (.lde (m0 .gm))) 0 0 0 = some m ∧ (syncWord m 8).full = false ∧ (syncWord m 8).readers.length < 64 ∧ (syncWord m 8).overflow = [] :=
  ⟨_, rfl, rfl, by decide +kernel, rfl⟩
theorem witness_ldf : ∃ x t k, MemGo (syncMem true (.ldf (m0 .gm))) 0 0 0 0 (m0 .gm) .ldf x t k (l0 0x10008) (l0 5) 0 := ⟨_, _, _, ⟨⟨rfl, rfl, rfl, by decide +kernel⟩, rfl, rfl, by decide +kernel, fun _ => by decide +kernel⟩⟩
theorem witness_stf : ∃ x t k, MemGo (syncMem false (.stf (m0 .gm))) 0 0 0 0 (m0 .gm) .stf x t k (l0 0x10008) (l0 5) 0 ∧ has k.stDone 0 = false :=
  ⟨_, _, _, ⟨⟨rfl, rfl, rfl, by decide +kernel⟩, rfl, rfl, by decide +kernel, fun _ => by decide +kernel⟩, rfl⟩
theorem witness_fence : ∃ x t k, MemGo (memSt (.fence { m0 .up with pol := .acq }) 0 0 0) 0 0 0 0 { m0 .up with pol := .acq } .fence x t k 0 0 0 :=
  ⟨_, _, _, ⟨⟨rfl, rfl, rfl, by decide +kernel⟩, rfl, rfl, by decide +kernel, fun _ => by decide +kernel⟩⟩
/-- An odd address, and a page that the table at 0 does not give. -/
theorem witness_misalign : ∃ x t k, MemGo (memSt (.ld (m0 .gm)) (l0 1) 0 0) 0 0 0 0 (m0 .gm) .ld x t k (l0 1) 0 0 ∧ addrOf (l0 1) % 128 ≠ 0 :=
  ⟨_, _, _, ⟨⟨rfl, rfl, rfl, by decide +kernel⟩, rfl, rfl, by decide +kernel, fun _ => by decide +kernel⟩, by decide +kernel⟩
theorem witness_pageFault : (walk (memSt (.ld (m0 .gm)) 0 0 0) 0 0).toOption = none ∧ findExtent (Tab.get (memSt (.ld (m0 .gm)) 0 0 0).extents (edgeHolder 0) []) 0 0 = none
    ∧ invalBlocks (memSt (.ld (m0 .gm)) 0 0 0) 0 0 = false := ⟨by decide +kernel, rfl, rfl⟩

def memOut (r : Host.Outcome State Fault Refusal) (k n : Nat) : Option Nat := match r with | .next s => some (rdNum s k n) | _ => none

/-- R189: an addition at a scratchpad returns the old value and writes the sum; a store's bytes stay with its block. -/
theorem test_aadd : laneOut (exec (.aadd (mf .up .n64)) (wrNum (memSt (.aadd (mf .up .n64)) (l0 8) (l0 5) 0) (upKey 0 8) 8 37)) 0 = some 37
    ∧ memOut (exec (.aadd (mf .up .n64)) (wrNum (memSt (.aadd (mf .up .n64)) (l0 8) (l0 5) 0) (upKey 0 8) 8 37)) (upKey 0 8) 8 = some 42 := by decide +kernel
theorem test_acas_fails : memOut (exec (.acas (mf .up .n64)) (wrNum (memSt (.acas (mf .up .n64)) (l0 8) (l0 5) (l0 1)) (upKey 0 8) 8 37)) (upKey 0 8) 8 = some 37 := by decide +kernel
theorem test_amax_signed : memOut (exec (.amax (mf .up .i64)) (wrNum (memSt (.amax (mf .up .i64)) (l0 8) (l0 (2 ^ 64 - 1)) 0) (upKey 0 8) 8 3)) (upKey 0 8) 8 = some 3 := by decide +kernel
theorem test_ld : laneOut (exec (.ld (m0 .up)) (wrNum (memSt (.ld (m0 .up)) (l0 (2 ^ 23 + 256)) 0 0) (upKey 0 264) 8 9)) 1 = some 9 := by decide +kernel
theorem test_ld_gm : laneOut (exec (.ld (m0 .gm)) (wrNum (mapped hbmLeaf (memSt (.ld (m0 .gm)) (l0 0x10080) 0 0)) 0x50080 8 9)) 0 = some 9 := by decide +kernel
theorem test_ldx : laneOut (exec (.ldx (mf .up .n64)) (wrNum (memSt (.ldx (mf .up .n64)) (l0 0) (packList 1024 64 [2 ^ 64 - 1, 3]) 0) (upKey 0 24) 8 9)) 1 = some 9 := by decide +kernel
theorem test_st_held : memOut (exec (.st { m0 .up with t0 := none }) (memSt (.st { m0 .up with t0 := none }) (l0 0) (l0 7) 0)) (upKey 0 0) 8 = some 0
    ∧ (match exec (.st { m0 .up with t0 := none }) (memSt (.st { m0 .up with t0 := none }) (l0 0) (l0 7) 0) with
        | .next s => (block? s 0 0 0).map fun k => (k.stDone, k.stores.map fun p => p.bytes.length) | _ => none) = some ([0], [128]) := by decide +kernel
/-- R191: LDE of a full word takes it; STF at a full word answers 0, at an empty one 1. -/
theorem test_lde : laneOut (exec (.lde (m0 .gm)) (wrNum (syncMem true (.lde (m0 .gm))) (upKey 0 8) 8 77)) 3 = some 77
    ∧ (match exec (.lde (m0 .gm)) (syncMem true (.lde (m0 .gm))) with | .next s => (mtSync? s 0 0 0).map fun m => (syncWord m 8).full | _ => none) = some false := by decide +kernel
theorem test_ldf : (match exec (.ldf (m0 .gm)) (syncMem true (.ldf (m0 .gm))) with | .next s => (mtSync? s 0 0 0).map fun m => (syncWord m 8).full | _ => none) = some true := by decide +kernel
theorem test_stf : laneOut (exec (.stf (m0 .gm)) (syncMem true (.stf (m0 .gm)))) 0 = some 0 ∧ laneOut (exec (.stf (m0 .gm)) (syncMem false (.stf (m0 .gm)))) 0 = some 1
    ∧ memOut (exec (.stf (m0 .gm)) (syncMem false (.stf (m0 .gm)))) (upKey 0 8) 8 = some 5 := by decide +kernel
theorem test_fence : laneOut (exec (.fence { m0 .up with pol := .acq }) (memSt (.fence { m0 .up with pol := .acq }) 0 0 0)) 0 = some 0 := by decide +kernel
theorem test_misalign : faultOut (exec (.ld (m0 .gm)) (memSt (.ld (m0 .gm)) (l0 1) 0 0)) = some (some 7) := by decide +kernel
theorem test_pageFault : faultOut (exec (.ld (m0 .gm)) (memSt (.ld (m0 .gm)) 0 0 0)) = some (some 8) := by decide +kernel

/-! ## Synchronisation and system instructions -/

/-- Barrier 3 of context 0, for two parties, at phase 5. -/
def barSt (bs : BarSt) (a b : Value) : State :=
  { blkSt a b 0 1 with barriers := [(3, { Barrier.reset with st := bs, cfg := 2 * 2 ^ 32, phase := 5 })] }

theorem witness_barrier : ∃ x k, awaitsBarrier (barSt .opened (l0 5) (l0 3)) 0 0 = false ∧ Unwatched (barSt .opened (l0 5) (l0 3)) ∧ grp? (barSt .opened (l0 5) (l0 3)) 0 = some x ∧ gangHeld (barSt .opened (l0 5) (l0 3)) 0 = false
    ∧ BlockAt (barSt .opened (l0 5) (l0 3)) 0 0 0 0 .always true true false k (l0 5) (l0 3) 0 ∧ BlockAt (barSt .opened (l0 5) (l0 3)) 0 0 0 0 .always false true false k (l0 5) (l0 3) 0
    ∧ k.fault = none ∧ (barrier (barSt .opened (l0 5) (l0 3)) 3).st ≠ .free ∧ barCtx (barrier (barSt .opened (l0 5) (l0 3)) 3) = x.ctx ∧ (lane (l0 5) 0).toNat % 2 ^ 32 ≠ 0 :=
  ⟨_, _, rfl, rfl, rfl, rfl, ⟨rfl, rfl, rfl, by decide +kernel⟩, ⟨rfl, rfl, rfl, by decide +kernel⟩, rfl, by decide +kernel, by decide +kernel, by decide +kernel⟩
theorem witness_barrierImm : ∃ k, BlockAt (barSt .opened (l0 5) (l0 3)) 0 0 0 0 .always true false false k (l0 5) (l0 3) 0 := ⟨_, rfl, rfl, rfl, by decide +kernel⟩
/-- Phase 4 has passed at phase 5; phase 5 has not, nor has 5 − 2^31. -/
theorem witness_phase : phasePassed (barrier (barSt .opened 0 0) 3) 4 ∧ ¬ phasePassed (barrier (barSt .opened 0 0) 3) 5 ∧ ¬ phasePassed (barrier (barSt .opened 0 0) 3) (2 ^ 31 + 5)
    ∧ (barrier (barSt .broken 0 0) 3).st = .broken ∧ ¬ phasePassed (barrier (barSt .broken 0 0) 3) 5 := by
  simp [phasePassed, barrier, barSt, Tab.get, Barrier.reset]
theorem witness_barrierNone : (barrier (barSt .opened 0 0) 4).st = .free := rfl

def actionsOut (r : Host.Outcome State Fault Refusal) : Option (List (Nat × CommitAct)) := match r with | .next s => (block? s 0 0 0).map (·.actions) | _ => none

theorem test_barv : actionsOut (exec (.barv { gim .i8 3 with t0 := none }) (barSt .opened 0 0)) = some [(0, .barv 3 0)]
    ∧ faultOut (exec (.barv { gim .i8 4 with t0 := none }) (barSt .opened 0 0)) = some (some 0x0F) := by decide +kernel
theorem test_baraw : actionsOut (exec (.baraw { gim .i8 3 with t0 := none }) (barSt .opened 0 0)) = some [(0, .baraw 3 0)] := by decide +kernel
theorem test_bari : actionsOut (exec (.bari { gim .i8 3 with t0 := none }) (barSt .opened (l0 7) 0)) = some [(0, .bari 3 0 7)]
    ∧ faultOut (exec (.bari { gim .i8 3 with t0 := none }) (barSt .opened 0 0)) = some (some 0x0F) := by decide +kernel
/-- R332: a wait for phase 4 at phase 5 is satisfied, one for phase 5 is not. -/
theorem test_bart : laneOut (exec (.bart (gim .i8 3)) (barSt .opened (l0 4) 0)) 0 = some 5 ∧ laneOut (exec (.bart (gim .i8 3)) (barSt .opened (l0 5) 0)) 0 = some (5 + 2 ^ 32)
    ∧ laneOut (exec (.bart (gim .i8 3)) (barSt .broken (l0 5) 0)) 0 = some (5 + 2 ^ 33) := by decide +kernel
theorem test_barw : laneOut (exec (.barw (gim .i8 3)) (barSt .opened (l0 4) 0)) 0 = some 5
    ∧ (match exec (.barw (gim .i8 3)) (barSt .opened (l0 5) 0) with | .next s => (block? s 0 0 0).map (·.waits) | _ => none) = some [(0, .barw 3 5)] := by decide +kernel

/-- The page table of a context at HBM 0, with one leaf at VA 0x1_0000. -/
def tabled (leaf : Word) (s : State) : State :=
  wrNum (wrNum (wrNum (wrNum (wrNum s (hbmKey 0) 8 0x1001) (hbmKey 0x1000) 8 0x2001) (hbmKey 0x2000) 8 0x3001) (hbmKey 0x3000) 8 0x4001) (hbmKey 0x4008) 8 leaf.toNat

/-- Queue 9 of context 0, device-fed, of 4 packets at VA 0x1_0000, with SEQ p next and head c. -/
def putSt (p c : BitVec 32) (a b : Value) : State :=
  { tabled hbmLeaf (blkSt a b 0 1) with queues := [(9, { Queue.reset with st := .active, cfg := 2 ^ 14 + 2 * 2 ^ 15, qbase := 0x10000, pidx := p, cidx := c })] }

/-- A LAUNCH packet's word 0: TYPE 1. -/
def launchWord : Value := l0 (2 ^ 32)

theorem witness_put : ∃ x k, awaitsBarrier (putSt 6 5 launchWord (l0 9)) 0 0 = false ∧ Unwatched (putSt 6 5 launchWord (l0 9)) ∧ grp? (putSt 6 5 launchWord (l0 9)) 0 = some x
    ∧ BlockAt (putSt 6 5 launchWord (l0 9)) 0 0 0 0 .always true true false k launchWord (l0 9) 0 ∧ loadsOut k = false
    ∧ storesPerformed (putSt 6 5 launchWord (l0 9)) (0, 0) .package = true := ⟨_, _, rfl, rfl, rfl, ⟨rfl, rfl, rfl, by decide +kernel⟩, rfl, rfl⟩
theorem witness_putOpened : let y := queue (putSt 6 5 launchWord (l0 9)) 9
    y.st ≠ .free ∧ y.st ≠ .resetting ∧ y.cfg.toNat % 4096 = 0 ∧ y.cfg.getLsbD 14 = true ∧ y.waiters = [] ∧ (y.pidx - y.cidx).toNat < 2 ^ (y.cfg.toNat / 2 ^ 15 % 2 ^ 5) := by decide +kernel
theorem witness_putFull : let y := queue (putSt 9 5 launchWord (l0 9)) 9
    (y.pidx - y.cidx).toNat = 2 ^ (y.cfg.toNat / 2 ^ 15 % 2 ^ 5) := by decide +kernel
theorem witness_putPlace : resolveOwn (putSt 6 5 launchWord (l0 9)) 0 (0x10000 + 128 * 2) .write = .ok (.store (hbmKey 0x50100)) ∧ Memory.wf (putSt 6 5 launchWord (l0 9)).mem = true
    ∧ isHost (hbmKey 0x50100) = false := ⟨by decide +kernel, by decide +kernel, by decide +kernel⟩
theorem witness_putLaunch : (lane launchWord 0).toNat / 2 ^ 32 % 256 = 1 ∧ launchReserved ((List.range 16).map (lane launchWord)) = false
    ∧ ¬ ((lane (l0 0) 0).toNat / 2 ^ 32 % 256 = 1) := by decide +kernel
theorem witness_putNone : (queue (putSt 6 5 launchWord (l0 8)) 8).st = .free ∧ (queue (putSt 6 5 launchWord (l0 8)) 8).waiters = [] := ⟨rfl, rfl⟩

/-- R293: SEQ 6 at slot 2; SEQ stands in word 0. -/
theorem test_qput : laneOut (exec (.qput (gty .i8)) (putSt 6 5 (l0 (5 * 2 ^ 32)) (l0 9))) 0 = some (6 * 2 ^ 32)
    ∧ memOut (exec (.qput (gty .i8)) (putSt 6 5 (l0 (5 * 2 ^ 32)) (l0 9))) (hbmKey 0x50100) 8 = some (5 * 2 ^ 32 + 6) := by decide +kernel
theorem test_qputw : laneOut (exec (.qputw (gim .i8 9)) (putSt 6 5 0 0)) 0 = some (6 * 2 ^ 32) ∧ laneOut (exec (.qputw (gim .i8 8)) (putSt 6 5 0 0)) 0 = some 2 := by decide +kernel
theorem test_launch : laneOut (exec (.launch (gim .i8 9)) (putSt 9 5 launchWord 0)) 0 = some 1 ∧ laneOut (exec (.launch (gim .i8 9)) (putSt 6 5 0 0)) 0 = some 3 := by decide +kernel

theorem witness_getsr : ∃ x t k, awaitsBarrier (blkSt 1 2 3 1) 0 0 = false ∧ Unwatched (blkSt 1 2 3 1) ∧ grp? (blkSt 1 2 3 1) 0 = some x ∧ thread? (blkSt 1 2 3 1) 0 0 = some t ∧ BlockAt (blkSt 1 2 3 1) 0 0 0 0 .always false false false k 1 2 3
    ∧ x.ctx = 0 ∧ t.winbase = 0 := ⟨_, _, _, rfl, rfl, rfl, rfl, ⟨rfl, rfl, rfl, by decide +kernel⟩, rfl, rfl⟩
/-- R279: register 0x12 is STALLCYC, which resets to 0x10_0000; register 4 the GRPID. -/
theorem test_getsr : laneOut (exec (.getsr (gim .i8 0x12)) (blkSt 0 0 0 0)) 0 = some 0x100000 ∧ laneOut (exec (.getsr (gim .i8 6)) { blkSt 0 0 0 0 with dtime := 77 }) 0 = some 77 := by decide +kernel
theorem test_setsr : (match exec (.setsr { gim .i8 0xF with t0 := none }) (blkSt (l0 9) 0 0 0) with | .next s => (block? s 0 0 0).map (·.setsrs) | _ => none) = some [(0, 0xF, 9)] := by decide +kernel

theorem test_trap : actionsOut (exec (.trap { gim .i8 0x109 with t0 := none }) (blkSt 0 0 0 0)) = some [(0, .trap 9)] := by decide +kernel
theorem test_mcut : actionsOut (exec (.mcut { g0 with ty := .i8, t0 := none }) (blkSt 0 0 0 0)) = some [(0, .mcut)] := by decide +kernel
theorem test_brk : actionsOut (exec (.brk { gim .i8 0x1FFFF with t0 := none }) (blkSt 0 0 0 0)) = some [(0, .brk 0xFFFF)] := by decide +kernel
theorem test_tret : (match exec (.tret { gty .i8 with t0 := none }) (blkSt (l0 0x47) 0 0 0) with | .next s => (block? s 0 0 0).map (·.tret) | _ => none) = some (some 0x40) := by decide +kernel
theorem test_evt : laneOut (exec (.evt (gim .i8 5)) (blkSt (l0 9) 0 0 0)) 0 = some 9 ∧ actionsOut (exec (.evt (gim .i8 5)) (blkSt (l0 9) 0 0 0)) = some [(0, .evt 5 9 128)] := by decide +kernel

/-- Tile 2 of graph 0 runs an MTINV. -/
def invokeSt (a b : Value) : State :=
  modImage (blkSt a b 0 1) 0 fun i => { i with graphs := [(0, oneGraph 2 { emptyTile with mt := some { fn := some (freshMtFn 0x28C), ag0 := none, ag1 := none } })] }

theorem witness_spawn : ∃ x k gr mt m, awaitsBarrier (invokeSt (l0 7) 0) 0 0 = false ∧ Unwatched (invokeSt (l0 7) 0) ∧ grp? (invokeSt (l0 7) 0) 0 = some x ∧ BlockAt (invokeSt (l0 7) 0) 0 0 0 0 .always true false false k (l0 7) 0 0
    ∧ spawnTarget x 2 = some 0 ∧ graph? (invokeSt (l0 7) 0) 0 0 = some gr ∧ mt? (invokeSt (l0 7) 0) 0 0 2 = some mt ∧ mt.fn = some m
    ∧ storesPerformed (invokeSt (l0 7) 0) (0, 0) (groupScope x) = true ∧ loadsOut k = false ∧ spawnTarget x 3 = none ∧ k.fault = none :=
  ⟨_, _, _, _, _, rfl, rfl, rfl, ⟨rfl, rfl, rfl, by decide +kernel⟩, rfl, rfl, rfl, rfl, rfl, rfl, rfl, rfl⟩
theorem test_spawn : faultOut (exec (.spawn (gim .i8 3)) (invokeSt (l0 7) 0)) = some (some 0x10)
    ∧ (match exec (.spawn (gim .i8 2)) (invokeSt (l0 7) 0) with | .next s => (mt? s 0 0 2).bind fun m => m.fn.map fun f => f.waiting.map (·.2) | _ => none) = some [7] := by decide +kernel

/-- The walk of an unmapped VA ends at cause 1, that of VA 0x1_0000 at its leaf. -/
theorem witness_probe : walk (tabled hbmLeaf (blkSt (l0 0x20000) 0 0 1)) 0 0x20000 = .error 1 ∧ walk (tabled hbmLeaf (blkSt (l0 0x10000) 0 0 1)) 0 0x10000 = .ok (hbmLeaf, 16)
    ∧ (placeOf (tabled hbmLeaf (blkSt (l0 0x10000) 0 0 1)) 0 0x10000 (some 0) .read hbmLeaf 16).2 = .ok (.store (hbmKey 0x50000)) := ⟨by decide +kernel, by decide +kernel, by decide +kernel⟩
theorem test_pgprobe : laneOut (exec (.pgprobe (gty .i8)) (tabled hbmLeaf (blkSt (l0 0x10000) 0 0 1))) 0 = some 7
    ∧ laneOut (exec (.pgprobe (gty .i8)) (tabled hbmLeaf (blkSt (l0 0x20000) 0 0 1))) 0 = some 256 := by decide +kernel
/-- The greatest VA and the first beyond, the greatest count and the first beyond. -/
theorem witness_pginv : ∃ k, awaitsBarrier (blkSt (l0 (2 ^ 57 - 1)) (l0 (2 ^ 32 - 1)) 0 1) 0 0 = false ∧ BlockAt (blkSt (l0 (2 ^ 57 - 1)) (l0 (2 ^ 32 - 1)) 0 1) 0 0 0 0 .always true true false k (l0 (2 ^ 57 - 1)) (l0 (2 ^ 32 - 1)) 0 := ⟨_, rfl, rfl, rfl, rfl, by decide +kernel⟩
theorem witness_pginvBad : ∃ k k', BlockAt (blkSt (l0 (2 ^ 57)) (l0 1) 0 1) 0 0 0 0 .always true true false k (l0 (2 ^ 57)) (l0 1) 0
    ∧ BlockAt (blkSt (l0 0) (l0 (2 ^ 32)) 0 1) 0 0 0 0 .always true true false k' (l0 0) (l0 (2 ^ 32)) 0 := ⟨_, _, ⟨rfl, rfl, rfl, by decide +kernel⟩, ⟨rfl, rfl, rfl, by decide +kernel⟩⟩
theorem test_pginv : laneOut (exec (.pginv (gim .i8 1)) (blkSt (l0 (2 ^ 57)) 0 0 1)) 0 = some 1
    ∧ (match exec (.pginv (gim .i8 3)) (blkSt (l0 0x12345) 0 0 1) with | .next s => some ((ctx s 0).invals.map fun v => (v.va, v.n)) | _ => none) = some [(0x10000, 3)] := by decide +kernel

/-- R335: while a BARAW of the thread waits, BARW, BART and QPUT of its next block do not issue. -/
theorem test_barawHolds : awaitsBarrier (modThread (barSt .opened (l0 4) 0) 0 0 fun t => { t with barWait := [(3, 5, 0)] }) 0 0 = true
    ∧ laneOut (exec (.bart (gim .i8 3)) (modThread (barSt .opened (l0 4) 0) 0 0 fun t => { t with barWait := [(3, 5, 0)] })) 0 = none := by decide +kernel

/-! ## Engine instructions -/

/-- C of a tile move: columns, rows and the strides of source and destination. -/
def mvC (cols rows ss ds : Nat) : Value := packList 1024 64 [cols, rows, ss, ds]
def mv (ssp dsp : MvSpace) (n : BitVec 2) : MvEng := { ssp := ssp, dsp := dsp, esz := n }

theorem witness_captured : ∃ k, Unwatched (blkSt (l0 8) (l0 16) (mvC 65536 1 8 16) 1) ∧ BlockAt (blkSt (l0 8) (l0 16) (mvC 65536 1 8 16) 1) 0 0 0 0 .always true true true k (l0 8) (l0 16) (mvC 65536 1 8 16)
    ∧ k.fault = none := ⟨_, rfl, ⟨rfl, rfl, rfl, by decide +kernel⟩, rfl⟩
theorem witness_capturedA : ∃ k k', BlockAt (blkSt (l0 8) (l0 16) (mvC 65536 1 8 16) 1) 0 0 0 0 .always true false true k (l0 8) (l0 16) (mvC 65536 1 8 16)
    ∧ BlockAt (blkSt (l0 8) (l0 16) (mvC 65536 1 8 16) 1) 0 0 0 0 .always true false false k' (l0 8) (l0 16) (mvC 65536 1 8 16) := ⟨_, _, ⟨rfl, rfl, rfl, by decide +kernel⟩, ⟨rfl, rfl, rfl, by decide +kernel⟩⟩
theorem witness_moveOk : MoveOk false false (mv .gm .cp 3) (l0 8) (l0 16) (mvC 65536 1 8 16) ∧ MoveOk true false (mv .up .gm 2) (l0 4) (l0 8) (mvC 1 65536 4 3)
    ∧ ¬ MoveOk false true (mv .up .gm 3) (l0 8) (l0 8) (mvC 1 1 8 8) ∧ ¬ MoveOk false false (mv .up .cp 0) 0 0 (mvC 65537 1 0 0) ∧ ¬ MoveOk false false (mv .up .cp 0) 0 0 (mvC 0 1 0 0) := by
  refine ⟨by simp only [MoveOk]; decide +kernel, by simp only [MoveOk]; decide +kernel, by simp only [MoveOk]; decide +kernel, by simp only [MoveOk]; decide +kernel, by simp only [MoveOk]; decide +kernel⟩
theorem witness_remoteOk : RemoteOk .cp 8 (l0 8) (l0 3) ∧ ¬ RemoteOk .gm 8 (l0 8) (l0 4) ∧ LenOk (l0 8) (2 ^ 24) ∧ LenOk (l0 (2 ^ 24)) (2 ^ 24) ∧ ¬ LenOk (l0 (2 ^ 24 + 8)) (2 ^ 24)
    ∧ LenOk (l0 1024) 1024 ∧ ¬ LenOk 0 1024 := by
  refine ⟨?_, ?_, ?_, ?_, ?_, ?_, ?_⟩ <;> simp only [RemoteOk, LenOk] <;> decide +kernel
theorem witness_collOk : CollOk false .f32 (l0 4) (l0 8) (mvC 8 (2 ^ 24) 8 0) ∧ ¬ CollOk false .f32 (l0 2) (l0 8) (mvC 8 1 8 0) ∧ CollOk true .f32 0 0 (mvC 0 1 0 63) ∧ ¬ CollOk true .f32 0 0 (mvC 0 1 0 64) := by
  refine ⟨?_, ?_, ?_, ?_⟩ <;> simp only [CollOk] <;> decide +kernel
theorem witness_rows : (engRow (.tmovt e0 (mv .up .up 0))).isSome = true ∧ (engRow (.rmst e0 .up)).isSome = true ∧ (engRow (.cbcast e0)).isSome = true ∧ (engRow (.accclr e0 true 0 .f32)).isSome = true :=
  ⟨rfl, rfl, rfl, rfl⟩

/-- An MC of one cell, at tile 192 of graph 0, with configuration 0 an MMA. -/
def mcSt (s : State) : State :=
  modImage s 0 fun i => { i with graphs := [(0, oneGraph 192 { emptyTile with mc := some (freshMc [some 0x240, none, none, none]) })] }

theorem witness_matrixOk : ∃ x y z, grp? (mcSt (blkSt (l0 192) 0 0 1)) 0 = some x ∧ mcGraph x 192 = some y ∧ regionAt x 192 = some z ∧ mcConfig z.2.2 0 ≠ none ∧ (regionState z.2.1 192).lastQueued = false
    ∧ (lane (l0 192) 0).toNat < 2 ^ 18 ∧ mcGraph x 191 = none := ⟨_, _, _, rfl, rfl, rfl, by decide +kernel, rfl, by decide +kernel, rfl⟩

def engOut (r : Host.Outcome State Fault Refusal) : Option (List (Nat × Nat)) := match r with | .next s => (block? s 0 0 0).map fun k => k.engines.map fun e => (e.slot, (lane e.a 0).toNat) | _ => none

theorem test_tmov_captured : engOut (exec (.tmov e0 (mv .up .cp 3)) (blkSt (l0 8) (l0 16) (mvC 1 1 0 0) 1)) = some [(0, 8)] ∧ faultOut (exec (.tmov e0 (mv .up .cp 3)) (blkSt (l0 8) (l0 16) 0 1)) = some (some 0x0B) := by
  decide +kernel
theorem test_mgo_captured : engOut (exec (.mgo e0 0 false) (mcSt (blkSt (l0 192) 0 0 1))) = some [(0, 192)] ∧ faultOut (exec (.mgo e0 1 false) (mcSt (blkSt (l0 192) 0 0 1))) = some (some 0x0E) := by decide +kernel

/-- ENOP in CT that pops from TM: the FIFO holds one token. -/
def popSt : State := modThread (blkSt 0 0 0 1) 0 0 fun t => { t with fifos := [(4 * Qu.code .tm, 1)] }
theorem witness_enop : ∃ k t, BlockAt popSt 0 0 0 0 .always false false false k 0 0 0 ∧ thread? popSt 0 0 = some t ∧ 0 < Tab.get t.fifos (4 * Qu.code .tm) 0 := ⟨_, _, ⟨rfl, rfl, rfl, by decide +kernel⟩, rfl, by decide⟩
theorem witness_enopYounger : ∃ k, BlockAt { modThread popSt 0 0 fun t => { t with blocks := t.blocks ++ t.blocks } with site := .block 0 0 1 0 } 0 0 1 0 .always false false false k 0 0 0 := ⟨_, rfl, rfl, rfl, by decide +kernel⟩
theorem test_enop : (match exec (.enop { e0 with pop := some .tm } .ct) popSt with | .next s => (thread? s 0 0).map fun t => Tab.get t.fifos (4 * Qu.code .tm) 0 | _ => none) = some 0 := by decide +kernel

/-! ## Engine instructions at the heads of their queues -/

def engE (a b c : Value) : EngEntry :=
  { word := 0, slot := 0, a := a, b := b, c := c, enables := 0, inst := 0, blockAddr := 0, issued := true, done := false, popped := true, mark := 0, buf := [], asked := [], parts := [] }

/-- A thread without blocks and with one issued instruction in a queue. -/
def engSt (q : Qu) (e : EngEntry) : State :=
  let t := freshThread 0
  let t := match q with | .ct => { t with ctq := [e] } | .tm => { t with tmq := [e] } | .mx => { t with mxq := [e] } | .cl => { t with clq := [e] }
  { placeImage State.reset { Image.empty with threads := [(0, t)] } with present := 1, site := .engine 0 0 q }

theorem witness_engGo : ∃ x, EngGo (engSt .tm (engE (l0 8) (l0 16) (mvC 1 1 8 8))) 0 0 .tm x (engE (l0 8) (l0 16) (mvC 1 1 8 8)) ∧ Sound (engSt .tm (engE (l0 8) (l0 16) (mvC 1 1 8 8)))
    ∧ Unwatched (engSt .tm (engE (l0 8) (l0 16) (mvC 1 1 8 8))) ∧ Unbegun (engE (l0 8) (l0 16) (mvC 1 1 8 8))
    ∧ EngAt (engSt .tm (engE (l0 8) (l0 16) (mvC 1 1 8 8))) x 0 .up .read (elemAt 8 8 1 8 0) 8 (upKey 0 8)
    ∧ EngAt (engSt .tm (engE (l0 8) (l0 16) (mvC 1 1 8 8))) x 0 .cp .write (elemAt 16 8 1 8 0) 8 (cpKey 0 16)
    ∧ EngAt (engSt .tm (engE (l0 8) (l0 16) (mvC 1 1 8 8))) x 0 .cp .write (elemAcross 16 8 1 8 0) 8 (cpKey 0 16)
    ∧ EngAt (engSt .tm (engE (l0 8) (l0 16) (mvC 1 1 8 8))) x 0 .cp .write (addrPlus 16 (8 + 8 * 0)) 8 (cpKey 0 24) :=
  ⟨_, ⟨rfl, rfl, rfl, rfl, rfl, _, rfl, rfl, rfl⟩, ⟨rfl, rfl⟩, rfl, ⟨rfl, rfl, rfl, rfl⟩, by simp only [EngAt]; decide +kernel, by simp only [EngAt]; decide +kernel, by simp only [EngAt]; decide +kernel,
    by simp only [EngAt]; decide +kernel⟩
/-- An element in a normal page of gm. -/
theorem witness_engAt_gm : ∃ x, grp? (engSt .tm (engE 0 0 0)) 0 = some x ∧ EngAt (mapped hbmLeaf (engSt .tm (engE 0 0 0))) x 0 .gm .write 0x10008 8 (hbmKey 0x50008)
    ∧ EngAt (mapped hbmLeaf (engSt .tm (engE 0 0 0))) x 0 .gm .read 0x10008 8 (hbmKey 0x50008) ∧ EngAt (mapped hbmLeaf (engSt .tm (engE 0 0 0))) x 0 .gm .atomic 0x10008 8 (hbmKey 0x50008) :=
  ⟨_, rfl, ⟨by decide, by decide +kernel, fun _ => by decide +kernel, _, rfl, by decide +kernel, by decide +kernel, by decide +kernel⟩, ⟨by decide, by decide +kernel, fun _ => by decide +kernel, _, rfl, by decide +kernel, by decide +kernel, by decide +kernel⟩,
    ⟨by decide, by decide +kernel, fun _ => by decide +kernel, _, rfl, by decide +kernel, by decide +kernel, by decide +kernel⟩⟩

/-- Storage with two elements of 8 bytes at up 8 and 16. -/
def engTwo (q : Qu) (e : EngEntry) : State := wrNum (wrNum (engSt q e) (upKey 0 8) 8 5) (upKey 0 16) 8 7

theorem test_tmov : memOut (exec (.tmov e0 (mv .up .cp 3)) (engTwo .tm (engE (l0 8) (l0 16) (mvC 1 2 8 32)))) (cpKey 0 48) 8 = some 7 := by decide +kernel
/-- A column becomes a row. -/
theorem test_tmovt : memOut (exec (.tmovt e0 (mv .up .cp 3)) (engTwo .tm (engE (l0 8) (l0 16) (mvC 1 2 8 32)))) (cpKey 0 24) 8 = some 7 := by decide +kernel
/-- R201: elements 5, 0, 7, 0 become two records. -/
theorem test_tmovc : memOut (exec (.tmovc e0 (mv .up .cp 2)) (engTwo .tm (engE (l0 8) (l0 16) (mvC 4 1 0 0)))) (cpKey 0 16) 8 = some 2
    ∧ memOut (exec (.tmovc e0 (mv .up .cp 2)) (engTwo .tm (engE (l0 8) (l0 16) (mvC 4 1 0 0)))) (cpKey 0 32) 8 = some (7 + 2 * 2 ^ 32) := by decide +kernel
theorem test_tmove : memOut (exec (.tmove e0 (mv .up .cp 2)) (wrNum (wrNum (engSt .tm (engE (l0 8) (l0 0) (mvC 4 1 0 0))) (upKey 0 8) 8 1) (upKey 0 16) 8 (7 + 2 * 2 ^ 32))) (cpKey 0 8) 4 = some 7 := by
  decide +kernel
theorem test_enop_head : (match exec (.enop e0 .tm) (engSt .tm (engE 0 0 0)) with | .next s => (thread? s 0 0).map fun t => t.tmq.map (·.done) | _ => none) = some [true] := by decide +kernel

/-! ### Matrix engine -/

def accE (n : BitVec 3) : AccEng := { spc := .cp, acc := n, ety := .f32, afmt := .f32 }
def mxSt (c : Value) : State := mcSt (engSt .mx (engE (l0 192) (l0 0) c))

theorem witness_matrix : ∃ x y, EngGo (mxSt (l0 128)) 0 0 .mx x (engE (l0 192) (l0 0) (l0 128)) ∧ mcGraph x 192 = some y ∧ x.fpctl.extractLsb' 8 5 = 0 ∧ regionAt x 192 = some y
    ∧ (regionState y.2.1 192).injected.any (·.2) = false ∧ sweepsAhead y.2.1 y.2.2 192 < 4 ∧ cellPos y.2.2.frames = some (0, 0, 0, 0) :=
  ⟨_, _, ⟨rfl, rfl, rfl, rfl, rfl, _, rfl, rfl, rfl⟩, rfl, rfl, rfl, rfl, by decide +kernel, rfl⟩
theorem witness_matrixCells : ∃ x y c, mcGraph x 192 = some y ∧ grp? (mxSt (l0 128)) 0 = some x ∧ c ∈ cellsOf y.2.1 0 0 := ⟨_, _, (192, 0, 0), rfl, rfl, by decide +kernel⟩
theorem witness_matrixAt : ∃ x, grp? (mxSt (l0 128)) 0 = some x ∧ ∀ p, p < 1024 → EngAt (mxSt (l0 128)) x 0 .cp .write (elemAt 0 128 32 4 p) 4 (cpKey 0 (4 * p))
    ∧ EngAt (mxSt (l0 128)) x 0 .cp .read (elemAt 0 128 32 4 p) 4 (cpKey 0 (4 * p)) := by
  refine ⟨_, rfl, ?_⟩
  simp only [EngAt]
  decide +kernel

theorem test_mgo : (match exec (.mgo e0 0 true) (mxSt 0) with | .next s => (graph? s 0 0).map fun gr => (regionState gr 192).injected | _ => none) = some [(0, true)] := by decide +kernel
theorem test_accrd : engOut (exec (.accrd e0 (accE 1)) (mcSt (blkSt (l0 192) 0 (l0 128) 1))) = some [(0, 192)] ∧ faultOut (exec (.accrd e0 (accE 1)) (blkSt (l0 192) 0 (l0 128) 1)) = some (some 0x0E) := by decide +kernel
theorem test_accwr : engOut (exec (.accwr e0 (accE 1)) (mcSt (blkSt (l0 192) 0 (l0 128) 1))) = some [(0, 192)] := by decide +kernel
theorem test_accclr : (match exec (.accclr e0 false 1 .f32) (modImage (mxSt 0) 0 fun i => { i with accs := [(192, [(1024 + 1023, 0x3F800000)])] }) with
    | .next s => (grp? s 0).map fun x => accBits x 192 .f32 1 31 31 | _ => none) = some 0 := by decide +kernel

/-! ### Remote instructions -/

theorem witness_remote : ∃ x, EngGo (mapped hbmLeaf (engSt .cl (engE (l0 0x10000) (l0 0) (l0 8)))) 0 0 .cl x (engE (l0 0x10000) (l0 0) (l0 8)) ∧ Unbegun (engE (l0 0x10000) (l0 0) (l0 8))
    ∧ EngAt (mapped hbmLeaf (engSt .cl (engE (l0 0x10000) (l0 0) (l0 8)))) x 0 .gm .read (0x10000 + 8 * 0) 8 (hbmKey 0x50000)
    ∧ EngAt (mapped hbmLeaf (engSt .cl (engE (l0 0x10000) (l0 0) (l0 8)))) x 0 .gm .write (0x10000 + 8 * 0) 8 (hbmKey 0x50000)
    ∧ EngAt (mapped hbmLeaf (engSt .cl (engE (l0 0x10000) (l0 0) (l0 8)))) x 0 .gm .atomic 0x10000 4 (hbmKey 0x50000)
    ∧ EngAt (mapped hbmLeaf (engSt .cl (engE (l0 0x10000) (l0 0) (l0 8)))) x 0 .cp .write (addrPlus 0 (8 * 0)) 8 (cpKey 0 0)
    ∧ EngAt (mapped hbmLeaf (engSt .cl (engE (l0 0x10000) (l0 0) (l0 8)))) x 0 .cp .read (addrPlus 0 (8 * 0)) 8 (cpKey 0 0) :=
  ⟨_, ⟨rfl, rfl, rfl, rfl, rfl, _, rfl, rfl, rfl⟩, ⟨rfl, rfl, rfl, rfl⟩, ⟨by decide, by decide +kernel, fun _ => by decide +kernel, _, rfl, by decide +kernel, by decide +kernel, by decide +kernel⟩,
    ⟨by decide, by decide +kernel, fun _ => by decide +kernel, _, rfl, by decide +kernel, by decide +kernel, by decide +kernel⟩, ⟨by decide, by decide +kernel, fun _ => by decide +kernel, _, rfl, by decide +kernel, by decide +kernel, by decide +kernel⟩,
    by simp only [EngAt]; decide +kernel, by simp only [EngAt]; decide +kernel⟩

theorem test_rld : memOut (exec (.rld e0 .cp) (wrNum (mapped hbmLeaf (engSt .cl (engE (l0 0x10000) (l0 64) (l0 16)))) (hbmKey 0x50008) 8 77)) (cpKey 0 72) 8 = some 77 := by decide +kernel
theorem test_rst : memOut (exec (.rst e0 .cp) (wrNum (mapped hbmLeaf (engSt .cl (engE (l0 0x10000) (l0 64) (l0 16)))) (cpKey 0 72) 8 77)) (hbmKey 0x50008) 8 = some 77 := by decide +kernel
/-- R189, R397: the sum at the remote address, the old value in the low bits of the local word. -/
theorem test_ratom : let s := exec (.ratom { e0 with ty := .n32 } .add .cp) (wrNum (mapped hbmLeaf (engSt .cl (engE (l0 0x10000) (l0 64) (l0 5)))) (hbmKey 0x50000) 4 (2 ^ 32 - 2))
    memOut s (hbmKey 0x50000) 4 = some 3 ∧ memOut s (cpKey 0 64) 8 = some (2 ^ 32 - 2) := by decide +kernel
theorem test_rfence : memOut (exec (.rfence e0) (mapped hbmLeaf (engSt .cl (engE (l0 0x10000) 0 (l0 9))))) (hbmKey 0x50000) 8 = some 9 := by decide +kernel

/-- RMST of 1,024 bytes to two members, in two packets of at most 976; the second packet of the first member has failed. -/
def rmstE : EngEntry := { engE (l0 0x10000) (l0 0) (packList 1024 64 [1024, 64, 2, 128]) with mark := 4, buf := [(memberKey 0, 0), (memberKey 128, 1), (memberKey 1, 0), (memberKey 129, 0)] }
theorem witness_rmst : ∃ x, EngGo (engSt .cl rmstE) 0 0 .cl x rmstE ∧ rmstE.mark = (lane rmstE.c 2).toNat * (((lane rmstE.c 0).toNat + (992 - 8 * (lane rmstE.c 2).toNat) - 1) / (992 - 8 * (lane rmstE.c 2).toNat))
    ∧ (∀ i < 2, ∀ j < 2, lastByte rmstE.buf (memberKey (i + 128 * j)) = some (if i = 0 ∧ j = 1 then 1 else 0))
    ∧ EngAt (engSt .cl rmstE) x 0 .cp .write (lane rmstE.c 3).toNat 8 (cpKey 0 128) ∧ (lane rmstE.c 2).toNat ≤ 64 :=
  ⟨_, ⟨rfl, rfl, rfl, rfl, rfl, _, rfl, rfl, rfl⟩, by decide +kernel, by decide +kernel, by simp only [EngAt]; decide +kernel, by decide +kernel⟩
theorem test_rmst : memOut (exec (.rmst e0 .cp) (engSt .cl rmstE)) (cpKey 0 128) 8 = some 1 := by decide +kernel

/-- Link 0 leads to package 5 and has credits; the member list at VA 0x1_0000 names package 5. -/
def linked (s : State) : State :=
  { s with pkgid := 1, rtab := [(5, 1)], links := [(0, { Link.reset with st := .up, lanes := 0xFFFF, peer := 5, granted := [64, 64, 64] })] }
def rmstOutE : EngEntry := engE (l0 0x10000) (l0 0) (packList 1024 64 [8, 0x10000, 1, 128])
def rmstOutSt : State := linked (wrNum (mapped hbmLeaf (engSt .cl rmstOutE)) (hbmKey 0x50000) 8 5)
def isGone : Sent → Bool
  | .gone _ => true
  | _ => false
theorem gone_of (r : Sent) (h : isGone r = true) : ∃ s, r = .gone s := by
  cases r <;> simp_all [isGone]
theorem witness_rmstOut : ∃ x, EngGo rmstOutSt 0 0 .cl x rmstOutE ∧ Unbegun rmstOutE ∧ (lane rmstOutE.c 2).toNat = 1 ∧ 0 < (lane rmstOutE.c 0).toNat ∧ (lane rmstOutE.c 0).toNat ≤ 984
    ∧ EngAt rmstOutSt x 0 .gm .read (addrPlus (lane rmstOutE.c 1).toNat 0) 8 (hbmKey 0x50000) ∧ natOfBytes (memBytes rmstOutSt.mem (hbmKey 0x50000) 8) = 5
    ∧ 5 ≠ rmstOutSt.pkgid.toNat ∧ gangHeld rmstOutSt 0 = false
    ∧ EngAt rmstOutSt x 0 .cp .read (addrPlus 0 (8 * 0)) 8 (cpKey 0 0)
    ∧ ∃ s', sendRequest rmstOutSt x.ctx 5 2 0 0x10000 0 ((List.range 1).flatMap fun i => memBytes rmstOutSt.mem (cpKey 0 (8 * i)) 8) (.multicast 0 0 0) (partyFlow (engParty 0 0 .cl)) = .gone s' :=
  ⟨_, ⟨rfl, rfl, rfl, rfl, rfl, _, rfl, rfl, rfl⟩, ⟨rfl, rfl, rfl, rfl⟩, by decide +kernel, by decide +kernel, by decide +kernel, ⟨by decide +kernel, by decide +kernel, fun _ => by decide +kernel, { ctx := 0, base := 0x10000, size := 16, leaf := hbmLeaf }, by decide +kernel, by decide +kernel, by decide +kernel, by decide +kernel⟩,
    by decide +kernel, by decide, rfl, by simp only [EngAt]; decide +kernel, gone_of _ (by decide +kernel)⟩
theorem witness_noSwitch (n : Nat) : (link rmstOutSt n).peersw = false := by
  simp only [link, rmstOutSt, linked, Tab.get]
  split <;> rfl
theorem test_rmst_sends : (match exec (.rmst e0 .cp) rmstOutSt with | .next s => s.outbox.map fun p => (p.1, p.2.1, p.2.2.dst.toNat, p.2.2.data.length) | _ => []) = [(0, 2, 5, 8)] := by decide +kernel

/-- RINV at a page of tile 0 that runs an MTINV of the same group. -/
def rinvSt (e : EngEntry) : State :=
  mapped syncLeaf (modImage (engSt .cl e) 0 fun i => { i with graphs := [(0, oneGraph 0 { emptyTile with mt := some { fn := some (freshMtFn 0x28C), ag0 := none, ag1 := none } })] })
def rinvE : EngEntry := engE (l0 0x10008) (l0 64) (l0 9)
theorem witness_rinv : ∃ x e m mt, EngGo (rinvSt rinvE) 0 0 .cl x rinvE ∧ Unbegun rinvE ∧ invalBlocks (rinvSt rinvE) x.ctx 0x10008 = false
    ∧ findExtent (Tab.get (rinvSt rinvE).extents (moveHolder (clusterOfThread x 0) 0) []) x.ctx 0x10008 = some e ∧ entryKind e.leaf = 2
    ∧ invTarget (rinvSt rinvE) x.ctx (fieldOf e.leaf 16 18) = some (0, 0) ∧ mt? (rinvSt rinvE) 0 0 0 = some mt ∧ mt.fn = some m ∧ fieldOf e.leaf 16 18 = 0 :=
  ⟨_, _, _, _, ⟨rfl, rfl, rfl, rfl, rfl, _, rfl, rfl, rfl⟩, ⟨rfl, rfl, rfl, rfl⟩, by decide +kernel, rfl, by decide +kernel, by decide +kernel, rfl, rfl, by decide +kernel⟩
theorem test_rinv_asks : (match exec (.rinv e0 .cp) (rinvSt rinvE) with | .next s => (mt? s 0 0 0).bind fun m => m.fn.map fun f => f.waiting.map (·.2) | _ => none) = some [9] := by decide +kernel
/-- Its result, tag and value, has come. -/
def rinvBack : EngEntry := { rinvE with mark := 1, buf := keyed rinvKey (bytesOf 16 (1 + 55 * 2 ^ 64)) }
theorem witness_rinvBack : ∃ x l, EngGo (rinvSt rinvBack) 0 0 .cl x rinvBack ∧ bufBytes rinvBack rinvKey 16 = some l ∧ EngAt (rinvSt rinvBack) x 0 .cp .write 64 8 (cpKey 0 64)
    ∧ EngAt (rinvSt rinvBack) x 0 .cp .write (addrPlus 64 8) 8 (cpKey 0 72) :=
  ⟨_, _, ⟨rfl, rfl, rfl, rfl, rfl, _, rfl, rfl, rfl⟩, rfl, by simp only [EngAt]; decide +kernel, by simp only [EngAt]; decide +kernel⟩
theorem test_rinv_writes : memOut (exec (.rinv e0 .cp) (rinvSt rinvBack)) (cpKey 0 72) 8 = some 55 := by decide +kernel

/-! ### Collectives: one rank, one element -/

def collE : EngEntry := { engE (l0 0x10000) (l0 0x10008) (packList 1024 64 [0x10010, 1, 0x10018, 0]) with mark := 4 }
def meet (op : Nat) : Meeting :=
  { job := 0, commid := 3, num := 2, own := some (0, 0), rank := 0, heads := [(0, [op + 2 ^ 32, 1, 0])], src := [(0, [7])], reqs := [], asids := [0], plan := some 0, failed := 0 }
def collSt : State := { mapped hbmLeaf (engSt .cl collE) with meetings := [meet 0] }
theorem witness_coll : ∃ x m h, EngGo collSt 0 0 .cl x collE ∧ Sound collSt ∧ Unwatched collSt ∧ ownMeeting collSt 0 0 = some m ∧ Tab.get? m.heads m.rank = some h ∧ h.headD 0 / 2 ^ 32 = 1
    ∧ (lane collE.c 1).toNat = 1 ∧ m.failed = 0 ∧ (∀ p ∈ m.heads, p.2 = h) ∧ (∀ y ∈ m.asids, y = (ctx collSt x.ctx).asid.toNat) ∧ m.plan = some 0 ∧ m.num < 2 ^ 32
    ∧ collE.mark = 1 + stepsBefore .gath 1 0 m.rank (Tab.get m.src m.rank []) 1 + 1 + 2 :=
  ⟨_, _, _, ⟨rfl, rfl, rfl, rfl, rfl, _, rfl, rfl, rfl⟩, ⟨rfl, rfl⟩, rfl, rfl, rfl, by decide, by decide +kernel, rfl, by simp [meet], by decide +kernel, rfl, by decide, rfl⟩
theorem witness_collAt : ∃ x, grp? collSt 0 = some x ∧ EngAt collSt x 0 .gm .write (addrPlus 0x10008 (4 * 0)) 4 (hbmKey 0x50008) ∧ EngAt collSt x 0 .gm .write 0x10018 8 (hbmKey 0x50018) :=
  ⟨_, rfl, ⟨by decide, by decide +kernel, fun _ => by decide +kernel, _, rfl, by decide +kernel, by decide +kernel, by decide +kernel⟩, ⟨by decide, by decide +kernel, fun _ => by decide +kernel, _, rfl, by decide +kernel, by decide +kernel, by decide +kernel⟩⟩
/-- R402: the report holds the number, and bit 0. -/
theorem test_cred : memOut (exec (.cred { e0 with ty := .n32 } .add) collSt) (hbmKey 0x50008) 4 = some 7 ∧ memOut (exec (.cred { e0 with ty := .n32 } .add) collSt) (hbmKey 0x50018) 8 = some (2 * 2 ^ 32 + 1) := by
  decide +kernel
theorem test_cgath : memOut (exec (.cgath { e0 with ty := .n32 }) collSt) (hbmKey 0x50008) 4 = some 7 := by decide +kernel
theorem test_ca2a : memOut (exec (.ca2a { e0 with ty := .n32 }) collSt) (hbmKey 0x50008) 4 = some 7 := by decide +kernel
theorem test_cbcast : memOut (exec (.cbcast { e0 with ty := .n32 }) collSt) (hbmKey 0x50008) 4 = some 7 := by decide +kernel

/-! ## Blocks from mapping to commit -/

/-- A part with one running group whose one thread is as given. -/
def thrSt (t : Thread) : State := { placeImage State.reset { Image.empty with threads := [(0, t)] } with present := 1 }

/-- A kernel of context 0 whose image at VA 0x1_0000 holds one block at offset 0x60: a HALT, under a header. -/
def kernelSt (header : Nat) (t : Thread) : State :=
  let s := { thrSt t with kernels := [{ ctx := 0, kid := 0, st := .resident, base := 0, units := 1, imgaddr := 0x10000, imglen := 0x1000, report := 0, cmd := none, unload := false, copied := [] }] }
  wrNum (wrNum (wrNum (wrNum (wrNum s (hbmKey 0x10) 4 1) (hbmKey 0x18) 8 0x40) (hbmKey 0x40) 8 3) (hbmKey 0x60) 32 header) (hbmKey 0x80) 8 ((encode (.halt b0)).getD 0).toNat

def goodHeader : Nat := 0xB10C * 2 ^ 240

theorem witness_map : ∃ x t key frame, ThreadAt (kernelSt goodHeader (freshThread 0x10060)) 0 0 x t ∧ t.run = .running ∧ t.blocks = []
    ∧ findBlock (kernelSt goodHeader (freshThread 0x10060)) x.ctx t.pc = some key ∧ freeFrame x 0 = some frame
    ∧ poisoned (kernelSt goodHeader (freshThread 0x10060)) key (readBlock (kernelSt goodHeader (freshThread 0x10060)) key).size = false
    ∧ lowestCause (blockCauses (readBlock (kernelSt goodHeader (freshThread 0x10060)) key).header (readBlock (kernelSt goodHeader (freshThread 0x10060)) key).words
        (readBlock (kernelSt goodHeader (freshThread 0x10060)) key).pad) = none :=
  ⟨_, _, hbmKey 0x60, (0, 0), ⟨rfl, rfl, by decide +kernel⟩, rfl, rfl, by decide +kernel, by decide +kernel, by decide +kernel, by decide +kernel⟩
theorem witness_mapBad : ∃ c, lowestCause (blockCauses (readBlock (kernelSt 0 (freshThread 0x10060)) (hbmKey 0x60)).header (readBlock (kernelSt 0 (freshThread 0x10060)) (hbmKey 0x60)).words
        (readBlock (kernelSt 0 (freshThread 0x10060)) (hbmKey 0x60)).pad) = some c := ⟨12, by decide +kernel⟩
theorem witness_mapNone : ∃ x t, ThreadAt (thrSt (freshThread 0x40)) 0 0 x t ∧ findBlock (thrSt (freshThread 0x40)) x.ctx t.pc = none ∧ t.from_ = 0 := ⟨_, _, ⟨rfl, rfl, by decide +kernel⟩, rfl, rfl⟩
theorem witness_mapHandler : ∃ x t, ThreadAt (thrSt { freshThread 0x40 with from_ := 0x20, trapvec := 0x80 }) 0 0 x t ∧ t.from_ ≠ 0 ∧ t.trapMode = false ∧ t.trapvec ≠ 0 := ⟨_, _, ⟨rfl, rfl, by decide +kernel⟩, by decide, rfl, by decide⟩

theorem test_blockMap : (match exec (.blockMap 0 0 0) (kernelSt goodHeader (freshThread 0x10060)) with | .next s => (thread? s 0 0).map fun t => t.blocks.map fun k => (k.addr, k.words.length, k.fault.isNone) | _ => none)
    = some [(0x10060, 1, true)] := by decide +kernel
theorem test_blockMap_illop : (match exec (.blockMap 0 0 0) (kernelSt 0 (freshThread 0x10060)) with | .next s => (thread? s 0 0).map fun t => t.blocks.map fun k => k.fault.map fun f => (f.code, f.cause) | _ => none)
    = some [some (1, 12)] := by decide +kernel

/-- A thread with one block at address 0x40; the block of a resident kernel stands at 0x1_0060. -/
def blkT (f : Block → Block) (g : Thread → Thread) : State :=
  kernelSt goodHeader (g { freshThread 0x40 with blocks := [f (freshBlock 0x40 [0])] })

theorem witness_settled : Settled (blkT id id) := by unfold Settled; decide +kernel
theorem noBari (s : State) (l : List (Nat × CommitAct)) (h : (l.all fun p => match p.2 with | .bari _ _ _ => false | _ => true) = true) :
    ∀ p ∈ l, ∀ b gen n, p.2 = .bari b gen n → (barrier s b).due = false := by
  intro p hp b gen n e
  have := List.all_eq_true.mp h p hp
  simp [e] at this
def brTo (b : BranchKind) (a : Nat) (k : Block) : Block := { k with branch := some (b, a) }
theorem produced_brTo (b : BranchKind) (a : Nat) (f : Block → Block) (h : (f (brTo b a (freshBlock 0x40 [0]))).branch ≠ none) (hs : (f (brTo b a (freshBlock 0x40 [0]))).stmask = 0)
    (hw : (f (brTo b a (freshBlock 0x40 [0]))).wrmask = 0) : Produced (f (brTo b a (freshBlock 0x40 [0]))) := ⟨h, by intro i _; rw [hs, hw]; simp⟩

theorem witness_commit : ∃ x t k, Sound (blkT (brTo .br 0x10060) id) ∧ CommitGo (blkT (brTo .br 0x10060) id) 0 0 x t k ∧ Unwatched (blkT (brTo .br 0x10060) id) ∧ t.run = .running ∧ t.trapMode = false ∧ k.actions = [] ∧ k.setsrs = [] ∧ k.tret = none
    ∧ relFences k = [] ∧ k.branch = some (.br, 0x10060) ∧ BlockThere (blkT (brTo .br 0x10060) id) x 0x10060 :=
  ⟨_, _, _, ⟨rfl, rfl⟩, ⟨⟨rfl, rfl, by decide +kernel⟩, rfl, rfl, produced_brTo .br 0x10060 id (by decide) rfl rfl, rfl, by decide +kernel, rfl, rfl, noBari _ _ rfl, fun q => by cases q <;> decide⟩, rfl, rfl, rfl, rfl, rfl, rfl, rfl, rfl, by unfold BlockThere; decide +kernel⟩
/-- A branch to where no block stands. -/
theorem witness_commitNowhere : ∃ x t k, CommitGo (blkT (brTo .br 0x80) id) 0 0 x t k ∧ k.actions = [] ∧ k.tret = none ∧ k.branch = some (.br, 0x80) ∧ ¬ BlockThere (blkT (brTo .br 0x80) id) x 0x80 :=
  ⟨_, _, _, ⟨⟨rfl, rfl, by decide +kernel⟩, rfl, rfl, produced_brTo .br 0x80 id (by decide) rfl rfl, rfl, by decide +kernel, rfl, rfl, noBari _ _ rfl, fun q => by cases q <;> decide⟩, rfl, rfl, rfl, by unfold BlockThere; decide +kernel⟩
/-- Six caller windows before a CALL, one before a RET. -/
theorem witness_commitCall : ∃ x t k, CommitGo (blkT (brTo .call 0x10060) fun t => { t with callers := List.replicate 6 [] }) 0 0 x t k ∧ t.callers.length < 7 ∧ k.branch = some (.call, 0x10060) :=
  ⟨_, _, _, ⟨⟨rfl, rfl, by decide +kernel⟩, rfl, rfl, produced_brTo .call 0x10060 id (by decide) rfl rfl, rfl, by decide +kernel, rfl, rfl, noBari _ _ rfl, fun q => by cases q <;> decide⟩, by decide, rfl⟩
theorem witness_commitRet : ∃ x t k, CommitGo (blkT (brTo .ret 0x10060) fun t => { t with callers := [[]] }) 0 0 x t k ∧ t.callers = [[]] ∧ k.branch = some (.ret, 0x10060) :=
  ⟨_, _, _, ⟨⟨rfl, rfl, by decide +kernel⟩, rfl, rfl, produced_brTo .ret 0x10060 id (by decide) rfl rfl, rfl, by decide +kernel, rfl, rfl, noBari _ _ rfl, fun q => by cases q <;> decide⟩, rfl, rfl⟩
theorem witness_commitHalt : ∃ x t k, CommitGo (blkT (brTo .halt 0) id) 0 0 x t k ∧ k.branch = some (.halt, 0) :=
  ⟨_, _, _, ⟨⟨rfl, rfl, by decide +kernel⟩, rfl, rfl, produced_brTo .halt 0 id (by decide) rfl rfl, rfl, by decide +kernel, rfl, rfl, noBari _ _ rfl, fun q => by cases q <;> decide⟩, rfl⟩
theorem witness_overflow : ∃ x t k, CommitGo (blkT (brTo .call 0x10060) fun t => { t with callers := List.replicate 7 [] }) 0 0 x t k ∧ t.callers.length = 7 ∧ t.wintop = t.winsize :=
  ⟨_, _, _, ⟨⟨rfl, rfl, by decide +kernel⟩, rfl, rfl, produced_brTo .call 0x10060 id (by decide) rfl rfl, rfl, by decide +kernel, rfl, rfl, noBari _ _ rfl, fun q => by cases q <;> decide⟩, by decide, rfl⟩
theorem witness_underflow : ∃ x t k, CommitGo (blkT (brTo .ret 0x10060) id) 0 0 x t k ∧ t.callers = [] ∧ t.wintop = 0 :=
  ⟨_, _, _, ⟨⟨rfl, rfl, by decide +kernel⟩, rfl, rfl, produced_brTo .ret 0x10060 id (by decide) rfl rfl, rfl, by decide +kernel, rfl, rfl, noBari _ _ rfl, fun q => by cases q <;> decide⟩, rfl, rfl⟩
/-- A block without its branch, in which slot 0 has fired. -/
theorem witness_incomplete : ∃ x t k, ThreadAt (blkT (fun k => { k with fired := [0] }) id) 0 0 x t ∧ t.blocks.head? = some k ∧ k.fault = none ∧ k.waits = [] ∧ ¬ Produced k
    ∧ ∀ i < k.words.length, slotCanFire k i = false := ⟨_, _, _, ⟨rfl, rfl, by decide +kernel⟩, rfl, rfl, rfl, fun h => h.1 rfl, by decide +kernel⟩

def thrOut (r : Host.Outcome State Fault Refusal) : Option Thread := match r with | .next s => thread? s 0 0 | _ => none

theorem test_blockCommit : (thrOut (exec (.blockCommit 0 0) (blkT (brTo .br 0x10060) id))).map (fun t => (t.pc, t.from_, t.blocks.length)) = some (0x10060, 0x40, 0) := by decide +kernel
/-- R175: a CALL moves the window by 16 words, and word 31 of the callee holds the next address. -/
theorem test_blockCommit_call : (thrOut (exec (.blockCommit 0 0) (blkT (fun k => { brTo .call 0x10060 k with wrmask := 1 <<< 20, wrDone := [20], wrVals := [(20, l0 7)] }) id))).map
    (fun t => (t.callers.length, (t.window[4]?).map (·.toNat), (t.window[31]?).map (·.toNat))) = some (1, some 7, some 0x80) := by decide +kernel
theorem test_blockIncomplete : faultOut (exec (.blockIncomplete 0 0) (blkT (fun k => { k with fired := [0] }) id)) = some (some 3) := by decide +kernel

/-! ### The handler -/

def flt : FaultInfo := { slot := some 0, code := 8, cause := 1, wr := false, addr := 0x1234 }
theorem witness_fault : ∃ x t k, ThreadAt (blkT (fun k => { k with fault := some flt }) fun t => { t with trapvec := 0x100 }) 0 0 x t ∧ t.blocks.head? = some k ∧ k.fault = some flt
    ∧ (∀ i < flt.slot.getD 0, slotCanFire k i = false) ∧ (∀ w ∈ k.waits, flt.slot.getD 0 ≤ w.1) ∧ t.trapMode = false ∧ t.trapvec ≠ 0 :=
  ⟨_, _, _, ⟨rfl, rfl, by decide +kernel⟩, rfl, rfl, by decide, by decide, rfl, by decide⟩
theorem witness_faultEnds : ∃ x t k t', ThreadAt (blkT (fun k => { k with fault := some flt }) id) 0 0 x t ∧ t.blocks.head? = some k ∧ k.fault = some flt ∧ t.trapMode = false ∧ t.trapvec = 0
    ∧ thread? (blkT (fun k => { k with fault := some flt }) fun t => { t with trapMode := true }) 0 0 = some t' ∧ t'.trapMode = true :=
  ⟨_, _, _, _, ⟨rfl, rfl, by decide +kernel⟩, rfl, rfl, rfl, rfl, rfl, rfl⟩
theorem witness_trap : ∃ x t k, CommitGo (blkT (fun k => { brTo .br 0x10060 k with actions := [(3, .trap 9)] }) fun t => { t with trapvec := 0x100 }) 0 0 x t k ∧ k.actions = [(3, .trap 9)]
    ∧ k.branch = some (.br, 0x10060) ∧ t.trapvec ≠ 0 :=
  ⟨_, _, _, ⟨⟨rfl, rfl, by decide +kernel⟩, rfl, rfl, produced_brTo .br 0x10060 (fun k => { k with actions := [(3, .trap 9)] }) (by decide) rfl rfl, rfl, by decide +kernel, rfl, rfl, noBari _ _ rfl, fun q => by cases q <;> decide⟩, rfl, rfl, by decide⟩
theorem witness_tret : ∃ x t k, CommitGo (blkT (fun k => { brTo .br 0x10060 k with tret := some 0x10060 }) fun t => { t with trapMode := true }) 0 0 x t k ∧ t.trapMode = true ∧ k.tret = some 0x10060 ∧ k.calls = false
    ∧ k.rets = false ∧ k.setsrs = [] ∧ k.actions = [] :=
  ⟨_, _, _, ⟨⟨rfl, rfl, by decide +kernel⟩, rfl, rfl, produced_brTo .br 0x10060 (fun k => { k with tret := some 0x10060 }) (by decide) rfl rfl, rfl, by decide +kernel, rfl, rfl, noBari _ _ rfl, fun q => by cases q <;> decide⟩, rfl, rfl, rfl, rfl, rfl, rfl⟩

/-- R357: PAGE_FAULT 0x08 with cause 1 at slot 0; RETRY is the block's address. -/
theorem test_faultReport : (thrOut (exec (.faultReport 0 0) (blkT (fun k => { k with fault := some flt }) fun t => { t with trapvec := 0x100 }))).map
    (fun t => (t.trapMode, t.pc, t.fltcode.toNat, t.fltaddr.toNat, (t.trapWindow.head?).map fun w => (lane w 2).toNat)) = some (true, 0x100, 0x2000801, 0x1234, some 0x40) := by decide +kernel
/-- R364: TRAP 9 commits its block and enters with code 0x12. -/
theorem test_trap_enters : (thrOut (exec (.blockCommit 0 0) (blkT (fun k => { brTo .br 0x10060 k with actions := [(3, .trap 9)] }) fun t => { t with trapvec := 0x100 }))).map
    (fun t => (t.trapMode, t.pc, t.fltcode.toNat, (t.trapWindow.head?).map fun w => (lane w 2).toNat)) = some (true, 0x100, 0x20C1209, some 0x10060) := by decide +kernel
theorem test_tret_returns : (thrOut (exec (.blockCommit 0 0) (blkT (fun k => { brTo .br 0x10060 k with tret := some 0x10060 }) fun t => { t with trapMode := true }))).map (fun t => (t.trapMode, t.pc)) = some (false, 0x10060) := by
  decide +kernel

/-! ### Queues and stalls -/

def enopWord (pop push : Option Qu) (q : Qu) : Word := (encode (.enop { e0 with pop := pop, push := push } q)).getD 0
/-- A queue TM with one instruction that has not issued, and FIFO counts. -/
def tmSt (w : Word) (fifos : Tab Nat) (e : EngEntry → EngEntry) : State := thrSt { freshThread 0x40 with tmq := [e { engE 0 0 0 with word := w, issued := false, popped := false }], fifos := fifos }

theorem witness_issue : ∃ x t e, ThreadAt (tmSt (enopWord none none .tm) [] id) 0 0 x t ∧ engQueue t .tm = [] ++ e :: [] ∧ e.issued = false ∧ Tab.get? t.stops (Qu.code .tm) = none ∧ popOfWord e.word = none :=
  ⟨_, _, _, ⟨rfl, rfl, by decide +kernel⟩, rfl, rfl, rfl, by decide +kernel⟩
theorem witness_issuePop : ∃ t t' e, thread? (tmSt (enopWord (some .mx) none .tm) [(4 * Qu.code .mx + Qu.code .tm, 1)] id) 0 0 = some t ∧ engQueue t .tm = [] ++ e :: [] ∧ popOfWord e.word = some .mx ∧ 0 < fifoCount t .mx .tm
    ∧ thread? (tmSt (enopWord (some .mx) none .tm) [] id) 0 0 = some t' ∧ fifoCount t' .mx .tm = 0 := ⟨_, _, _, rfl, rfl, by decide +kernel, by decide +kernel, rfl, rfl⟩
theorem witness_issueCt : ∃ t e, thread? (thrSt { freshThread 0x40 with ctq := [{ engE 0 0 0 with issued := false }] }) 0 0 = some t ∧ engQueue t .ct = [] ++ e :: [] ∧ e.issued = false := ⟨_, _, rfl, rfl, rfl⟩
theorem witness_retire : ∃ x t e, thread? (tmSt (enopWord none none .tm) [] fun e => { e with issued := true, done := true }) 0 0 = some t
    ∧ grp? (tmSt (enopWord none none .tm) [] fun e => { e with issued := true, done := true }) 0 = some x ∧ engLive (tmSt (enopWord none none .tm) [] fun e => { e with issued := true, done := true }) 0 0 = true
    ∧ engQueue t .tm = e :: [] ∧ e.done = true ∧ engPerformed (tmSt (enopWord none none .tm) [] fun e => { e with issued := true, done := true }) 0 0 .tm x e = true ∧ pushOfWord e.word = none :=
  ⟨_, _, _, rfl, rfl, rfl, rfl, rfl, by decide +kernel, by decide +kernel⟩
theorem witness_retirePush : ∃ t t' e, thread? (tmSt (enopWord none (some .ct) .tm) [(4 * Qu.code .tm + Qu.code .ct, 15)] fun e => { e with issued := true, done := true }) 0 0 = some t ∧ engQueue t .tm = e :: []
    ∧ pushOfWord e.word = some .ct ∧ fifoCount t .tm .ct < 16
    ∧ thread? (tmSt (enopWord none (some .ct) .tm) [(4 * Qu.code .tm + Qu.code .ct, 16)] fun e => { e with issued := true, done := true }) 0 0 = some t' ∧ 16 ≤ fifoCount t' .tm .ct :=
  ⟨_, _, _, rfl, rfl, by decide +kernel, by decide +kernel, rfl, by decide +kernel⟩
theorem test_engineIssue : (thrOut (exec (.engineIssue 0 0 .tm) (tmSt (enopWord (some .mx) none .tm) [(4 * Qu.code .mx + Qu.code .tm, 1)] id))).map (fun t => (t.tmq.map (·.issued), fifoCount t .mx .tm)) = some ([true], 0)
    ∧ (thrOut (exec (.engineIssue 0 0 .tm) (tmSt (enopWord (some .mx) none .tm) [] id))).map (fun t => t.tmq.map (·.issued)) = some [false] := by decide +kernel
theorem test_engineRetire : (thrOut (exec (.engineRetire 0 0 .tm) (tmSt (enopWord none (some .ct) .tm) [(4 * Qu.code .tm + Qu.code .ct, 15)] fun e => { e with issued := true, done := true }))).map
    (fun t => (t.tmq.length, fifoCount t .tm .ct)) = some (0, 16) := by decide +kernel

def stallSt (g : Thread → Thread) : State := { modThread (tmSt (enopWord (some .mx) none .tm) [] id) 0 0 g with cycle := 0x100000 }
theorem witness_stall : ∃ x t, ThreadAt (stallSt fun t => { t with trapvec := 0x100 }) 0 0 x t ∧ t.blocks = [] ∧ popWaits t = true ∧ t.lastProgress + x.stallcyc ≤ (stallSt fun t => { t with trapvec := 0x100 }).cycle
    ∧ t.run = .running ∧ t.trapMode = false ∧ t.trapvec ≠ 0 := ⟨_, _, ⟨rfl, rfl, by decide +kernel⟩, rfl, by decide +kernel, by decide +kernel, rfl, rfl, by decide⟩
theorem witness_stallHalt : ∃ x t, ThreadAt (stallSt fun t => { t with run := .halting 0x40 }) 0 0 x t ∧ popWaits t = true ∧ t.run = .halting 0x40 := ⟨_, _, ⟨rfl, rfl, by decide +kernel⟩, by decide +kernel, rfl⟩
theorem test_engineStall : (thrOut (exec (.engineStall 0 0) (stallSt fun t => { t with trapvec := 0x100 }))).map (fun t => (t.trapMode, t.fltcode.toNat)) = some (true, 0x1100) := by decide +kernel

/-- A graph whose CE holds a token, and in which nothing has moved since cycle 0. -/
def gstallSt : State := { ceSt [v0 1] [] with cycle := 0x100000 }
theorem witness_graphStall : ∃ x gr, grp? gstallSt 0 = some x ∧ graph? gstallSt 0 0 = some gr ∧ graphStalled gstallSt 0 0 x gr = true ∧ elemLive gstallSt 0 0 (((gr.tiles.head?).map (·.1)).getD 0) = true :=
  ⟨_, _, rfl, rfl, by decide +kernel, by decide +kernel⟩
theorem test_graphStall : (match exec (.graphStall 0 0) gstallSt with | .next s => decide ((grp? s 0).all fun x => x.ending = some (4, 0x3000)) | _ => false) = true := by decide +kernel

/-! ## Stream units -/

/-- A channel with tokens at the port of its sink. -/
def chanTo (tile src : Nat) (sink : Nat × Nat) (l : List Token) : Channel :=
  { tile := tile, src := src, roots := [0], nodes := [{ beats := if l = [] then [] else [l], next := [], sink := some sink, entered := 0, kept := 0, ended := false, late := false }], done := false, sentAt := none, unsampled := 0 }

/-- A tile of graph 0 with tokens at its inputs, and with outputs 0 to 2 that end at the ports of tile 200. -/
def tileSt (tile lane : Nat) (y : Tile) (ins : List (Nat × List Token)) : State :=
  let gr := { oneGraph tile y with chans := (ins.map fun p => chanTo 201 p.1 (tile, p.1) p.2) ++ (List.range 3).map fun o => chanTo tile o (200, o) [] }
  { placeImage State.reset { Image.empty with graphs := [(0, gr)] } with present := 1, site := .elem 0 0 tile lane }

/-- An SU at tile 64. -/
def suSt (fr : Frame) (u : SuState) (ins : List (Nat × List Token)) : State := tileSt 64 0 { emptyTile with su := some { freshSu fr with st := u } } ins

/-- KIND, LEVEL and payload of the tokens that an output has sent. -/
def sent (r : Host.Outcome State Fault Refusal) (o : Nat) : List (Nat × Nat × Nat) :=
  match r with
  | .next s => ((graph? s 0 0).map fun gr => (portTokens gr 200 o).map fun t => (kindOf t, levelOf t, t.payload.toNat)).getD []
  | _ => []
def suAfter (r : Host.Outcome State Fault Refusal) : Option SuState := match r with | .next s => (su? s 0 0 64).map (·.st) | _ => none

def sf (param len : BitVec 32) (level : BitVec 3) : SuFrame :=
  { valbase := 0x300, param := param, len := len, segbase := 0x100, crdbase := 0x200, mtsel := 0, bcout := false, bcin := false, level := level, redop := 0, duppol := 0, strict := true }
def crd (c p : Nat) : Token := tok kindCRD 0 (c + p * 2 ^ 32)
def ref (p : Nat) : Token := tok kindREF 0 p
def stop (l : Nat) : Token := tok kindSTOP l 0
def doneT : Token := tok kindDONE 0 0

/-- A scanner within a fibre. -/
def inFib (p c e : Nat) : SuState := { freshSuState with openFib := some (p, c, e), dupA := some (ref p) }

theorem witness_scanOpen : ∃ x gr, Sound (suSt 0x200 (inFib 1 4 5) []) ∧ SuGo (suSt 0x200 (inFib 1 4 5) []) 0 0 64 x gr (inFib 1 4 5) suOuts [0] := ⟨_, _, ⟨rfl, rfl⟩, ⟨_, rfl⟩, rfl, rfl, ⟨_, rfl, rfl⟩, by decide +kernel, rfl, rfl, by decide +kernel, by decide +kernel⟩
/-- Coordinate 66 of fibre 1 of a bitmap of 128: bit 2 of word 3. -/
def bitSt : State := wrNum (suSt 0x201 (inFib 1 65 128) []) (upKey 0 (0x200 + 24)) 8 4
theorem witness_scanBit : ∃ x, grp? bitSt 0 = some x ∧ bitSet bitSt x 64 (sf 0 128 0) 1 66 = true ∧ (∀ j, 65 ≤ j → j < 66 → bitSet bitSt x 64 (sf 0 128 0) 1 j = false)
    ∧ ∀ j, 67 ≤ j → j < 128 → bitSet bitSt x 64 (sf 0 128 0) 1 j = false := by
  refine ⟨_, rfl, by decide +kernel, ?_, ?_⟩ <;> intro j h1 h2
  · obtain rfl : j = 65 := by omega
    decide +kernel
  · exact (by decide +kernel : ∀ j < 128, 67 ≤ j → bitSet bitSt _ 64 (sf 0 128 0) 1 j = false) j h2 h1
def scanIn (t : Token) : State := suSt 0x200 { freshSuState with pending := some (stop 0) } [(0, [t])]
theorem witness_scanIn : ∃ x gr, Sound (scanIn (ref 1)) ∧ SuGo (scanIn (ref 1)) 0 0 64 x gr { freshSuState with pending := some (stop 0) } suOuts [0] ∧ suIn gr 64 0 = some (ref 1) ∧ kindOf (ref 1) = 3 :=
  ⟨_, _, ⟨rfl, rfl⟩, ⟨⟨_, rfl⟩, rfl, rfl, ⟨_, rfl, rfl⟩, by decide +kernel, rfl, rfl, by decide +kernel, by decide +kernel⟩, rfl, rfl⟩
theorem witness_scanStop : ∃ x gr, SuGo (scanIn (stop 6)) 0 0 64 x gr { freshSuState with pending := some (stop 0) } suOuts [0] ∧ suIn gr 64 0 = some (stop 6) ∧ kindOf (stop 6) = 4
    ∧ (sf 0 9 0).level.toNat + 1 + levelOf (stop 6) ≤ 7 := ⟨_, _, ⟨⟨_, rfl⟩, rfl, rfl, ⟨_, rfl, rfl⟩, by decide +kernel, rfl, rfl, by decide +kernel, by decide +kernel⟩, rfl, rfl, by decide⟩
theorem witness_scanDone : ∃ x gr, SuGo (scanIn doneT) 0 0 64 x gr { freshSuState with pending := some (stop 0) } suOuts [0] ∧ suIn gr 64 0 = some doneT ∧ kindOf doneT = 5 :=
  ⟨_, _, ⟨⟨_, rfl⟩, rfl, rfl, ⟨_, rfl, rfl⟩, by decide +kernel, rfl, rfl, by decide +kernel, by decide +kernel⟩, rfl, rfl⟩
theorem witness_scanValue : ∃ x gr, SuGo (scanIn (v0 1)) 0 0 64 x gr { freshSuState with pending := some (stop 0) } suOuts [0] ∧ suIn gr 64 0 = some (v0 1) ∧ kindOf (v0 1) = 0 :=
  ⟨_, _, ⟨⟨_, rfl⟩, rfl, rfl, ⟨_, rfl, rfl⟩, by decide +kernel, rfl, rfl, by decide +kernel, by decide +kernel⟩, rfl, rfl⟩
/-- Fibre 1 of two, whose segment is 2 to 3 of 3 coordinates: the limits are met; the next fibre is out of range. -/
theorem witness_scanSegment : ∃ x, grp? (wrNum (scanIn (ref 1)) (upKey 0 0x104) 8 (2 + 3 * 2 ^ 32)) 0 = some x
    ∧ arr (wrNum (scanIn (ref 1)) (upKey 0 0x104) 8 (2 + 3 * 2 ^ 32)) x 64 (sf 0x2000 3 0) 0x100 1 4 = 2 ∧ arr (wrNum (scanIn (ref 1)) (upKey 0 0x104) 8 (2 + 3 * 2 ^ 32)) x 64 (sf 0x2000 3 0) 0x100 2 4 = 3
    ∧ fieldOf (sf 0x2000 3 0).param 12 20 = 2 := ⟨_, rfl, by decide +kernel, by decide +kernel, by decide⟩
def skipFrame : Frame := BitVec.ofNat 256 (0x202 + 2 ^ 26)
def skipT (l c : Nat) : Token := tok kindSKIP l c
theorem witness_skip : ∃ x gr, SuLive (suSt skipFrame (inFib 0 2 8) [(3, [skipT 0 5])]) 0 0 64 x gr (inFib 0 2 8) [] [] ∧ (suFrameOf skipFrame).bcin = true ∧ portHead gr 64 3 = some (skipT 0 5)
    ∧ kindOf (skipT 0 5) = 9 ∧ levelOf (skipT 0 5) = (suFrameOf skipFrame).level.toNat ∧ (inFib 0 2 8).aCount = (inFib 0 2 8).eCount ∧ fieldOf skipFrame 0 10 = 0x202 :=
  ⟨_, _, ⟨rfl, rfl, ⟨_, rfl, rfl⟩, by decide +kernel, rfl, rfl, rfl, rfl⟩, by decide +kernel, rfl, rfl, by decide +kernel, rfl, by decide +kernel⟩

theorem test_scanc : sent (exec (.scanc (sf 0x2000 9 0)) (wrNum (suSt 0x200 (inFib 1 4 5) []) (upKey 0 0x210) 4 77)) 0 = [(2, 0, 77 + 4 * 2 ^ 32)] := by decide +kernel
/-- R210: position 9 + the set bits below. -/
theorem test_scanb : sent (exec (.scanb (sf 0x2000 128 0)) (wrNum bitSt (upKey 0 0x104) 4 9)) 0 = [(2, 0, 66 + 9 * 2 ^ 32)] := by decide +kernel
theorem test_scand : sent (exec (.scand (sf 0x2000 9 0)) (suSt 0x202 (inFib 1 4 9) [])) 0 = [(2, 0, 4 + 13 * 2 ^ 32)] := by decide +kernel
theorem test_scanl : sent (exec (.scanl (sf 0 9 0)) (suSt 0x203 (inFib 3 0 1) [])) 1 = [(3, 0, 3)] := by decide +kernel
theorem test_scanl_stop : sent (exec (.scanl (sf 0 9 0)) (scanIn (stop 2))) 0 = [(4, 3, 0)] := by decide +kernel
theorem test_skip : (suAfter (exec (.skip 0 0 64) (suSt skipFrame (inFib 0 2 8) [(3, [skipT 0 5])]))).map (·.openFib) = some (some (0, 5, 8)) := by decide +kernel

/-! ### Joiners -/

def joinSt (a b : Token) (u : SuState) : State := suSt 0x204 u [(0, [a]), (1, [b])]
theorem witness_join : ∃ x gr, SuGo (joinSt (crd 3 1) (crd 5 2) { freshSuState with lastA := some 2, lastB := some 4 }) 0 0 64 x gr { freshSuState with lastA := some 2, lastB := some 4 } suOuts [0, 1]
    ∧ suIn gr 64 0 = some (crd 3 1) ∧ suIn gr 64 1 = some (crd 5 2) ∧ hasCoord (crd 3 1) = true ∧ hasCoord (crd 5 2) = true ∧ coordOf (crd 3 1) < coordOf (crd 5 2) :=
  ⟨_, _, ⟨⟨_, rfl⟩, rfl, rfl, ⟨_, rfl, rfl⟩, by decide +kernel, rfl, rfl, by decide +kernel, by decide +kernel⟩, rfl, rfl, rfl, rfl, by decide +kernel⟩
theorem witness_joinStop : ∃ x gr, SuGo (joinSt (stop 1) (stop 1) freshSuState) 0 0 64 x gr freshSuState suOuts [0, 1] ∧ suIn gr 64 0 = some (stop 1) ∧ suIn gr 64 1 = some (stop 1) ∧ isStop (stop 1) = true :=
  ⟨_, _, ⟨⟨_, rfl⟩, rfl, rfl, ⟨_, rfl, rfl⟩, by decide +kernel, rfl, rfl, by decide +kernel, by decide +kernel⟩, rfl, rfl, rfl⟩
theorem witness_joinDone : ∃ x gr, SuGo (joinSt doneT doneT freshSuState) 0 0 64 x gr freshSuState suOuts [0, 1] ∧ suIn gr 64 0 = some doneT ∧ kindOf doneT = 5 :=
  ⟨_, _, ⟨⟨_, rfl⟩, rfl, rfl, ⟨_, rfl, rfl⟩, by decide +kernel, rfl, rfl, by decide +kernel, by decide +kernel⟩, rfl, rfl⟩
/-- A coordinate equal to the last one. -/
theorem witness_joinOrder : ∃ x gr, SuGo (joinSt (crd 3 1) (stop 0) { freshSuState with lastA := some 3 }) 0 0 64 x gr { freshSuState with lastA := some 3 } suOuts [0, 1] ∧ hasCoord (crd 3 1) = true
    ∧ kindOf (stop 0) = 4 ∧ coordOf (crd 3 1) ≤ 3 := ⟨_, _, ⟨⟨_, rfl⟩, rfl, rfl, ⟨_, rfl, rfl⟩, by decide +kernel, rfl, rfl, by decide +kernel, by decide +kernel⟩, rfl, rfl, by decide +kernel⟩
theorem witness_joinParam : (sf 0 0 0).param.getLsbD 1 = false ∧ (sf 2 0 0).param.getLsbD 1 = true ∧ ({ sf 2 0 0 with duppol := 1 } : SuFrame).duppol = 1 := by decide

theorem test_isect : sent (exec (.isect (sf 0 0 0)) (joinSt (crd 3 1) (crd 3 2) freshSuState)) 0 = [(2, 0, 3 + 2 ^ 32)] ∧ sent (exec (.isect (sf 0 0 0)) (joinSt (crd 3 1) (crd 5 2) freshSuState)) 0 = [] := by decide +kernel
theorem test_union : sent (exec (.union (sf 0 0 0)) (joinSt (crd 3 1) (crd 5 2) freshSuState)) 1 = [(6, 0, 0)] := by decide +kernel
theorem test_merge : sent (exec (.merge (sf 0 0 0)) (joinSt (crd 5 1) (crd 3 2) freshSuState)) 0 = [(2, 0, 3 + 2 * 2 ^ 32)] := by decide +kernel
theorem test_join_order : freezeOut (exec (.merge (sf 0 0 0)) (joinSt (crd 3 1) (stop 0) { freshSuState with lastA := some 3 })) = some (some 0x22) := by decide +kernel

/-! ### Functions of streams, and the gate -/

theorem witness_repeat : ∃ x gr, SuGo (joinSt (v0 7) (crd 1 0) freshSuState) 0 0 64 x gr freshSuState suOuts [0, 1] ∧ suIn gr 64 0 = some (v0 7) ∧ suIn gr 64 1 = some (crd 1 0) ∧ isData (v0 7) = true ∧ isData (crd 1 0) = true :=
  ⟨_, _, ⟨⟨_, rfl⟩, rfl, rfl, ⟨_, rfl, rfl⟩, by decide +kernel, rfl, rfl, by decide +kernel, by decide +kernel⟩, rfl, rfl, rfl, rfl⟩
theorem witness_repeatStop : ∃ x gr n, SuGo (suSt 0x207 freshSuState [(0, [v0 7, stop 0]), (1, [stop 1])]) 0 0 64 x gr freshSuState suOuts [0, 1] ∧ (portTokens gr 64 0)[1]? = some n ∧ badToken n = false ∧ kindOf n = 4
    ∧ levelOf n + 1 = levelOf (stop 1) :=
  ⟨_, _, _, ⟨⟨_, rfl⟩, rfl, rfl, ⟨_, rfl, rfl⟩, by decide +kernel, rfl, rfl, by decide +kernel, by decide +kernel⟩, rfl, by decide +kernel, by decide +kernel, by decide +kernel⟩
theorem witness_filter : ∃ x gr, SuGo (joinSt (v0 7) (v0 0) freshSuState) 0 0 64 x gr freshSuState suOuts [0, 1] ∧ routedIn gr 64 1 = true ∧ isValue (v0 7) = true ∧ isValue (v0 0) = true ∧ (v0 0).payload = 0 ∧ (v0 1).payload ≠ 0 :=
  ⟨_, _, ⟨⟨_, rfl⟩, rfl, rfl, ⟨_, rfl, rfl⟩, by decide +kernel, rfl, rfl, by decide +kernel, by decide +kernel⟩, rfl, rfl, rfl, by decide +kernel, by decide +kernel⟩
def foldU : SuState := { freshSuState with fold := some (v0 30), cnt := 1 }
theorem witness_reduce : ∃ x gr, SuGo (suSt 0x208 foldU [(0, [v0 12])]) 0 0 64 x gr foldU suOuts [0] ∧ suIn gr 64 0 = some (v0 12) ∧ kindOf (v0 12) = 0 ∧ foldU.fold = some (v0 30) ∧ kindOf (v0 30) = 0 ∧ (9#4).toNat < 10 :=
  ⟨_, _, ⟨⟨_, rfl⟩, rfl, rfl, ⟨_, rfl, rfl⟩, by decide +kernel, rfl, rfl, by decide +kernel, by decide +kernel⟩, rfl, rfl, rfl, rfl, by decide⟩
theorem witness_reduceStop : ∃ x gr, SuGo (suSt 0x208 foldU [(0, [stop 0])]) 0 0 64 x gr foldU suOuts [0] ∧ suIn gr 64 0 = some (stop 0) ∧ kindOf (stop 0) = 4 ∧ levelOf (stop 0) = 0 ∧ foldU.err = none :=
  ⟨_, _, ⟨⟨_, rfl⟩, rfl, rfl, ⟨_, rfl, rfl⟩, by decide +kernel, rfl, rfl, by decide +kernel, by decide +kernel⟩, rfl, rfl, rfl, rfl⟩
/-- Three outputs: PARAM's field holds their number less 1. -/
theorem witness_split : ∃ x gr, SuGo (suSt 0x20B freshSuState [(0, [crd 5 0])]) 0 0 64 x gr freshSuState suOuts [0] ∧ suIn gr 64 0 = some (crd 5 0) ∧ isValue (crd 5 0) = true :=
  ⟨_, _, ⟨⟨_, rfl⟩, rfl, rfl, ⟨_, rfl, rfl⟩, by decide +kernel, rfl, rfl, by decide +kernel, by decide +kernel⟩, rfl, rfl⟩
def loopU (n : Nat) : SuState := { freshSuState with gate := .loop, cnt := n }
theorem witness_gateSeed : ∃ x gr, SuGo (suSt 0x20A freshSuState [(0, [doneT])]) 0 0 64 x gr freshSuState [0, 1, 2, 3] [0, 1] ∧ freshSuState.spill = 0 ∧ freshSuState.gate = .seed ∧ suIn gr 64 0 = some doneT ∧ freshSuState.cnt = 0 :=
  ⟨_, _, ⟨⟨_, rfl⟩, rfl, rfl, ⟨_, rfl, rfl⟩, by decide +kernel, rfl, rfl, by decide +kernel, by decide +kernel⟩, rfl, rfl, rfl, rfl⟩
theorem witness_gateLoop : ∃ x gr, SuGo (suSt 0x20A (loopU 1) [(1, [stop 0])]) 0 0 64 x gr (loopU 1) [0, 1, 2, 3] [0, 1] ∧ (loopU 1).gate = .loop ∧ suIn gr 64 1 = some (stop 0) ∧ isStop (stop 0) = true
    ∧ levelOf (stop 0) = (sf 0 0 0).level.toNat ∧ (loopU 1).cnt ≠ 0 :=
  ⟨_, _, ⟨⟨_, rfl⟩, rfl, rfl, ⟨_, rfl, rfl⟩, by decide +kernel, rfl, rfl, by decide +kernel, by decide +kernel⟩, rfl, rfl, rfl, rfl, by decide⟩
theorem witness_gateDrain : ∃ x gr, SuGo (suSt 0x20A { freshSuState with gate := .drain } [(1, [doneT])]) 0 0 64 x gr { freshSuState with gate := .drain } [0, 1, 2, 3] [0, 1] ∧ suIn gr 64 1 = some doneT :=
  ⟨_, _, ⟨⟨_, rfl⟩, rfl, rfl, ⟨_, rfl, rfl⟩, by decide +kernel, rfl, rfl, by decide +kernel, by decide +kernel⟩, rfl⟩

theorem test_repeat : sent (exec (.repeatOp (sf 0 0 0)) (joinSt (v0 7) (crd 1 0) freshSuState)) 0 = [(0, 0, 7)] := by decide +kernel
theorem test_filter : sent (exec (.filter (sf 0 0 0)) (joinSt (v0 7) (v0 1) freshSuState)) 0 = [(0, 0, 7)] ∧ sent (exec (.filter (sf 0 0 0)) (joinSt (v0 7) (v0 0) freshSuState)) 0 = [] := by decide +kernel
theorem test_reduce : sent (exec (.reduce (sf 0 0 0)) (suSt 0x208 foldU [(0, [stop 0])])) 0 = [(0, 0, 30)] ∧ ((suAfter (exec (.reduce (sf 0 0 0)) (suSt 0x208 foldU [(0, [v0 12])]))).bind (·.fold)).map (·.payload.toNat) = some 42 := by
  decide +kernel
/-- Coordinate 5 of three outputs leaves on O2. -/
theorem test_split : sent (exec (.split (sf 0x40 0 0)) (suSt 0x20B freshSuState [(0, [crd 5 0])])) 2 = [(2, 0, 5)] := by decide +kernel
theorem test_gate : sent (exec (.gate (sf 0 0 0)) (suSt 0x20A (loopU 3) [(1, [stop 0])])) 1 = [(0, 0, 3)] ∧ sent (exec (.gate (sf 0 0 0)) (suSt 0x20A (loopU 0) [(1, [stop 0])])) 0 = [(5, 0, 0)] := by decide +kernel

/-! ### Level writers -/

def lwU : SuState := { freshSuState with zeroed := true, n := 2, fibre := 1 }
theorem witness_writer : ∃ x gr, Sound (suSt 0x20C lwU [(0, [crd 8 0])]) ∧ SuGo (suSt 0x20C lwU [(0, [crd 8 0])]) 0 0 64 x gr lwU suOuts [0] ∧ suIn gr 64 0 = some (crd 8 0) ∧ (crd 8 0).log = none ∧ lwU.zeroed = true ∧ hasCoord (crd 8 0) = true
    ∧ coordOf (crd 8 0) < (sf 0 9 0).len.toNat ∧ (sf 0 8 0).len.toNat ≤ coordOf (crd 8 0) ∧ lwU.n < (sf 0 3 0).len.toNat ∧ (sf 0 2 0).len.toNat ≤ lwU.n :=
  ⟨_, _, ⟨rfl, rfl⟩, ⟨⟨_, rfl⟩, rfl, rfl, ⟨_, rfl, rfl⟩, by decide +kernel, rfl, rfl, by decide +kernel, by decide +kernel⟩, rfl, rfl, rfl, rfl, by decide +kernel, by decide +kernel, by decide, by decide⟩
theorem witness_writerStop : ∃ x gr, SuGo (suSt 0x20C lwU [(0, [stop 0])]) 0 0 64 x gr lwU suOuts [0] ∧ suIn gr 64 0 = some (stop 0) ∧ isStop (stop 0) = true :=
  ⟨_, _, ⟨⟨_, rfl⟩, rfl, rfl, ⟨_, rfl, rfl⟩, by decide +kernel, rfl, rfl, by decide +kernel, by decide +kernel⟩, rfl, rfl⟩
theorem witness_writerDone : ∃ x gr, SuGo (suSt 0x20C lwU [(0, [doneT])]) 0 0 64 x gr lwU suOuts [0] ∧ suIn gr 64 0 = some doneT :=
  ⟨_, _, ⟨⟨_, rfl⟩, rfl, rfl, ⟨_, rfl, rfl⟩, by decide +kernel, rfl, rfl, by decide +kernel, by decide +kernel⟩, rfl⟩
theorem witness_writerValue : ∃ x gr, SuGo (suSt 0x20E lwU [(0, [v0 6])]) 0 0 64 x gr lwU suOuts [0] ∧ suIn gr 64 0 = some (v0 6) ∧ isValue (v0 6) = true ∧ isEmpty (tok kindEMPTY 0 0) = true :=
  ⟨_, _, ⟨⟨_, rfl⟩, rfl, rfl, ⟨_, rfl, rfl⟩, by decide +kernel, rfl, rfl, by decide +kernel, by decide +kernel⟩, rfl, rfl, rfl⟩
theorem test_lwrc : memOut (exec (.lwrc (sf 0 3 0)) (suSt 0x20C lwU [(0, [crd 8 0])])) (upKey 0 0x208) 4 = some 8 ∧ memOut (exec (.lwrc (sf 0 3 0)) (suSt 0x20C lwU [(0, [stop 0])])) (upKey 0 0x108) 4 = some 2 := by
  decide +kernel
theorem test_lwrb : memOut (exec (.lwrb (sf 0 128 0)) (suSt 0x20D lwU [(0, [crd 66 0])])) (upKey 0 0x218) 8 = some 4 := by decide +kernel
theorem test_lwrd : memOut (exec (.lwrd (sf 0 3 0)) (suSt 0x20E lwU [(0, [v0 6])])) (upKey 0 0x310) 8 = some 6 := by decide +kernel

/-! ## Element events of a resident graph -/

/-- A channel with a hop before its port, and a beat at the hop. -/
def hopSt : State :=
  let ch : Channel := { tile := 64, src := 0, roots := [0], nodes := [{ beats := [[v0 1, v0 2]], next := [1], sink := none, entered := 2, kept := 0, ended := false, late := false }, { beats := List.replicate 15 [v0 0], next := [], sink := some (200, 0), entered := 15, kept := 0, ended := false, late := false }], done := false, sentAt := none, unsampled := 0 }
  { placeImage State.reset { Image.empty with graphs := [(0, { oneGraph 64 emptyTile with chans := [ch] })] } with present := 1 }
theorem witness_beat : ∃ x gr c nd nn b, grp? hopSt 0 = some x ∧ graph? hopSt 0 0 = some gr ∧ gr.chans[0]? = some c ∧ elemLive hopSt 0 0 c.tile = true ∧ c.nodes[0]? = some nd ∧ nd.beats = [b] ∧ nd.sink = none
    ∧ nd.next = [1] ∧ c.nodes[1]? = some nn ∧ nodeSpace nn = true ∧ nn.ended = false ∧ nn.late = false ∧ (∀ t ∈ b.dropLast, kindOf t ≠ 5) ∧ Unwatched hopSt :=
  ⟨_, _, _, _, _, _, rfl, rfl, rfl, by decide +kernel, rfl, rfl, rfl, rfl, rfl, by decide +kernel, rfl, rfl, by decide +kernel, rfl⟩
theorem test_beat : (match exec (.beat 0 0 0 0) hopSt with | .next s => (graph? s 0 0).map fun gr => (gr.chans.map fun c => c.nodes.map fun n => n.beats.length) | _ => none) = some [[0, 16]] := by decide +kernel

/-- A CE at tile 128, with what stands at its inputs. -/
def ceTileSt (c : Ce) (ins : List (Nat × List Token)) : State := { tileSt 128 0 { emptyTile with ce := some c } ins with site := .ce 0 0 128 0 0 }

def krdCe : Ce := { oneCe 0 with sloten := 5, frames := { freshCeFrame with live := true, ks := [11, 22, 33, 44] } :: List.replicate 7 freshCeFrame }
theorem witness_krd : ∃ gr c h, ceFiring? (ceTileSt krdCe []) 0 0 128 0 0 = some (gr, c) ∧ ce? (ceTileSt krdCe []) 0 0 128 = some c ∧ frame? c 0 = some h ∧ h.ks[3]? = some 44 ∧ ceLowerReady gr c 128 0 = false
    ∧ outRoom gr c 128 (some ⟨2, .a⟩) none = true := ⟨_, _, _, rfl, rfl, rfl, rfl, by decide +kernel, by decide +kernel⟩
theorem test_krd : ceOut (exec (.krd { w0 0 with t0 := some ⟨2, .a⟩, ksel := 3 }) (ceTileSt krdCe [])) = some [44] := by decide +kernel

/-- Counter k0 counts 5 and 8 in its two iterations; its first has gone, and frame 1 is free. -/
def cntCe : Ce := { krdCe with counters := { start := 5, step := 3, count := 2 } :: List.replicate 3 { start := 0, step := 0, count := 0 }, idx := [1, 0, 0, 0] }
theorem witness_frameAssign : ∃ x gr c h, ElemAt (ceTileSt cntCe []) 0 0 128 x gr ∧ ce? (ceTileSt cntCe []) 0 0 128 = some c ∧ savedCut x c.marks = false ∧ c.frames[(c.lastFrame + 1 + 0) % 8]? = some h ∧ h.live = false
    ∧ iterationDue gr c 128 = true := ⟨_, _, _, _, ⟨rfl, rfl, by decide +kernel⟩, rfl, rfl, rfl, rfl, by decide +kernel⟩
/-- Frames 0 and 1 are live: the next iteration takes frame 2. -/
def skipCe : Ce := { cntCe with frames := List.replicate 2 { freshCeFrame with live := true, ks := [5, 0, 0, 0] } ++ List.replicate 6 freshCeFrame }
theorem witness_frameSkip : ∃ gr c h, graph? (ceTileSt skipCe []) 0 0 = some gr ∧ ce? (ceTileSt skipCe []) 0 0 128 = some c ∧ c.frames[(c.lastFrame + 1 + 1) % 8]? = some h ∧ h.live = false
    ∧ (∀ i, i < 1 → ∃ h, c.frames[(c.lastFrame + 1 + i) % 8]? = some h ∧ h.live = true) ∧ iterationDue gr c 128 = true :=
  ⟨_, _, _, rfl, rfl, rfl, rfl, fun i hi => by obtain rfl : i = 0 := (by omega); exact ⟨_, rfl, rfl⟩, by decide +kernel⟩
theorem test_frameAssign : (match exec (.frameAssign 0 0 128) (ceTileSt cntCe []) with | .next s => (ce? s 0 0 128).map fun c => ((frame? c 1).map (·.ks), c.noMore) | _ => none) = some (some [8, 0, 0, 0], true) := by decide +kernel

/-- Sides I0 and I1 of a join: a smaller A is delivered beside EMPTY, equals are delivered both. -/
def joinCe : Ce := { oneCe 0 with ports := { bound := true, slot := 0, opnd := .a, join := true, jact := 0x208 } :: List.replicate 3 { bound := false, slot := 0, opnd := .a, join := false, jact := 0 } }
theorem witness_joinCompare : ∃ x gr c bind, ElemAt (ceTileSt joinCe [(0, [crd 3 0]), (1, [crd 5 0])]) 0 0 128 x gr ∧ ce? (ceTileSt joinCe [(0, [crd 3 0]), (1, [crd 5 0])]) 0 0 128 = some c ∧ savedCut x c.marks = false
    ∧ c.ports[0]? = some bind ∧ bind.join = true ∧ ((c.dlv[0]?).getD []).length < 16 ∧ sideHead gr c 128 0 = some (crd 3 0) ∧ sideHead gr c 128 1 = some (crd 5 0) ∧ has c.doneIn 4 = false ∧ hasCoord (crd 3 0) = true :=
  ⟨_, _, _, _, ⟨rfl, rfl, by decide +kernel⟩, rfl, rfl, rfl, rfl, by decide, rfl, rfl, rfl, rfl⟩
theorem witness_joinCompareStop : ∃ x gr c, ElemAt (ceTileSt joinCe [(0, [stop 1]), (1, [stop 1])]) 0 0 128 x gr ∧ ce? (ceTileSt joinCe [(0, [stop 1]), (1, [stop 1])]) 0 0 128 = some c ∧ sideHead gr c 128 0 = some (stop 1)
    ∧ sideHead gr c 128 1 = some (stop 1) ∧ kindOf (stop 1) = 4 := ⟨_, _, _, ⟨rfl, rfl, by decide +kernel⟩, rfl, rfl, rfl, rfl⟩
/-- R40, R85: with A smaller, action 0 delivers A and 2 keeps B. -/
theorem test_joinCompare : (match exec (.joinCompare 0 0 128 false) (ceTileSt joinCe [(0, [crd 3 0]), (1, [crd 5 0])]) with
    | .next s => (ce? s 0 0 128).map fun c => c.dlv.map fun l => l.map fun t => (kindOf t, coordOf t) | _ => none) = some [[(2, 3)], [(6, 0)], [], []] := by decide +kernel

/-- Cut 9 of the group, whose MARK waits at an input. -/
def cutting (s : State) : State := modGrp s 0 fun x => { x with state := .cutting, cutWhy := some .check, cutNo := 9, marksGo := true }
def markT : Token := tok kindMARK 1 9
theorem witness_mark : ∃ x gr u, ElemAt (cutting (suSt 0x208 freshSuState [(0, [markT])])) 0 0 64 x gr ∧ x.state = .cutting ∧ x.marksGo = true ∧ x.markStill = false ∧ su? (cutting (suSt 0x208 freshSuState [(0, [markT])])) 0 0 64 = some u
    ∧ ce? (cutting (suSt 0x208 freshSuState [(0, [markT])])) 0 0 64 = none ∧ fieldOf u.frame 0 10 ≠ 0x20A ∧ has u.st.marks x.cutNo = false ∧ openIns gr 64 [0, 1, 2] u.st.inDone = [0] ∧ portHead gr 64 0 = some markT
    ∧ kindOf markT = 7 ∧ fieldOf markT.payload 0 32 = 9 ∧ roomOn gr 64 [0, 1, 2, 3] = true :=
  ⟨_, _, _, ⟨rfl, rfl, by decide +kernel⟩, rfl, rfl, rfl, rfl, rfl, by decide +kernel, rfl, rfl, rfl, rfl, by decide +kernel, by decide +kernel⟩
theorem witness_markCe : ∃ x gr c, ElemAt (cutting (ceTileSt krdCe [(2, [markT])])) 0 0 128 x gr ∧ ce? (cutting (ceTileSt krdCe [(2, [markT])])) 0 0 128 = some c ∧ has c.marks x.cutNo = false ∧ c.waits = [] ∧ c.stage = [] ∧ c.doneIn = [] ∧ c.doneOut = []
    ∧ openIns gr 128 [0, 1, 2, 3] [] = [2] ∧ portHead gr 128 2 = some markT ∧ roomOn gr 128 (List.range 8) = true :=
  ⟨_, _, _, ⟨rfl, rfl, by decide +kernel⟩, rfl, rfl, rfl, rfl, rfl, rfl, rfl, rfl, by decide +kernel⟩
theorem test_mark : sent (exec (.mark 0 0 64 0) (cutting (suSt 0x208 freshSuState [(0, [markT])]))) 0 = [(7, 1, 9)] := by decide +kernel

/-! ## Memory tiles -/

/-- A pattern of two runs of three doublewords, 8 elements apart, at byte 0x40 of the tile's own pad. -/
def agF (wr : Bool) : AgFrame := { stride3 := 0, stride2 := 0, stride1 := 8, cnt3 := 0, cnt2 := 0, cnt1 := 1, cnt0 := 2, base := 0x40, spc := .up, ndim := 1, ty := .n64, irel := false, wr := wr }
/-- One run alone. -/
def agF0 : AgFrame := { agF false with cnt1 := 0, ndim := 0 }
def agU (i0 i1 : Nat) : AgState := { freshAg 0x280 with i := [i0, i1, 0, 0] }
def agSt (a : AgState) (ins : List (Nat × List Token)) : State := tileSt 0 0 { emptyTile with mt := some { fn := none, ag0 := some a, ag1 := none } } ins

theorem witness_ag : ∃ x gr, AgGo (agSt (agU 1 1) []) 0 0 0 0 x gr (agU 1 1) ∧ Sound (agSt (agU 1 1) []) ∧ Unwatched (agSt (agU 1 1) []) ∧ mtFnOp (agSt (agU 1 1) []) 0 0 0 ≠ 0x288 ∧ mtFnOp (agSt (agU 1 1) []) 0 0 0 ≠ 0x289
    ∧ agKeyAt x 0 (agF false) (patternAt (agF false) 1 1 0 0) (upKey 0 0x88) ∧ (agU 1 1).queue = [] ∧ 1 < (agF false).cnt0.toNat :=
  ⟨_, _, ⟨rfl, by decide, ⟨rfl, rfl, by decide +kernel⟩, rfl, rfl, rfl, rfl, rfl⟩, ⟨rfl, rfl⟩, rfl, by decide +kernel, by decide +kernel, ⟨by decide, by decide +kernel⟩, rfl, by decide⟩
theorem witness_agLast : ∃ x, grp? (agSt (agU 2 0) []) 0 = some x ∧ agKeyAt x 0 agF0 (patternAt agF0 2 0 0 0) (upKey 0 0x50) ∧ agF0.ndim = 0 ∧ 2 = agF0.cnt0.toNat := ⟨_, rfl, ⟨by decide, by decide +kernel⟩, rfl, rfl⟩
def agQ (t : Token) : AgState := { agU 2 0 with inDone := true, queue := [(0, t, true)] }
theorem witness_agQueue : ∃ x gr, AgGo (agSt (agQ doneT) []) 0 0 0 0 x gr (agQ doneT) ∧ (agQ doneT).inDone = true ∧ canSend gr 0 0 = true ∧ (agSt (agQ doneT) []).part = 0 :=
  ⟨_, _, ⟨rfl, by decide, ⟨rfl, rfl, by decide +kernel⟩, rfl, rfl, rfl, rfl, rfl⟩, rfl, by decide +kernel, rfl⟩
theorem witness_agWrite : ∃ x gr, AgGo (agSt (agU 1 1) [(1, [v0 7])]) 0 0 0 0 x gr (agU 1 1) ∧ (agU 1 1).owed = none ∧ (agU 1 1).zeroed = false ∧ suBad gr 0 [] [1] = false ∧ suIn gr 0 1 = some (v0 7) ∧ Plain (v0 7)
    ∧ isValue (v0 7) = true ∧ agKeyAt x 0 (agF true) (patternAt (agF true) 1 1 0 0) (upKey 0 0x88) :=
  ⟨_, _, ⟨rfl, by decide, ⟨rfl, rfl, by decide +kernel⟩, rfl, rfl, rfl, rfl, rfl⟩, rfl, rfl, by decide +kernel, rfl, rfl, rfl, ⟨by decide, by decide +kernel⟩⟩
theorem witness_agWriteDone : ∃ gr, graph? (agSt (agU 1 1) [(1, [doneT])]) 0 0 = some gr ∧ suBad gr 0 [] [1] = false ∧ suIn gr 0 1 = some doneT ∧ kindOf doneT = 5 ∧ Plain doneT := ⟨_, rfl, by decide +kernel, rfl, rfl, rfl⟩
/-- Index 2 is the last of the pattern, index 3 beyond it. -/
theorem witness_agIndex : ∃ x gr, AgGo (agSt (agU 0 0) [(0, [v0 2]), (1, [v0 7])]) 0 0 0 0 x gr (agU 0 0) ∧ suBad gr 0 [] [0, 1] = false ∧ suBad gr 0 [] [0] = false ∧ suIn gr 0 0 = some (v0 2) ∧ suIn gr 0 1 = some (v0 7)
    ∧ fieldOf (v0 2).payload 0 32 ≤ (agF false).cnt0.toNat ∧ agKeyAt x 0 (agF false) ((2 : Nat) : Int) (upKey 0 0x50) ∧ (agF false).cnt0.toNat < fieldOf (v0 3).payload 0 32 :=
  ⟨_, _, ⟨rfl, by decide, ⟨rfl, rfl, by decide +kernel⟩, rfl, rfl, rfl, rfl, rfl⟩, by decide +kernel, by decide +kernel, rfl, rfl, by decide +kernel, ⟨by decide, by decide +kernel⟩, by decide +kernel⟩
def rangeT : Token := tok kindVAL 0 (1 + 2 * 2 ^ 32)
theorem witness_agRange : ∃ x gr, AgGo (agSt (agU 0 0) [(0, [rangeT])]) 0 0 0 0 x gr (agU 0 0) ∧ (agU 0 0).range = [] ∧ suIn gr 0 0 = some rangeT ∧ kindOf rangeT = 0 ∧ fieldOf rangeT.payload 32 32 ≠ 0 :=
  ⟨_, _, ⟨rfl, by decide, ⟨rfl, rfl, by decide +kernel⟩, rfl, rfl, rfl, rfl, rfl⟩, rfl, rfl, rfl, by decide +kernel⟩
theorem witness_agRanging : ∃ x gr, AgGo (agSt { agU 0 0 with range := [(2, 1, v0 1)] } []) 0 0 0 0 x gr { agU 0 0 with range := [(2, 1, v0 1)] } ∧ 2 ≤ (agF false).cnt0.toNat ∧ agKeyAt x 0 (agF false) ((2 : Nat) : Int) (upKey 0 0x50) :=
  ⟨_, _, ⟨rfl, by decide, ⟨rfl, rfl, by decide +kernel⟩, rfl, rfl, rfl, rfl, rfl⟩, by decide, ⟨by decide, by decide +kernel⟩⟩
theorem witness_completion : ∃ x gr, AgLive (agSt { agU 0 0 with owed := some 6 } []) 0 0 0 0 x gr { agU 0 0 with owed := some 6 } ∧ canSend gr 0 0 = true :=
  ⟨_, _, ⟨by decide, ⟨rfl, rfl, by decide +kernel⟩, rfl, rfl, rfl, rfl, rfl⟩, by decide +kernel⟩

def agAfter (r : Host.Outcome State Fault Refusal) : Option (List Nat × List (Nat × Nat)) :=
  match r with | .next s => (ag? s 0 0 0 0).map fun a => (a.i, a.queue.map fun q => (kindOf q.2.1, q.2.1.payload.toNat)) | _ => none
/-- R228: element (1, 1) is 1 + 8 elements on. -/
theorem test_aglin : agAfter (exec (.aglin (agF false)) (wrNum (agSt (agU 1 1) []) (upKey 0 0x88) 8 77)) = some ([2, 1, 0, 0], [(0, 77)]) := by decide +kernel
theorem test_agnd : agAfter (exec (.agnd agF0) (wrNum (agSt (agU 2 0) []) (upKey 0 0x50) 8 77)) = some ([0, 0, 0, 0], [(0, 77), (4, 0), (5, 0)]) := by decide +kernel
theorem test_aglin_write : memOut (exec (.aglin (agF true)) (agSt (agU 1 1) [(1, [v0 7])])) (upKey 0 0x88) 8 = some 7 := by decide +kernel
theorem test_aggath : (agAfter (exec (.aggath (agF false)) (wrNum (agSt (agU 0 0) [(0, [v0 2])]) (upKey 0 0x50) 8 77))).map (·.2) = some [(0, 77)]
    ∧ (agAfter (exec (.aggath (agF false)) (agSt (agU 0 0) [(0, [v0 3])]))).map (·.2) = some [(6, 0)] := by decide +kernel
theorem test_agscat : memOut (exec (.agscat (agF true)) (agSt (agU 0 0) [(0, [v0 2]), (1, [v0 7])])) (upKey 0 0x50) 8 = some 7 := by decide +kernel
theorem test_agrange : (agAfter (exec (.agrange (agF false)) (wrNum (agSt { agU 0 0 with range := [(2, 1, v0 1)] } []) (upKey 0 0x50) 8 77))).map (·.2) = some [(0, 77), (4, 0)] := by decide +kernel
theorem test_completionToken : sent (exec (.completionToken 0 0 0 0) (agSt { agU 0 0 with owed := some 6 } [])) 0 = [(0, 0, 6), (5, 0, 0)] := by decide +kernel

/-! ### Tile functions -/

def fnSt (m : MtState) (a : Option AgState) (ins : List (Nat × List Token)) : State := tileSt 0 2 { emptyTile with mt := some { fn := some m, ag0 := a, ag1 := none } } ins
def mtf (param : BitVec 32) : MtFrame := { ovfbase := 0, limit := 0x48, base := 0x40, param := param }
def cv (i v : Nat) : Token := tok kindCV 0 (v + i * 2 ^ 32)

theorem witness_mtcmpr : ∃ x gr a, MtGo (fnSt (freshMtFn 0x288) (some (agQ (cv 3 7))) []) 0 0 0 x gr (freshMtFn 0x288) ∧ ag? (fnSt (freshMtFn 0x288) (some (agQ (cv 3 7))) []) 0 0 0 0 = some a ∧ a.queue = [(0, cv 3 7, true)]
    ∧ canSend gr 0 0 = true ∧ kindOf (cv 3 7) = 1 ∧ fieldOf (cv 3 7).payload 0 32 ≠ 0 ∧ fieldOf (cv 3 0).payload 0 32 = 0 :=
  ⟨_, _, _, ⟨⟨_, rfl⟩, ⟨rfl, rfl, by decide +kernel⟩, ⟨_, rfl, rfl⟩, rfl⟩, rfl, rfl, by decide +kernel, rfl, by decide +kernel, by decide +kernel⟩
/-- The write stream of MTEXPD, its run zeroed: one run of three words. -/
def expF : Frame := agFrameBits 0x280 { agF0 with ty := .n32, wr := true }
def expA : AgState := { freshAg expF with zeroed := true }
theorem witness_mtexpd : ∃ x gr a, Sound (fnSt (freshMtFn 0x289) (some expA) [(1, [cv 2 7])]) ∧ MtGo (fnSt (freshMtFn 0x289) (some expA) [(1, [cv 2 7])]) 0 0 0 x gr (freshMtFn 0x289) ∧ ag? (fnSt (freshMtFn 0x289) (some expA) [(1, [cv 2 7])]) 0 0 0 0 = some a ∧ a = expA ∧ suBad gr 0 [] [1] = false
    ∧ suIn gr 0 1 = some (cv 2 7) ∧ Plain (cv 2 7) ∧ a.run < runCount (agFrameOf a.frame) ∧ coordOf (cv 2 7) ≤ agCnt (agFrameOf a.frame) 0
    ∧ agKeyAt x 0 (agFrameOf a.frame) (agOffset (agFrameOf a.frame) (runIndex (agFrameOf a.frame) a.run (coordOf (cv 2 7)))) (upKey 0 0x48) :=
  ⟨_, _, _, ⟨rfl, rfl⟩, ⟨⟨_, rfl⟩, ⟨rfl, rfl, by decide +kernel⟩, ⟨_, rfl, rfl⟩, rfl⟩, rfl, rfl, by decide +kernel, rfl, rfl, by decide +kernel, by decide +kernel, ⟨by decide +kernel, by decide +kernel⟩⟩
/-- Words 0 and 1 lie below the limit, word 2 at it. -/
theorem witness_mtown : ∃ x gr, Sound (fnSt (freshMtFn 0x28A) none [(2, [cv 1 7])]) ∧ MtGo (fnSt (freshMtFn 0x28A) none [(2, [cv 1 7])]) 0 0 0 x gr (freshMtFn 0x28A) ∧ canSend gr 0 2 = true ∧ suBad gr 0 [] [2] = false ∧ suIn gr 0 2 = some (cv 1 7) ∧ Plain (cv 1 7)
    ∧ (mtf 8).param.getLsbD 4 = false ∧ (mtf 0x18).param.getLsbD 4 = true ∧ fieldOf (mtf 8).param 0 4 ≠ 9 ∧ (mtf 8).base.toNat + 4 * fieldOf (cv 1 7).payload 32 32 < (mtf 8).limit.toNat
    ∧ (mtf 8).limit.toNat ≤ (mtf 8).base.toNat + 4 * fieldOf (cv 2 7).payload 32 32 :=
  ⟨_, _, ⟨rfl, rfl⟩, ⟨⟨_, rfl⟩, ⟨rfl, rfl, by decide +kernel⟩, ⟨_, rfl, rfl⟩, rfl⟩, by decide +kernel, by decide +kernel, rfl, rfl, by decide, by decide, by decide, by decide +kernel, by decide +kernel⟩
def invM : MtState := { freshMtFn 0x28C with waiting := [({ tag := 0, site := .none, pos := 0, packet := none, spawned := false }, 9)] }
theorem witness_mtinv : ∃ x gr, MtGo (fnSt invM none []) 0 0 0 x gr invM ∧ suBad gr 0 [] [2] = false ∧ suIn gr 0 2 = none ∧ freeTag invM = some 0 ∧ canSend gr 0 2 = true :=
  ⟨_, _, ⟨⟨_, rfl⟩, ⟨rfl, rfl, by decide +kernel⟩, ⟨_, rfl, rfl⟩, rfl⟩, by decide +kernel, rfl, by decide +kernel, by decide +kernel⟩
def invBack : MtState := { freshMtFn 0x28C with invs := [{ tag := 3, site := .block 0 0 0 0, pos := 0, packet := none, spawned := true }] }
theorem witness_mtinvBack : ∃ x gr v z, MtGo (fnSt invBack none [(2, [ref 3, v0 9])]) 0 0 0 x gr invBack ∧ suBad gr 0 [] [2] = false ∧ suIn gr 0 2 = some (ref 3)
    ∧ invBack.invs.find? (fun v => v.spawned && decide (v.tag = (ref 3).payload.toNat)) = some v ∧ v.packet = none ∧ v.site = .block 0 0 0 0 ∧ (portTokens gr 0 2)[1]? = some z ∧ kindOf z = 0 :=
  ⟨_, _, _, _, ⟨⟨_, rfl⟩, ⟨rfl, rfl, by decide +kernel⟩, ⟨_, rfl, rfl⟩, rfl⟩, by decide +kernel, rfl, rfl, rfl, rfl, rfl, rfl⟩
/-- A filled word that an LDE of a block awaits. -/
def servM : MtState := { freshMtFn (0x28B + (0x20000 : Frame) <<< 128) with sync := [(8, { full := true, readers := [{ take := true, entry := 0, site := .block 0 0 0 0, seq := 0 }], overflow := [], serving := true })] }
def servSt : State := modImage { fnSt servM none [] with site := .elem 0 0 0 2 } 0 fun i => { i with threads := [(0, { freshThread 0 with blocks := [{ blkOf 0 0 0 0 0 with waits := [(0, .reader 0 0 0 8)] }] })] }
theorem witness_served : ∃ x gr k w r, MtGo servSt 0 0 0 x gr servM ∧ mtSync? servSt 0 0 0 = some servM ∧ servM.sync.find? (fun p => p.2.serving) = some (8, w) ∧ w.readers = [r] ∧ r.site = .block 0 0 0 0
    ∧ block? servSt 0 0 0 = some k := ⟨_, _, _, _, _, ⟨⟨_, rfl⟩, ⟨rfl, rfl, by decide +kernel⟩, ⟨_, rfl, rfl⟩, rfl⟩, rfl, rfl, rfl, rfl, rfl⟩

theorem test_mtcmpr : sent (exec (.mtcmpr (mtf 0)) (fnSt (freshMtFn 0x288) (some (agQ (cv 3 7))) [])) 0 = [(1, 0, 7 + 3 * 2 ^ 32)] ∧ sent (exec (.mtcmpr (mtf 0)) (fnSt (freshMtFn 0x288) (some (agQ (cv 3 0))) [])) 0 = [] := by
  decide +kernel
theorem test_mtexpd : memOut (exec (.mtexpd (mtf 0)) (fnSt (freshMtFn 0x289) (some expA) [(1, [cv 2 7])])) (upKey 0 0x48) 4 = some 7 := by decide +kernel
/-- R233: an addition answers the old value. -/
theorem test_mtown : (match exec (.mtown (mtf 0x10)) (wrNum (fnSt (freshMtFn 0x28A) none [(2, [cv 1 7])]) (upKey 0 0x44) 4 5) with | .next s => s.ownerWrites | _ => []) = [(upKey 0 0x44, 4, 12)]
    ∧ sent (exec (.mtown (mtf 0x10)) (wrNum (fnSt (freshMtFn 0x28A) none [(2, [cv 1 7])]) (upKey 0 0x44) 4 5)) 2 = [(1, 0, 5 + 2 ^ 32)] := by decide +kernel
theorem test_mtinv : sent (exec (.mtinv (mtf 0)) (fnSt invM none [])) 2 = [(0, 0, 9)] := by decide +kernel
theorem test_mtsync : (match exec (.mtsync (mtf 0)) servSt with | .next s => (mtSync? s 0 0 0).map fun m => ((syncWord m 8).readers.length, (syncWord m 8).full) | _ => none) = some (0, false) := by decide +kernel
theorem test_parkedReader : (match exec (.parkedReaderServed 0 0 0) servSt with | .next s => (block? s 0 0 0).map fun k => (k.perf, k.waits.length) | _ => none) = some (true, 0) := by decide +kernel

/-! ## Matrix cells -/

def mcF : McFrame := { wid := 0, hgt := 0, posx := 0, posy := 0, kblk := 0, boff := 0, mxs := false, bty := .i8, aty := .i8, acc := 0 }
def cell (op : Frame) : Mc := { freshMc [some op, none, none, none] with pass := some (0, false) }
def cellSt (m : Mc) (ins : List (Nat × List Token)) : State := tileSt 192 0 { emptyTile with mc := some m } ins

def sweepSt : State := modGraph (cellSt (freshMc [some 0x240, none, none, none]) []) 0 0 fun gr => { gr with regions := [(192, { injected := [(0, true)], lastQueued := true })] }
theorem witness_sweep : ∃ x gr m, ElemAt sweepSt 0 0 192 x gr ∧ mc? sweepSt 0 0 192 = some m ∧ cellPos m.frames = some (0, 0, 0, 0) ∧ regionOrigin gr m = some 192 ∧ m.sweeps.length < 4
    ∧ (regionState gr 192).injected[m.rcvd]? = some (0, true) ∧ m.pass = none ∧ m.sweeps = [] ∧ m.lastSeen = false :=
  ⟨_, _, _, ⟨rfl, rfl, by decide +kernel⟩, rfl, rfl, rfl, by decide, rfl, rfl, rfl, rfl⟩
theorem witness_cell : ∃ x gr, McGo (cellSt (cell 0x240) [(0, [v0 1])]) 0 0 192 x gr (cell 0x240) ∧ Sound (cellSt (cell 0x240) [(0, [v0 1])]) ∧ Unwatched (cellSt (cell 0x240) [(0, [v0 1])]) ∧ (cell 0x240).row < 32
    ∧ suIn gr 192 0 = some (v0 1) ∧ badToken (v0 1) = false ∧ (cell 0x240).aDone = false ∧ canSend gr 192 0 = true :=
  ⟨_, _, ⟨⟨_, rfl⟩, ⟨⟨rfl, rfl, by decide +kernel⟩, rfl, by decide⟩, rfl⟩, ⟨rfl, rfl⟩, rfl, by decide, rfl, rfl, rfl, by decide +kernel⟩
/-- All 32 rows of a K-block have come. -/
def fullCell : Mc := { cell 0x240 with row := 32, arows := List.replicate 32 [v0 1, v0 0, v0 0, v0 0] }
theorem witness_kblock : ∃ x gr fr, McLive (cellSt fullCell []) 0 0 192 x gr fullCell ∧ fullCell.pass.bind (fun p => mcConfig fullCell p.1) = some fr ∧ (mcOp fr = 0x240 ∨ mcOp fr = 0x241) ∧ fullCell.arows.length = 32
    ∧ fullCell.scales.length = 32 ∧ fullCell.seen = [] ∧ (cellSt fullCell []).part = 0 := ⟨_, _, _, ⟨⟨rfl, rfl, by decide +kernel⟩, rfl, by decide⟩, rfl, .inl (by decide +kernel), by decide, by decide, rfl, rfl⟩
theorem witness_drain : ∃ x gr, McGo (cellSt (cell 0x243) []) 0 0 192 x gr (cell 0x243) ∧ suIn gr 192 0 = none ∧ canSendN gr 192 1 (32 * 8 / 64 + 1) = true ∧ (cell 0x243).drained < 31 :=
  ⟨_, _, ⟨⟨_, rfl⟩, ⟨⟨rfl, rfl, by decide +kernel⟩, rfl, by decide⟩, rfl⟩, rfl, by decide +kernel, by decide⟩
/-- A cell of row 1 forwards the rows of the cell to its north. -/
def southCell : Mc := cell (0x243 + 0x10000000000000000)
theorem witness_drainNorth : ∃ x gr w h px y, McGo (cellSt southCell [(1, [stop 0])]) 0 0 192 x gr southCell ∧ cellPos southCell.frames = some (w, h, y, px) ∧ southCell.north < 32 * y ∧ suIn gr 192 1 = some (stop 0)
    ∧ badToken (stop 0) = false ∧ canSendN gr 192 1 1 = true := ⟨_, _, _, _, _, _, ⟨⟨_, rfl⟩, ⟨⟨rfl, rfl, by decide +kernel⟩, rfl, by decide⟩, rfl⟩, rfl, by decide +kernel, rfl, rfl, by decide +kernel⟩

def cellAfter (r : Host.Outcome State Fault Refusal) : Option Mc := match r with | .next s => mc? s 0 0 192 | _ => none
theorem test_sweep : (cellAfter (exec (.sweep 0 0 192) sweepSt)).map (fun m => (m.rcvd, m.pass)) = some (1, some (0, true)) := by decide +kernel
theorem test_mma : (cellAfter (exec (.mma mcF) (cellSt (cell 0x240) [(0, [v0 1])]))).map (fun m => (m.tok, m.arows.length)) = some (1, 1) ∧ sent (exec (.mma mcF) (cellSt (cell 0x240) [(0, [v0 1])])) 0 = [(0, 0, 1)] := by decide +kernel
theorem test_mmas : (cellAfter (exec (.mmas mcF) (cellSt { cell 0x241 with tok := 3, arows := [[v0 1, v0 1, v0 1]] } [(0, [v0 1])]))).map (fun m => (m.tok, m.row)) = some (0, 1) := by decide +kernel
theorem test_mpass : sent (exec (.mpass mcF) (cellSt (cell 0x244) [(0, [v0 5])])) 0 = [(0, 0, 5)] := by decide +kernel
theorem test_mzero : (match exec (.mzero { mcF with bty := .f32 }) (modImage (cellSt (cell 0x242) []) 0 fun i => { i with accs := [(192, [(1023, 5)])] }) with | .next s => (grp? s 0).map fun x => accBits x 192 .f32 0 31 31 | _ => none)
    = some 0 := by decide +kernel

/-! ## Queues and their commands -/

/-- A READY part with context 1, OPEN, of function 0; its page table at HBM 0 maps VA 0x1_0000 to HBM 0x5_0000. -/
def ctxOpen : Context := { Context.reset with st := .opened, maxcl := 4, maxdp := 64, csabase := 0x10000000, csasize := 0x4000, asid := 7 }
def devSt : State := tabled hbmLeaf { readyPart State.reset with present := 1, contexts := [(1, ctxOpen)], ccbase := 0x100000, ccsize := 8 }
/-- Queue 9 of context 1: 16 packets at VA 0x1_0000, records at VA 0x1_1000. -/
def hq : Queue := { Queue.reset with st := .active, cfg := 1 + 4 * 2 ^ 15, qbase := 0x10000, cqbase := 0x11000, pidx := 3, cidx := 2 }
def qSt (x : Queue) : State := { devSt with queues := [(9, x)] }
/-- A packet of a TYPE with SEQ 2. -/
def packet (typ : Nat) (w : List Nat) : List Word := ((2 + typ * 2 ^ 32) :: w ++ List.replicate (15 - w.length) 0).map (BitVec.ofNat 64)
def headQ (typ : Nat) (w : List Nat) : Queue := { hq with head := some (packet typ w) }

theorem witness_doorbell : devReady (qSt hq) = true ∧ queue (qSt hq) 9 = hq ∧ reachQueue (qSt hq) 0 9 = true ∧ queueOpen hq = true ∧ queueFed hq = false
    ∧ (hq.pidx - hq.cidx).toNat ≤ (18 - hq.cidx).toNat ∧ (18 - hq.cidx).toNat ≤ queueSize hq ∧ queueSize hq < (19 - hq.cidx).toNat ∧ (2 - hq.cidx).toNat < (hq.pidx - hq.cidx).toNat := by decide +kernel
theorem test_doorbell : (match exec (.doorbell 0 9 0 4 18) (qSt hq) with | .next s => (queue s 9).pidx.toNat | _ => 0) = 18 ∧ (match exec (.doorbell 0 9 0 4 19) (qSt hq) with | .next s => (queue s 9).pidx.toNat | _ => 0) = 3 := by
  decide +kernel
/-- SEQ 2 stands in the slot of the head packet, and does not after a put of 0. -/
def slotSt (x : Queue) (n : Nat) : State := wrNum (qSt x) (hbmKey 0x50100) 4 n
theorem witness_packetRead : hq.head = none ∧ hq.polls = none ∧ hq.pidx ≠ hq.cidx ∧ (ownRead (slotSt hq 2) 1 (0x10000 + 128 * 2) 128).toOption.isSome = true
    ∧ ((ownRead (slotSt hq 2) 1 (0x10000 + 128 * 2) 128).toOption.map fun l => natOfBytes (l.take 4)) = some 2 := by decide +kernel
/-- 2,048 ns and more after the first read. -/
def pollSt (n : Nat) : State := { slotSt { hq with polls := some (n, 5) } 0 with dtime := 2053 }
theorem witness_repoll : ∃ m, ({ hq with polls := some (62, 5) } : Queue).polls = some (m, 5) ∧ m + 1 < 64 ∧ 5 + 32 * (m + 1) ≤ (pollSt 62).dtime := ⟨62, rfl, by decide, by decide⟩
theorem witness_packetFault : ∃ c, ownRead (qSt { hq with qbase := 0x20000 }) 1 (0x20000 + 128 * 2) 128 = .error c := ⟨1, by decide +kernel⟩
theorem test_packetRead : (match exec (.packetRead 9) (slotSt hq 2) with | .next s => (queue s 9).head.isSome | _ => false) = true
    ∧ (match exec (.repoll 9) (pollSt 63) with | .next s => (queue s 9).st | _ => .free) = .stalled
    ∧ (match exec (.repoll 9) (pollSt 62) with | .next s => (queue s 9).polls | _ => none) = some (63, 5)
    ∧ (match exec (.repoll 9) { pollSt 62 with dtime := 2020 } with | .next s => (queue s 9).polls | _ => none) = some (62, 5) := by decide +kernel

theorem witness_head : HeadGo (qSt (headQ 0 [])) 9 (headQ 0 []) (packet 0 []) ∧ packetType ((packet 0 [])[0]?.getD 0) = 0 ∧ packetBad (headQ 0 []) (packet 0 []) = false ∧ packetBad (headQ 0 [1]) (packet 0 [1]) = true
    ∧ packetType ((packet 8 [])[0]?.getD 0) = 8 ∧ packetBad (headQ 8 []) (packet 8 []) = false ∧ packetBad (headQ 9 []) (packet 9 []) = true :=
  ⟨⟨by decide +kernel, rfl, rfl, rfl, by decide +kernel⟩, by decide +kernel, by decide +kernel, by decide +kernel, by decide +kernel, by decide +kernel, by decide +kernel⟩
/-- The record of queue 9's SEQ 2 stands at HBM 0x5_1020. -/
def recOut (r : Host.Outcome State Fault Refusal) : Option (Nat × Nat × Nat) := match r with | .next s => some (rdNum s (hbmKey 0x51024) 1, rdNum s (hbmKey 0x51025) 1, rdNum s (hbmKey 0x51026) 2) | _ => none
theorem test_nop : recOut (exec (.nop 9) (qSt (headQ 0 []))) = some (0, 0, 0) ∧ recOut (exec (.nop 9) (qSt (headQ 0 [1]))) = some (0, 1, 0)
    ∧ memOut (exec (.nop 9) (qSt (headQ 0 []))) (hbmKey 0x51020) 4 = some 2 := by decide +kernel
theorem test_commandStart : recOut (exec (.commandStart 9) (qSt (headQ 9 []))) = some (9, 1, 0) := by decide +kernel

/-- An image of one block, a HALT. Its digest was computed with another SHA3-512. -/
def imageWords : List Nat :=
  [0x1004d494648, 0xe0, 0x1, 0x80, 0xccb7699cd7096866, 0x9c901a7b5a28d070, 0x423979b921bc9f71, 0xcc573997a3e8a24, 0x64c8e5f790cc4f68, 0x1f685a0b4c368c3e, 0x953088356179d59b, 0x6366e5face7bafc8, 0x0, 0x0, 0x0, 0x0, 0x5, 0x0, 0x0, 0x0, 0x0, 0x0, 0x0, 0xb10c000000000000, 0x3140000000000000, 0x0, 0x0, 0x0]
/-- Kernel 5 of context 1, whose copy stands in the configuration cache. -/
def ker : Kernel := { ctx := 1, kid := 5, st := .resident, base := 0, units := 1, imgaddr := 0x10000, imglen := 224, report := 0, cmd := none, unload := false, copied := [] }
def kerSt (s : State) : State := { imageWords.zipIdx.foldl (fun s p => wrNum s (hbmKey 0x100000 + 8 * p.2) 8 p.1) s with kernels := [ker] }
def launchPkt : List Nat := [5 + 2 ^ 32, 0x1234, 0, 0, 0, 77]
theorem witness_launch : launchReject (headStarted (kerSt (qSt (headQ 1 launchPkt))) 9 (headQ 1 launchPkt) (packet 1 launchPkt)) 1 (packet 1 launchPkt) = none
    ∧ HeadGo (kerSt (qSt (headQ 1 launchPkt))) 9 (headQ 1 launchPkt) (packet 1 launchPkt) ∧ packetBad (headQ 1 launchPkt) (packet 1 launchPkt) = false
    ∧ (kerSt (qSt (headQ 1 launchPkt))).groups.length < Config.maxGroups ∧ grp? (kerSt (qSt (headQ 1 launchPkt))) (freeGrp (kerSt (qSt (headQ 1 launchPkt)))) = none ∧ Sound (kerSt (qSt (headQ 1 launchPkt))) :=
  ⟨by decide +kernel, ⟨by decide +kernel, rfl, rfl, rfl, by decide +kernel⟩, by decide +kernel, by decide +kernel, by decide +kernel, by decide +kernel, by decide +kernel⟩
theorem witness_launchReject : launchReject (headStarted (qSt (headQ 1 launchPkt)) 9 (headQ 1 launchPkt) (packet 1 launchPkt)) 1 (packet 1 launchPkt) ≠ none := by decide +kernel
theorem test_launchCommand : (match exec (.launchCommand 9) (kerSt (qSt (headQ 1 launchPkt))) with | .next s => (s.groups.map fun p => (p.2.kid, p.2.ncl, p.2.dl, (p.2.args.head?).map (·.toNat))) | _ => []) = [(5, 1, 0x1234, some 77)]
    ∧ (recOut (exec (.launchCommand 9) (qSt (headQ 1 launchPkt)))).map (fun p => p.2.1) = some 2 := by decide +kernel
def barQ (s : State) : State := { s with barriers := [(3, { Barrier.reset with st := .opened, cfg := 1 + 2 * 2 ^ 32, phase := 5 })] }
theorem witness_barCommands : barFor (headStarted (barQ (qSt (headQ 2 [3]))) 9 (headQ 2 [3]) (packet 2 [3])) 3 1 = true ∧ barFor (headStarted (barQ (qSt (headQ 2 [4]))) 9 (headQ 2 [4]) (packet 2 [4])) 4 1 = false
    ∧ satisfied (barrier (barQ (qSt (headQ 3 [3, 4]))) 3) 4 = true ∧ satisfied (barrier (barQ (qSt (headQ 3 [3, 5]))) 3) 5 = false ∧ (barrier (headStarted (barQ (qSt (headQ 2 [3]))) 9 (headQ 2 [3]) (packet 2 [3])) 3).due = false ∧ packetBad (headQ 3 [3, 5]) (packet 3 [3, 5]) = false := by decide +kernel
theorem test_bararv : (match exec (.bararv 9) (barQ (qSt (headQ 2 [3]))) with | .next s => (barrier s 3).arrived | _ => 9) = 1 ∧ recOut (exec (.bararv 9) (barQ (qSt (headQ 2 [4])))) = some (2, 2, 10) := by decide +kernel
theorem test_barwt : recOut (exec (.barwt 9) (barQ (qSt (headQ 3 [3, 4])))) = some (3, 0, 0) ∧ (match exec (.barwt 9) (barQ (qSt (headQ 3 [3, 5]))) with | .next s => (queue s 9).cmds.length | _ => 0) = 1 := by decide +kernel
def loadPkt : List Nat := [5, 0x10000, 224, 0]
theorem witness_kload : kloadReject (headStarted (qSt (headQ 4 loadPkt)) 9 (headQ 4 loadPkt) (packet 4 loadPkt)) 1 (packet 4 loadPkt) = none ∧ kloadReject (kerSt (qSt (headQ 4 loadPkt))) 1 (packet 4 loadPkt) = some 6
    ∧ packetBad (headQ 4 loadPkt) (packet 4 loadPkt) = false := by decide +kernel
theorem test_kload : (match exec (.kload 9) (qSt (headQ 4 loadPkt)) with | .next s => s.kernels.map fun k => (k.kid, k.st, k.units) | _ => []) = [(5, .loading, 1)] := by decide +kernel
theorem witness_kevict : (ctx (kerSt (qSt (headQ 5 [5]))) 1).st ≠ .closing ∧ kernel? (qSt (headQ 5 [5])) 1 5 = none ∧ ∃ k, kernel? (kerSt (qSt (headQ 5 [5]))) 1 5 = some k ∧ k.st = .resident := ⟨by decide +kernel, rfl, ker, by decide +kernel, rfl⟩
def closingSt (s : State) : State := modCtx s 1 fun x => { x with st := .closing }
theorem witness_kevictClosing : (ctx (headStarted (closingSt (kerSt (qSt (headQ 5 [5])))) 9 (headQ 5 [5]) (packet 5 [5])) 1).st = .closing ∧ HeadGo (closingSt (kerSt (qSt (headQ 5 [5])))) 9 (headQ 5 [5]) (packet 5 [5]) :=
  ⟨by decide +kernel, by decide +kernel, by decide +kernel, rfl, rfl, by decide +kernel⟩
theorem test_kevict : recOut (exec (.kevict 9) (qSt (headQ 5 [5]))) = some (5, 2, 4) ∧ (match exec (.kevict 9) (kerSt (qSt (headQ 5 [5]))) with | .next s => s.kernels.length | _ => 9) = 0 := by decide +kernel
theorem witness_tstamp : (ownWrite (headStarted (qSt (headQ 6 [0x12000])) 9 (headQ 6 [0x12000]) (packet 6 [0x12000])) 1 0x12000 (bytesOf 8 0)).toOption.isSome = true
    ∧ (ownWrite (headStarted (qSt (headQ 6 [0x20000])) 9 (headQ 6 [0x20000]) (packet 6 [0x20000])) 1 0x20000 (bytesOf 8 0)).toOption.isSome = false := by decide +kernel
theorem test_tstamp : memOut (exec (.tstamp 9) { qSt (headQ 6 [0x12000]) with dtime := 0x77 }) (hbmKey 0x52000) 8 = some 0x77 ∧ recOut (exec (.tstamp 9) (qSt (headQ 6 [0x20000]))) = some (6, 4, 0x801) := by decide +kernel
def traceQ (c : BitVec 32) : State := modCtx (qSt (headQ 7 [0x13000, 4096])) 1 fun x => { x with dbgcons := c }
theorem witness_traceon : (ctx (traceQ 1) 1).dbgcons.getLsbD 0 = true ∧ (ctx (traceQ 1) 1).trace = none ∧ (ctx (traceQ 2) 1).dbgcons.getLsbD 0 = false ∧ packetBad (headQ 7 [0x13000, 4096]) (packet 7 [0x13000, 4096]) = false
    ∧ (ownWrite (traceQ 1) 1 0x13000 (bytesOf 16 0 ++ bytesOf 8 0 ++ bytesOf 8 0 ++ bytesOf 8 1 ++ bytesOf 24 0)).toOption.isSome = true := by decide +kernel
theorem test_traceon : recOut (exec (.traceon 9) (traceQ 2)) = some (7, 6, 0) ∧ memOut (exec (.traceon 9) { traceQ 1 with dtime := 0x99 }) (hbmKey 0x53010) 8 = some 0x99 := by decide +kernel
theorem test_traceoff : recOut (exec (.traceoff 9) (qSt (headQ 8 []))) = some (8, 0, 0) := by decide +kernel
/-- An outstanding BARWT, SEQ 1. -/
def outQ : Queue := { hq with cmds := [{ seq := 1, typ := 3, words := [], ring := (1, 0x11000, 16) }] }
theorem witness_complete : (outQ.cmds.find? fun k => decide (k.seq = 1 ∧ k.typ = 3)).map (fun k => decide (k.ring = (queueCtx outQ, outQ.cqbase.toNat, queueSize outQ))) = some true ∧ outQ.st ≠ .resetting ∧ (ownWrite (qSt outQ) 1 (0x11000 + 16 * (1 % queueSize outQ)) (recordBytesOf 1 3 0 0 0)).toOption.isSome = true := by
  decide +kernel

/-! ## Stores on their way, the PCIe link, the ends of loads, and queue commands -/

/-- A store of two bytes that waits in cluster 0's write queue. -/
def wqE : WqEntry := { bytes := [(hbmKey 0x50000, 7), (hbmKey 0x50001, 8)], party := (0, 0), rel := false, acq := false, pad := false, sent := false, scope := .package, note := none }
def wqSt : State := { devSt with clusters := [(0, { Cluster.reset with writeq := [{ wqE with bytes := [(hbmKey 0x50008, 1)] }, wqE] })] }
theorem witness_serving : coreUp wqSt = true ∧ (cluster wqSt 0).frozen = none ∧ (cluster wqSt 0).writeq[1]? = some wqE ∧ Here wqE.bytes ∧ wqE.bytes ≠ [] ∧ Sound wqSt
    ∧ ∀ d ∈ (cluster wqSt 0).writeq.take 1, (∀ p ∈ d.bytes, ∀ r ∈ wqE.bytes, p.1 / 8 ≠ r.1 / 8) ∧ (d.bytes = [] → d.party ≠ wqE.party) :=
  ⟨by decide +kernel, by decide +kernel, by decide +kernel, by simp only [Here]; decide +kernel, by decide, ⟨rfl, rfl⟩, by decide +kernel⟩
theorem test_servingPoint : memOut (exec (.servingPointArrival 0 1) wqSt) (hbmKey 0x50000) 2 = some 0x807 ∧ (match exec (.servingPointArrival 0 1) wqSt with | .next s => (cluster s 0).writeq.length | _ => 9) = 1 := by decide +kernel
def hostSt (r : Pcie) : State := { devSt with pcie := [r], links := [(36, { Link.reset with st := .up })] }
theorem witness_pcie : devReady (hostSt (.write [(hostKey 8, 1)] (0, 0) none)) = true ∧ hostUp (hostSt (.write [(hostKey 8, 1)] (0, 0) none)) = true := by decide +kernel
theorem test_pcie : memOut (exec (.pcieCompletion true) (hostSt (.write [(hostKey 8, 1)] (0, 0) none))) (hostKey 8) 1 = some 1
    ∧ memOut (exec (.pcieCompletion true) (wrNum (hostSt (.atomic (hostKey 8) 4 .add 5 0 (.store (0, 0) none))) (hostKey 8) 4 (2 ^ 32 - 1))) (hostKey 8) 8 = some 4 := by decide +kernel

/-- Kernel 5 of context 1 is loading from VA 0x1_0000, for SEQ 2 of queue 9. -/
def loadingSt (s : State) : State := { s with kernels := [{ ker with st := .loading, imglen := 32, cmd := some (9, 2), report := 0x14000 }] }
def loadSt (l : List Nat) : State := loadingSt (l.zipIdx.foldl (fun s p => wrNum s (hbmKey 0x50000 + 8 * p.2) 8 p.1) (qSt { hq with cmds := [{ seq := 2, typ := 4, words := [], ring := (1, 0x11000, 16) }] }))
theorem witness_loadEnd : ∃ k, LoadAt (loadSt [1]) 1 5 k ∧ (imageBytes (loadSt [1]) 1 k.imgaddr (k.imglen / 32 + 1) k.imglen).isSome = true
    ∧ ((imageBytes (loadSt [1]) 1 k.imgaddr (k.imglen / 32 + 1) k.imglen).bind fun l => imageVerdict (wrBytes { loadSt [1] with fresh := 1 } (copyKey (loadSt [1]) k) l) (copyKey (loadSt [1]) k) k.imglen).isSome = true :=
  ⟨_, ⟨by decide +kernel, rfl, rfl, rfl, rfl⟩, by decide +kernel, by decide +kernel⟩
theorem witness_loadFault : imageBytes (modCtx (loadSt []) 1 fun x => { x with ptroot := 0x60000 }) 1 0x10000 (32 / 32 + 1) 32 = none := by decide +kernel
/-- The image above is sound: no check rejects it. -/
theorem witness_loadGood : imageVerdict (kerSt devSt) (hbmKey 0x100000) 224 = none := by decide +kernel
/-- Cause 0x10: MAGIC. The report is written before the record. -/
theorem test_kernelLoadEnd : (match exec (.kernelLoadEnd 1 5) (loadSt [1]) with | .next s => some (rdNum s (hbmKey 0x51024) 4, rdNum s (hbmKey 0x54000) 1) | _ => none) = some (0x100404, 0x10) := by decide +kernel

def fq : Queue := { hq with st := .free }
theorem witness_qcmd : devReady (qSt fq) = true ∧ reachQueue (qSt fq) 0 9 = true ∧ CmdOk (qSt fq) (reachQueue (qSt fq) 0 9) 1 1 ∧ fq.st = .free ∧ (ctx (qSt fq) (queueCtx fq)).st ≠ .free
    ∧ (4 ≤ fq.cfg.toNat / 2 ^ 15 % 2 ^ 5 ∧ fq.cfg.toNat / 2 ^ 15 % 2 ^ 5 ≤ 16 ∧ fq.qbase.toNat % 4096 = 0 ∧ fq.cqbase.toNat % 64 = 0)
    ∧ (ctx (qSt { fq with cfg := 2 }) (queueCtx { fq with cfg := 2 })).st = .free ∧ ¬ 4 ≤ ({ fq with cfg := 1 } : Queue).cfg.toNat / 2 ^ 15 % 2 ^ 5 := by
  refine ⟨by decide +kernel, by decide +kernel, ⟨by decide +kernel, by decide +kernel, by decide⟩, by decide +kernel, by decide +kernel, by decide +kernel, by decide +kernel, by decide +kernel⟩
theorem witness_qcmdBusy : ({ hq with st := .resetting } : Queue).st = .resetting ∧ hq.st = .active ∧ ({ hq with st := .stalled } : Queue).st = .stalled ∧ (0x11 : Word).toNat % 16 = 1 ∧ 16 ≤ (0x11 : Word).toNat := by decide +kernel
theorem witness_qreset : ({ hq with pidx := 2 } : Queue).pidx = hq.cidx ∧ ({ hq with pidx := 2 } : Queue).cmds = [] ∧ (qSt { hq with pidx := 2 }).groups = [] ∧ (ctx (qSt { hq with pidx := 2 }) 1).trace = none := by decide +kernel
def qOut (r : Host.Outcome State Fault Refusal) : Option (QueueSt × Nat) := match r with | .next s => some ((queue s 9).st, (queue s 9).err.toNat) | _ => none
theorem test_qcmdCreate : qOut (exec (.qcmdCreate 0 9 1) (qSt fq)) = some (.idle, 0) ∧ qOut (exec (.qcmdCreate 0 9 0x11) (qSt fq)) = some (.free, 1) := by decide +kernel
theorem test_qcmdReset : qOut (exec (.qcmdReset 0 9 2) (qSt { hq with pidx := 2 })) = some (.idle, 0) ∧ qOut (exec (.qcmdReset 0 9 2) (qSt fq)) = some (.free, 2) := by decide +kernel
theorem test_qcmdResume : qOut (exec (.qcmdResume 0 9 3) (qSt { hq with st := .stalled })) = some (.active, 0) ∧ qOut (exec (.qcmdResume 0 9 3) (qSt hq)) = some (.active, 2) := by decide +kernel
theorem test_qcmdDestroy : qOut (exec (.qcmdDestroy 0 9 4) (qSt { hq with pidx := 2 })) = some (.free, 0) := by decide +kernel

/-! ## Contexts and barriers -/

def ctxSt (x : Context) : State := { devSt with contexts := [(1, x)] }
def freeCtx : Context := { ctxOpen with st := .free }
theorem witness_create : devReady (ctxSt freeCtx) = true ∧ reachCtx (ctxSt freeCtx) 0 1 = true ∧ freeCtx.st = .free ∧ freeCtx.busy = false ∧ CreateOk (ctxSt freeCtx) 0 1 freeCtx := by
  refine ⟨by decide +kernel, by decide +kernel, rfl, rfl, ?_⟩
  refine ⟨by decide +kernel, by decide +kernel, by decide +kernel, by decide +kernel, by decide +kernel, by decide +kernel⟩
theorem witness_createAsid : ∃ p ∈ ({ ctxSt freeCtx with contexts := [(1, freeCtx), (2, ctxOpen)] } : State).contexts, p.1 ≠ 1 ∧ p.2.st ≠ .free ∧ p.2.asid = freeCtx.asid := ⟨(2, ctxOpen), by decide +kernel, by decide, by decide +kernel, rfl⟩
theorem witness_suspend : (ctx (ctxSt ctxOpen) 1).csasize.toNat ≥ saveNeed (ctxSt ctxOpen) 1 ∧ (ctxSt ctxOpen).groups = [] ∧ ctxOpen.destroyDuringSwitch = false
    ∧ ({ ctxOpen with csasize := 0 } : Context).csasize.toNat < saveNeed (ctxSt { ctxOpen with csasize := 0 }) 1 := by decide +kernel
def susCtx (l : Option (List (Nat × Byte))) : Context := { ctxOpen with st := .suspended, saveCells := l }
theorem witness_resume : poisoned (ctxSt (susCtx (some []))) (hbmKey (csaBase (susCtx (some [])))) (csaBytes (susCtx (some []))) = false
    ∧ (susCtx (some [])).saveCells = some (areaNow (ctxSt (susCtx (some []))) (csaBase (susCtx (some []))) (csaBytes (susCtx (some []))))
    ∧ (susCtx (some [(0, 1)])).saveCells ≠ some (areaNow (ctxSt (susCtx (some [(0, 1)]))) (csaBase (susCtx (some [(0, 1)]))) (csaBytes (susCtx (some [(0, 1)])))) := by decide +kernel
def closing : Context := { ctxOpen with st := .closing, busy := true }
theorem witness_destroy : (ctxSt ctxOpen).queues = [] ∧ (ctxSt ctxOpen).kernels = [] ∧ (ctxSt ctxOpen).barriers = [] ∧ ctxOpen.trace = none ∧ closing.destroyDuringSwitch = false ∧ ctxEmpty (ctxSt closing) 1 = true := by decide +kernel
def ctxOut (r : Host.Outcome State Fault Refusal) : Option (CtxSt × Nat) := match r with | .next s => some ((ctx s 1).st, (ctx s 1).err.toNat) | _ => none
theorem test_ctxcmdCreate : ctxOut (exec (.ctxcmdCreate 0 1 1) (ctxSt freeCtx)) = some (.opened, 0) ∧ ctxOut (exec (.ctxcmdCreate 0 1 1) { ctxSt freeCtx with contexts := [(1, freeCtx), (2, ctxOpen)] }) = some (.free, 3) := by decide +kernel
theorem test_ctxcmdSuspend : ctxOut (exec (.ctxcmdSuspend 0 1 2) (ctxSt { ctxOpen with csasize := 0 })) = some (.opened, 8) := by decide +kernel
theorem test_ctxcmdResume : ctxOut (exec (.ctxcmdResume 0 1 3) (ctxSt (susCtx (some [])))) = some (.opened, 0) ∧ ctxOut (exec (.ctxcmdResume 0 1 3) (ctxSt (susCtx (some [(0, 1)])))) = some (.suspended, 6) := by decide +kernel
theorem test_ctxcmdDestroy : ctxOut (exec (.ctxcmdDestroy 0 1 4) (ctxSt ctxOpen)) = some (.closing, 0) := by decide +kernel
theorem test_teardown : ctxOut (exec (.teardownComplete 1) (ctxSt closing)) = some (.free, 0) := by decide +kernel

def bar (n : Nat) (arr : Nat) : Barrier := { Barrier.reset with st := .opened, cfg := BitVec.ofNat 64 (1 + 5 * 2 ^ 12 + 2 ^ 15 + n * 2 ^ 32), phase := 5, arrived := arr }
def bSt (x : Barrier) : State := { devSt with barriers := [(3, x)] }
theorem witness_bcmd : barrier (bSt { bar 2 0 with st := .free }) 3 = { bar 2 0 with st := .free } ∧ reachBarrier (bSt { bar 2 0 with st := .free }) 0 3 = true ∧ reachBarrier (bSt (bar 2 0)) 0 3 = true ∧ barScope (bar 2 0) = 5 ∧ barExpect (bar 2 0) = 2
    ∧ barExt (bar 2 0) = true ∧ (ctx (bSt (bar 2 0)) (barCtx (bar 2 0))).st ≠ .free ∧ (ctx (bSt (bar 2 0)) (barCtx { bar 2 0 with cfg := 9 })).st = .free ∧ barExpect (bar 0 0) = 0 := by decide +kernel
theorem witness_timeout : ({ bar 2 1 with timer := some 0, armedTmo := 3 } : Barrier).armedTmo ≠ 0 ∧ 0 + ({ bar 2 1 with timer := some 0, armedTmo := 3 } : Barrier).armedTmo * 1000 ≤ ({ bSt (bar 2 1) with dtime := 3000 } : State).dtime := by decide +kernel
theorem witness_external : (bar 2 0).st ≠ .free ∧ barExt (bar 2 0) = true ∧ reachCtx (bSt (bar 2 0)) 0 (barCtx (bar 2 0)) = true ∧ (bar 2 0).phase = 5 ∧ (6 : BitVec 32) ≠ (bar 2 0).phase := by decide +kernel
theorem witness_arrive : (bar 3 1).arrived + 1 < barExpect (bar 3 1) ∧ 0 < (bar 3 1).arrived ∧ (bar 2 0).arrived = 0 ∧ 1 < barExpect (bar 2 0) ∧ barExpect (bar 2 1) ≤ (bar 2 1).arrived + 1 ∧ (bSt (bar 2 1)).groups = [] := by decide +kernel
def barOut (r : Host.Outcome State Fault Refusal) : Option (BarSt × Nat × Nat × Nat) := match r with | .next s => let b := barrier s 3; some (b.st, b.phase.toNat, b.arrived, b.extdrop.toNat) | _ => none
theorem test_bcmdCreate : barOut (exec (.bcmdCreate 0 3 1) (bSt { bar 2 0 with st := .free })) = some (.opened, 0, 0, 0) ∧ barOut (exec (.bcmdCreate 0 3 1) (bSt { bar 0 0 with st := .free })) = some (.free, 5, 0, 0) := by decide +kernel
theorem test_bcmdReset : barOut (exec (.bcmdReset 0 3 2) (bSt (bar 3 2))) = some (.opened, 6, 0, 0) := by decide +kernel
theorem test_bcmdDestroy : barOut (exec (.bcmdDestroy 0 3 3) (bSt (bar 3 2))) = some (.free, 5, 0, 0) := by decide +kernel
theorem test_bextdrop : barOut (exec (.bextdropRead 0 3) (bSt { bar 3 2 with extdrop := 4 })) = some (.opened, 5, 2, 0) := by decide +kernel
theorem test_barrierTimeout : barOut (exec (.barrierTimeout 3) { bSt { bar 2 1 with timer := some 0, armedTmo := 3 } with dtime := 3000 }) = some (.broken, 5, 1, 0) := by decide +kernel
theorem test_externalArrival : barOut (exec (.externalArrival 0 3 0 4 5 0) (bSt (bar 2 1))) = some (.opened, 6, 0, 0) ∧ barOut (exec (.externalArrival 0 3 0 4 4 0) (bSt (bar 2 1))) = some (.opened, 5, 1, 1) := by decide +kernel

/-! ## Groups -/

/-- Group 1 of context 1, kernel 5, one cluster, admitted. -/
def adm : Group := { freshGroup Image.empty with ctx := 1, kid := 5, state := .admitted, started := false, loaded := false, place := [], seedPlace := [], effClass := 2, key := 1000, waitStart := 0 }
def gSt (l : Tab Group) : State := { devSt with kernels := [ker], groups := l }
/-- The same, with the kernel's image in the cache. -/
def giSt (l : Tab Group) : State := { kerSt devSt with groups := l }
theorem witness_place : ∃ x l, (gSt [(1, adm)]).wave = none ∧ GroupAt (gSt [(1, adm)]) 1 x ∧ placeable (gSt [(1, adm)]) x = true ∧ (gSt [(1, adm)]).level < 2 ∧ (∀ p ∈ (waitingLaunches (gSt [(1, adm)])).takeWhile (fun p => decide (p.1 ≠ 1)), fitsNow (gSt [(1, adm)]) p.1 p.2 [] = false)
    ∧ placeFits (availFor (gSt [(1, adm)]) 1 []) (dpFree (gSt [(1, adm)]) x []) x.ncl [(0, 0, 0)] = true ∧ placeLiked (gSt [(1, adm)]) 1 x [(0, 0, 0)] = true ∧ (gSt [(1, adm)]).d3Pending = false ∧ x.gang = none ∧ windowImage (gSt [(1, adm)]) x.ctx x = .ok l :=
  ⟨_, _, rfl, ⟨by decide +kernel, rfl, rfl⟩, by decide +kernel, by decide +kernel, by decide +kernel, by decide +kernel, by decide +kernel, rfl, rfl, rfl⟩
theorem witness_placeFault : ∃ c, windowImage (gSt []) 1 { adm with args := List.replicate 9 0 ++ [8] } = .error c := ⟨0, by decide +kernel⟩
def savedG : Group := { adm with state := .saved, runnable := true, started := true, place := [(0, 0, 0, 0)] }
theorem witness_placeSaved : ∃ x l, GroupAt (gSt [(1, savedG)]) 1 x ∧ placeable (gSt [(1, savedG)]) x = true ∧ x.state = .saved ∧ x.stopHeld = false ∧ readArea (gSt [(1, savedG)]) 1 x = .ok l :=
  ⟨savedG, [], ⟨by decide +kernel, rfl, rfl⟩, by decide +kernel, rfl, rfl, rfl⟩
/-- A parked group 2 holds the one cluster; the pool has room for it. -/
def parkedG : Group := { adm with state := .parked, started := true, place := [(0, 0, 0, 0)] }
def vicSt : State := { gSt [(1, adm), (2, parkedG)] with prsize := 784 }
theorem witness_victims : ∃ x, vicSt.wave = none ∧ GroupAt vicSt 1 x ∧ placeable vicSt x = true ∧ (waitingLaunches vicSt).head?.map (·.1) = some 1 ∧ fitsNow vicSt 1 x [] = false ∧ victimsFor vicSt 1 x = [2] :=
  ⟨_, rfl, ⟨by decide +kernel, rfl, rfl⟩, by decide +kernel, by decide +kernel, by decide +kernel, by decide +kernel⟩
def startG : Group := { adm with state := .running, place := [(0, 0, 0, 0)] }
theorem witness_start : ∃ x k e b l, GroupAt (giSt [(1, startG)]) 1 x ∧ x.state = .running ∧ x.started = false ∧ kernel? (giSt [(1, startG)]) x.ctx x.kid = some k ∧ (kernelEntries (giSt [(1, startG)]) (copyKey (giSt [(1, startG)]) k))[x.entry]? = some e
    ∧ e.block = some b ∧ Sound (giSt [(1, startG)]) ∧ windowImage (giSt [(1, startG)]) x.ctx x = .ok l := ⟨startG, ker, { block := some 0, graphs := [] }, 0, _, ⟨by decide +kernel, rfl, rfl⟩, rfl, rfl, by decide +kernel, by decide +kernel, rfl, ⟨by decide +kernel, by decide +kernel⟩, rfl⟩
def haltedT : Thread := { freshThread 0 with run := .halted }
def runG : Group := { startG with started := true, loaded := true, cutNo := 1, image := { Image.empty with threads := [(0, haltedT)] } }
theorem witness_park : ∃ x, Runs { gSt [(1, runG)] with cycle := 1024 } 1 x ∧ x.idleSince + 1024 ≤ ({ gSt [(1, runG)] with cycle := 1024 } : State).cycle ∧ gangWaits { gSt [(1, runG)] with cycle := 1024 } 1 x = false
    ∧ ∀ p ∈ x.image.threads, threadIdle { gSt [(1, runG)] with cycle := 1024 } 1 p.1 p.2 = true :=
  ⟨_, ⟨⟨by decide +kernel, rfl, rfl⟩, .inl rfl, rfl, rfl, rfl⟩, by decide +kernel, by decide +kernel, by decide +kernel⟩
theorem witness_promote : adm.state = .admitted ∧ 2 ≤ adm.effClass ∧ 0 < promoteOf (gSt [(1, adm)]) 2 ∧ 0 + promoteOf (gSt [(1, adm)]) 2 ≤ ({ gSt [(1, adm)] with dtime := 1000000000 } : State).dtime := by decide +kernel
def topG : Group := { adm with effClass := 1 }
theorem witness_hold : waitingLaunches { gSt [(1, topG)] with dtime := 1000000 } = [(1, topG)] ∧ topG.effClass ≤ 1 ∧ topG.held = none ∧ topG.waitStart + 1000000 ≤ ({ gSt [(1, topG)] with dtime := 1000000 } : State).dtime := by decide +kernel
theorem witness_budget : 0 < ({ runG with budget := 3 } : Group).budget ∧ 3 * 1000 ≤ consumed { gSt [(1, { runG with budget := 3 })] with dtime := 3000 } { runG with budget := 3 } := by decide +kernel
theorem witness_deadline : ({ adm with dl := 5 } : Group).dl ≠ 0 ∧ ({ adm with dl := 5 } : Group).missed = false ∧ ({ adm with dl := 5 } : Group).dl < ({ gSt [] with dtime := 6 } : State).dtime ∧ (gSt []).queues = [] := by decide +kernel

def gOut (r : Host.Outcome State Fault Refusal) (g : Nat) : Option Group := match r with | .next s => grp? s g | _ => none
theorem test_sluice : (gOut (exec (.sluiceDecision 1 [(0, 0, 0)] []) (gSt [(1, adm)])) 1).map (fun x => (x.state, x.started)) = some (.running, false)
    ∧ (gOut (exec (.sluiceDecision 1 [] [2]) vicSt) 2).map (·.cutWhy) = some (some .preempt) := by decide +kernel
/-- The thread starts at the block's address. -/
theorem test_groupStart : (match exec (.groupStart 1) (giSt [(1, startG)]) with | .next s => (thread? s 1 3).map (·.pc) | _ => none) = some 0x100A0 := by decide +kernel
theorem test_groupPark : (gOut (exec (.groupPark 1) { gSt [(1, runG)] with cycle := 1024 }) 1).map (·.state) = some .parked ∧ (gOut (exec (.groupPark 1) { gSt [(1, runG)] with cycle := 1023 }) 1).map (·.state) = some .running := by decide +kernel
theorem test_promote : (gOut (exec (.promote 1) { gSt [(1, adm)] with dtime := 1000000000 }) 1).map (·.effClass) = some 1 ∧ (gOut (exec (.promote 1) { gSt [(1, adm)] with dtime := 999999999 }) 1).map (·.effClass) = some 2 := by decide +kernel
theorem test_clusterHold : (gOut (exec (.clusterHold 1) { gSt [(1, topG)] with dtime := 1000000 }) 1).map (·.held) = some (some 0) := by decide +kernel
theorem test_budget : (gOut (exec (.budget 1) { gSt [(1, { runG with budget := 3 })] with dtime := 3000 }) 1).map (fun x => (x.effClass, x.budget)) = some (3, 0) := by decide +kernel
theorem test_deadline : (gOut (exec (.deadline 1) { gSt [(1, { adm with dl := 5 })] with dtime := 6 }) 1).map (·.missed) = some true ∧ (gOut (exec (.deadline 1) { gSt [(1, { adm with dl := 5 })] with dtime := 5 }) 1).map (·.missed) = some false := by
  decide +kernel

theorem witness_drained : (∀ p ∈ runG.image.graphs, ∀ t ∈ p.2.tiles, lingers p.2 t.2 = false) ∧ ∃ x, Runs (gSt [(1, runG)]) 1 x ∧ drained (gSt [(1, runG)]) 1 x x.config = true ∧ quadBusy x (configQuads (gSt [(1, runG)]) x (x.config + 1)) = false ∧ configCount (unloadDrained (gSt [(1, runG)]) 1 x.config) x ≤ x.config + 1
    ∧ configCount (gSt [(1, runG)]) x ≤ x.config + 1 ∧ ∀ p ∈ x.image.threads, p.2.run = .halted := ⟨by decide +kernel, _, ⟨⟨by decide +kernel, rfl, rfl⟩, .inl rfl, rfl, rfl, rfl⟩, by decide +kernel, by decide +kernel, by decide +kernel, by decide +kernel, by decide +kernel⟩
def cutG : Group := { runG with cutWhy := some .check }
theorem witness_cut : ∃ x, GroupAt (gSt [(1, cutG)]) 1 x ∧ x.state = .running ∧ x.started = true ∧ x.cutWhy ≠ none ∧ x.freeze = none := ⟨_, ⟨by decide +kernel, rfl, rfl⟩, rfl, rfl, by decide, rfl⟩
def cuttingG (go : Bool) : Group := { cutG with state := .cutting, marksGo := go, cutNo := 2 }
theorem witness_quiescent : ∃ x, GroupAt { gSt [(1, cuttingG false)] with cycle := 64 } 1 x ∧ x.state = .cutting ∧ x.marksGo = false ∧ x.saving = false ∧ x.idleSince + 64 ≤ ({ gSt [(1, cuttingG false)] with cycle := 64 } : State).cycle
    ∧ groupOut { gSt [(1, cuttingG false)] with cycle := 64 } 1 = false := ⟨_, ⟨by decide +kernel, rfl, rfl⟩, rfl, rfl, rfl, by decide +kernel, by decide +kernel⟩
theorem witness_cutEnds : ∃ x, CutEnds (gSt [(1, cuttingG true)]) 1 x ∧ x.cutWhy = some .check := ⟨_, ⟨⟨by decide +kernel, rfl, rfl⟩, rfl, rfl, rfl, rfl, by decide +kernel, by decide +kernel, by decide +kernel⟩, rfl⟩
def savingG : Group := { cuttingG true with saving := true, cutWhy := some .preempt, poolUnits := 784 }
theorem witness_save : ∃ x pa, Sound { gSt [(1, savingG)] with prsize := 784 } ∧ GroupAt { gSt [(1, savingG)] with prsize := 784 } 1 x ∧ x.saving = true ∧ (ctx { gSt [(1, savingG)] with prsize := 784 } x.ctx).destroyDuringSwitch = false
    ∧ (ctx { gSt [(1, savingG)] with prsize := 784 } x.ctx).st ≠ .switching ∧ poolPlace { gSt [(1, savingG)] with prsize := 784 } (areaUnits x) = some pa := ⟨savingG, 0, ⟨rfl, rfl⟩, ⟨by decide +kernel, rfl, rfl⟩, rfl, by decide +kernel, by decide +kernel, by decide +kernel⟩
def frozenG (r : Option (Nat × Image)) : Group := { runG with freeze := some { slot := none, code := 0x21, cause := 0, wr := false, addr := 0 }, rollback := r }
theorem witness_freezeLine : ∃ x y f, (gSt [(1, frozenG (some (1, runG.image)))]).wave = none ∧ GroupAt (gSt [(1, frozenG (some (1, runG.image)))]) 1 x ∧ x.freeze = some f ∧ placed x = true ∧ x.gang = none ∧ x.rollback = some (1, runG.image) ∧ x.rollbackUsed = false ∧ x.cutWhy = none
    ∧ GroupAt (gSt [(1, frozenG none)]) 1 y ∧ y.rollback = none ∧ Ringless runG.image := ⟨_, _, _, rfl, ⟨by decide +kernel, rfl, rfl⟩, rfl, rfl, rfl, rfl, rfl, rfl, ⟨by decide +kernel, rfl, rfl⟩, rfl, fun p hp => nomatch hp⟩
theorem test_configDrain : (gOut (exec (.configDrain 1) (gSt [(1, runG)])) 1).map (·.config) = some 0 := by decide +kernel
theorem test_groupComplete : (gOut (exec (.groupComplete 1) (gSt [(1, runG)])) 1).isSome = false := by decide +kernel
theorem test_cut : (gOut (exec (.cut 1) (gSt [(1, cutG)])) 1).map (fun x => (x.state, x.cutNo, x.marksGo)) = some (.cutting, 2, true) := by decide +kernel
theorem test_quiescent : (gOut (exec (.quiescent 1) { gSt [(1, cuttingG false)] with cycle := 64 }) 1).map (·.marksGo) = some true ∧ (gOut (exec (.quiescent 1) { gSt [(1, cuttingG false)] with cycle := 63 }) 1).map (·.marksGo) = some false := by
  decide +kernel
theorem test_cutComplete : (gOut (exec (.cutComplete 1) (gSt [(1, cuttingG true)])) 1).map (fun x => (x.state, x.rollback.map (·.1))) = some (.running, some 2) := by decide +kernel
theorem test_freezeLine : (gOut (exec (.freezeLine 1) (gSt [(1, frozenG (some (1, runG.image)))])) 1).map (fun x => (x.freeze.isSome, x.rollbackUsed)) = some (false, true)
    ∧ (gOut (exec (.freezeLine 1) (gSt [(1, frozenG none)])) 1).isSome = false := by decide +kernel

/-! ### Gangs -/

def gangY (m : Nat) : Gang := { id := 6, nmem := 1, midx := m, gto := 4, timerStart := 0, go := false, allgo := false, arms := [0], goacks := [], dones := [], done := false, pkgs := [] }
def gangG (y : Gang) (st : GState) : Group := { runG with gang := some y, state := st }
def gangSt (y : Gang) (st : GState) : State := gSt [(1, gangG y st)]
theorem witness_gang : OnlyMember (gangSt (gangY 0) .armed) 6 1 (gangG (gangY 0) .armed) (gangY 0) ∧ allMembers (gangY 0) [1, 0] = true ∧ allMembers (gangY 0) [0] = false ∧ 0 < (gangY 0).nmem ∧ (gangY 0).goacks = [] :=
  ⟨⟨by decide +kernel, rfl, rfl, rfl, rfl, rfl⟩, by decide, by decide, by decide, rfl⟩
theorem witness_gangPartial : OnlyMember (gangSt { gangY 0 with nmem := 2, go := true, goacks := [0], dones := [0] } .running) 6 1 (gangG { gangY 0 with nmem := 2, go := true, goacks := [0], dones := [0] } .running)
      { gangY 0 with nmem := 2, go := true, goacks := [0], dones := [0] }
    ∧ allMembers { gangY 0 with nmem := 2 } [1, 0] = false ∧ allMembers { gangY 0 with nmem := 2 } [2, 1, 0] = true := ⟨⟨by decide +kernel, rfl, rfl, rfl, rfl, rfl⟩, by decide, by decide⟩
theorem witness_gangMember : OnlyMember (gangSt (gangY 1) .armed) 6 1 (gangG (gangY 1) .armed) (gangY 1) ∧ (gangY 1).midx ≠ 0 ∧ (gangY 1).go = false := ⟨⟨by decide +kernel, rfl, rfl, rfl, rfl, rfl⟩, by decide, rfl⟩
theorem witness_gangSettled : Settled (gangSt { gangY 0 with go := true } .running) := by unfold Settled; decide +kernel
theorem witness_gangDone : ({ gangY 0 with done := true } : Gang).done = true ∧ placed (gangG (gangY 0) .armed) = true ∧ (gangY 0).timerStart + (gangY 0).gto * 1000 ≤ ({ gangSt (gangY 0) .armed with dtime := 4000 } : State).dtime := by decide +kernel
def gangOut (r : Host.Outcome State Fault Refusal) : Option (GState × Gang) := (gOut r 1).bind fun x => x.gang.map fun y => (x.state, y)
theorem test_gangArm : (gangOut (exec (.gangArm 6 1 1 4) (gangSt (gangY 0) .armed))).map (fun p => (p.1, p.2.go, p.2.goacks)) = some (.running, true, [0]) ∧ (gOut (exec (.gangArm 6 1 1 5) (gangSt (gangY 0) .armed)) 1).isSome = false := by
  decide +kernel
theorem test_gangGo : (gangOut (exec (.gangGo 6) (gangSt (gangY 1) .armed))).map (fun p => (p.1, p.2.go)) = some (.running, true) := by decide +kernel
theorem test_gangGoack : (gangOut (exec (.gangGoack 6 1) (gangSt { gangY 0 with go := true, goacks := [0] } .running))).map (fun p => p.2.allgo) = some true := by decide +kernel
theorem test_gangAllgo : (gangOut (exec (.gangAllgo 6) (gangSt { gangY 1 with go := true } .running))).map (fun p => p.2.allgo) = some true := by decide +kernel
theorem test_gangAbort : (gOut (exec (.gangAbort 6) (gangSt (gangY 1) .armed)) 1).isSome = false := by decide +kernel
theorem test_gangDone : (gangOut (exec (.gangDone 6 1) (gangSt { gangY 0 with nmem := 2, go := true, dones := [0] } .running))).map (fun p => p.2.dones) = some [1, 0]
    ∧ (gOut (exec (.gangDone 6 1) (gangSt { gangY 0 with go := true, dones := [0], done := true } .running)) 1).isSome = false := by decide +kernel
theorem test_gangdone : (gOut (exec (.gangdone 6) (gangSt { gangY 1 with done := true } .running)) 1).isSome = false := by decide +kernel
theorem test_gangTimeout : (gOut (exec (.gangTimeout 1) { gangSt (gangY 0) .armed with dtime := 4000 }) 1).isSome = false ∧ (gOut (exec (.gangTimeout 1) { gangSt (gangY 0) .armed with dtime := 3999 }) 1).isSome = true := by decide +kernel

/-! ## Registers, page zeroing and invalidations -/

def stOut {α : Type} (r : Host.Outcome State Fault Refusal) (f : State → α) : Option α := match r with | .next s => some (f s) | _ => none
theorem witness_regs : devReady (qSt fq) = true ∧ queue (qSt fq) 9 = fq ∧ fq.st = .free ∧ ctx (qSt fq) 1 = ctxOpen ∧ ctxOpen.st ≠ .free ∧ reachCtx (qSt fq) 0 1 = true ∧ (qSt fq).kernels = [] ∧ 0 < ccUsed (giSt []) := by decide +kernel
/-- The boundary values that the registers' rows name: SIZE 0, 4, 16 and 3, PCAP 1000 and 6000, a misaligned offset, an undefined command code. -/
theorem witness_regValues : ((0 : Word).toNat % 2 ^ 5 = 0 ∨ 4 ≤ (0 : Word).toNat % 2 ^ 5 ∧ (0 : Word).toNat % 2 ^ 5 ≤ 16) ∧ (4 ≤ (16 : Word).toNat % 2 ^ 5 ∧ (16 : Word).toNat % 2 ^ 5 ≤ 16) ∧ (1 : Word).getLsbD 0 = true ∧ (2 : Word).getLsbD 0 = false
    ∧ (1000 : Word).toNat % 2 ^ 13 = 1000 ∧ (6000 : Word).toNat % 2 ^ 13 = 6000 ∧ 0x54 % 8 ≠ 0 ∧ 5 ≤ (5 : Word).toNat % 16 := by decide
def zeroSt (r : Option (Nat × Nat)) : State := { wrNum devSt (dieKey 2 (5 * 65536)) 8 77 with rpcfg := [(2, BitVec.ofNat 28 (4 + 3 * 2 ^ 14))], rpzero := match r with | some p => [(2, p)] | none => [] }
theorem witness_rpzero : devReady (zeroSt none) = true ∧ Tab.get? (zeroSt none).rpzero 2 = none ∧ Tab.get (zeroSt none).rpcfg 2 0 = BitVec.ofNat 28 (4 + 3 * 2 ^ 14) ∧ (BitVec.ofNat 64 (5 + 2 * 2 ^ 14)).toNat % 2 ^ 14 = 5 ∧ (BitVec.ofNat 64 (5 + 2 * 2 ^ 14)).toNat / 2 ^ 14 % 2 ^ 14 = 2
    ∧ Tab.get? (zeroSt (some (5, 1))).rpzero 2 = some (5, 1) ∧ Memory.wf (zeroSt (some (5, 1))).mem = true := by decide +kernel
/-- A context whose PGIVA is the last page, with a range of n pages; at HBM 0 the leaf of VA 0x1_0000 is cached. -/
def invCtx (n : Nat) (l : List Inval) : Context := { ctxOpen with pgiva := 0x1FFFFFFFFFF0000, pgilen := BitVec.ofNat 32 n, invals := l }
def invSt (n : Nat) (l : List Inval) : State := { ctxSt (invCtx n l) with extents := [(0, [{ ctx := 1, base := 0x10000, size := 16, leaf := hbmLeaf }])] }
theorem witness_pgi : 1 < Config.objects ∧ reachCtx (invSt 2 []) 0 1 = true ∧ devReady (invSt 2 []) = true ∧ ∃ i, (ctx (invSt 0 [i]) 1).invals = i :: [] ∧ i.started = false ∧ i.pginv = none ∧ ∀ p ∈ (invSt 0 [i]).groups, p.2.ctx ≠ 1 :=
  ⟨by simp only [Config.objects]; decide, by decide +kernel, by decide +kernel, { va := 0x10000, n := 1, pginv := none, started := false }, by decide +kernel, rfl, rfl, by decide +kernel⟩
theorem test_registerWrite : stOut (exec (.registerWrite 0 0x0050 999) devSt) (·.pcap) = some 0x15E0 ∧ stOut (exec (.registerWrite 0 0x0050 1000) devSt) (·.pcap) = some 1000 := by decide +kernel
theorem test_registerWriteEv : stOut (exec (.registerWrite 3 0x2000 0x1007F) devSt) (fun s => (fnOf s 3).evbase) = some 0x10040 := by decide +kernel
theorem test_evstat : stOut (exec (.evstatWrite 0 1) { devSt with fns := [(0, { Fn.reset with ovf := true })] }) (fun s => (fnOf s 0).ovf) = some false := by decide +kernel
theorem test_rpzero : stOut (exec (.rpzero 0 2 (BitVec.ofNat 64 (5 + 2 * 2 ^ 14))) (zeroSt none)) (·.rpzero) = some [(2, (5, 2))] ∧ stOut (exec (.rpzero 0 2 (BitVec.ofNat 64 (5 + 3 * 2 ^ 14))) (zeroSt none)) (·.rpzero) = some [] := by decide +kernel
theorem test_rpzeroComplete : memOut (exec (.rpzeroComplete 2) (zeroSt (some (5, 1)))) (dieKey 2 (5 * 65536)) 8 = some 0 ∧ memOut (exec (.rpzeroComplete 2) (zeroSt (some (6, 1)))) (dieKey 2 (5 * 65536)) 8 = some 77 := by decide +kernel
/-- Two pages from the last one: the range ends at 2^57. -/
theorem test_pgicmd : stOut (exec (.pgicmdStart 0 1 1) (invSt 2 [])) (fun s => (ctx s 1).invals.map fun i => (i.va, i.n)) = some [(0x1FFFFFFFFFF0000, 1)] := by decide +kernel
theorem test_invalidation : stOut (exec (.invalidation 1) (invSt 0 [{ va := 0x10000, n := 1, pginv := none, started := false }])) (fun s => ((Tab.get s.extents 0 []).length, (ctx s 1).pgidone)) = some (0, 1)
    ∧ stOut (exec (.invalidation 1) (invSt 0 [{ va := 0x20000, n := 1, pginv := none, started := false }])) (fun s => ((Tab.get s.extents 0 []).length, (ctx s 1).pgidone)) = some (1, 1) := by decide +kernel

/-! ## Links -/

def lSt (l : Link) : State := { devSt with pkgid := 1, rtab := [(5, 1)], links := [(0, l)] }
def upL : Link := { Link.reset with st := .up, lanes := 0xFFFF, peer := 5, granted := [64, 64, 64] }
theorem settled_empty (s : State) (h : s.groups = []) (hb : s.barriers = []) : Settled s := by simp [Settled, h, hb]
theorem witness_link (l : Link) (h : l.holders = [] ∧ l.heldBy = false ∧ l.attestJob = none) : QuietLink (lSt l) 0 l :=
  ⟨rfl, by decide, rfl, h.1, h.2.1, h.2.2, by simp [lSt, devSt, readyPart, tabled, State.reset, wrNum, wrBytes], by simp [lSt, devSt, readyPart, tabled, State.reset, wrNum, wrBytes], (fun q hq => nomatch hq), settled_empty _ rfl rfl⟩
def trainL (at_ : Nat) : Link := { upL with st := .training, busy := true, trainStart := at_ }
/-- The link has just begun to train, or began 10 ms ago. -/
theorem witness_training : devSt.dtime ≤ (trainL 0).trainStart + 10000000 ∧ ({ devSt with dtime := 10000000 } : State).dtime = (trainL 0).trainStart + 10000000 ∧ fullGroup 3 = true ∧ fullGroup 6 = false := by decide
/-- Lanes 0 and 1 are one lane group; the packet channel has lanes 12 to 15. -/
theorem witness_lanes : linkCounts upL = true ∧ upL.lanes.getLsbD 0 = true ∧ upL.lanes.getLsbD (0 ^^^ 1) = true ∧ (∃ g < 8, upL.packetGroups.getLsbD g = true ∧ (upL.lanes.getLsbD (2 * g) && upL.lanes.getLsbD (2 * g + 1)) = true)
    ∧ ({ upL with lanes := 0x8000 } : Link).lanes &&& ~~~(1#16 <<< 15) = 0 ∧ ({ upL with lanes := 0x8000 } : Link).lanes.getLsbD 15 = true := by
  refine ⟨by decide, by decide, by decide, ⟨6, by decide, by decide, by decide⟩, by decide, by decide⟩
def fq0 : FlitSeq := { txSeq := 5, rxSeq := 9, replay := [(3, 8)], nakOwed := false }
def flL : Link := { upL with seqs := [(0, fq0)] }
def fl (crc : Bool) (seq : BitVec 12) (tag : Bool) : FlitIn := { crcOk := crc, ack := 3, seq := seq, ftype := 0, nak := false, resv := 0, tagOk := tag, data := [] }
theorem witness_flit : seqOfLink flL 0 = fq0 ∧ (∃ q ∈ flL.seqs, ∃ f ∈ q.2.replay, 8 ≤ f.2) ∧ (∀ r ∈ fq0.replay, ((fl true 9 true).ack - BitVec.ofNat 12 r.1).toNat < 2048) ∧ (flL.accepted + 1) % 1024 ≠ 0 ∧ ({ flL with st := .trusted } : Link).st = .trusted ∧ devSt.wave = none
    ∧ linkCounts { flL with st := .trusted } = true := by
  refine ⟨by decide, ⟨(0, fq0), by simp [flL], (3, 8), by simp [fq0], by decide⟩, by decide, by decide, rfl, rfl, by decide⟩
theorem witness_hostLink : (link (lSt upL) 36).st ≠ .failed ∧ (lSt upL).pcie = [] ∧ (link (lSt upL) 36).st ≠ .up := by decide +kernel
def lOut (r : Host.Outcome State Fault Refusal) : Option (LinkSt × Bool × Nat) := stOut r fun s => let l := link s 0; (l.st, l.busy, l.err.toNat)
theorem test_lcmdEnable : lOut (exec (.lcmdEnable 0 0 1) (lSt Link.reset)) = some (.training, true, 0) ∧ lOut (exec (.lcmdEnable 0 0 1) (lSt upL)) = some (.up, false, 2) := by decide +kernel
theorem test_lcmdDisable : lOut (exec (.lcmdDisable 0 0 2) (lSt upL)) = some (.down, false, 0) ∧ lOut (exec (.lcmdDisable 0 0 0x12) (lSt upL)) = some (.up, false, 1) := by decide +kernel
theorem test_lcmdRetrain : lOut (exec (.lcmdRetrain 0 0 3) (lSt { upL with st := .failed })) = some (.training, true, 0) ∧ lOut (exec (.lcmdRetrain 0 0 3) (lSt Link.reset)) = some (.down, false, 2) := by decide +kernel
theorem test_trained : lOut (exec (.linkTrained 0 3 false 5 none) (lSt (trainL 0))) = some (.up, false, 0) ∧ lOut (exec (.linkTrained 0 6 false 5 none) (lSt (trainL 0))) = some (.training, true, 0) := by decide +kernel
theorem test_trainingTimeout : lOut (exec (.trainingTimeout 0) { lSt (trainL 0) with dtime := 10000000 }) = some (.down, false, 8) ∧ lOut (exec (.trainingTimeout 0) { lSt (trainL 0) with dtime := 9999999 }) = some (.training, true, 0) := by decide +kernel
theorem test_laneFail : stOut (exec (.laneFail 0 0) (lSt upL)) (fun s => ((link s 0).lanes, (link s 0).st)) = some (0xFFFE, .up) ∧ stOut (exec (.laneFail 0 15) (lSt { upL with lanes := 0x8000 })) (fun s => (link s 0).st) = some .failed := by decide +kernel
theorem test_replayLimit : stOut (exec (.replayLimit 0) (lSt flL)) (fun s => (link s 0).st) = some .failed := by decide +kernel
theorem test_lreplay : stOut (exec (.lreplayRead 0 0) (lSt { upL with replayed := 3, crcFail := 4, resyncs := 5 })) (fun s => ((link s 0).replayed, (link s 0).crcFail, (link s 0).resyncs)) = some (0, 0, 5) := by decide +kernel
theorem test_lresync : stOut (exec (.lresyncRead 0 0) (lSt { upL with resyncs := 5 })) (fun s => (link s 0).resyncs) = some 0 := by decide +kernel
/-- R390: a flit in order is taken; one out of order is answered with NAK and the last SEQ accepted, 8; a failed CRC is counted. -/
theorem test_flit : stOut (exec (.flit 0 0 (fl true 9 true)) (lSt flL)) (fun s => let q := seqOfLink (link s 0) 0; (q.rxSeq, q.nakOwed, q.replay)) = some (10, false, [])
    ∧ stOut (exec (.flit 0 0 (fl true 10 true)) (lSt flL)) (fun s => ((seqOfLink (link s 0) 0).nakOwed, s.outbox.map fun p => (p.2.1, p.2.2.flag.toNat))) = some (true, [(34, 8)]) ∧ stOut (exec (.flit 0 0 (fl false 9 true)) (lSt flL)) (fun s => (link s 0).crcFail) = some 1 := by decide +kernel
theorem test_creditFlit : stOut (exec (.creditFlit 0 63 65 64) (lSt upL)) (fun s => (link s 0).granted) = some [64, 65, 64] := by decide +kernel
theorem test_resyncFlit : stOut (exec (.resyncFlit 0 70 64 64 2 0 0) (lSt upL)) (fun s => ((link s 0).granted, (link s 0).sent, s.outbox.map (·.2.1))) = some ([70, 64, 64], [2, 0, 0], [32]) := by decide +kernel
theorem test_hostLinkFail : stOut (exec .hostLinkFail (hostSt (.write [] (0, 0) none))) (fun s => ((link s 36).st, s.pcie.length)) = some (.failed, 0) := by decide +kernel
theorem test_hostLinkUp : stOut (exec .hostLinkUp devSt) (fun s => (link s 36).st) = some .up := by decide +kernel

/-! ## Packets -/

/-- Package 5 asks context 1 (ASID 7, JOBID 6) of this package. -/
def pk (va : BitVec 57) (flag : BitVec 21) (data : List Byte) : Packet := { src := 5, dst := 1, hasid := 7, tag := 3, va := va, jobid := 6, flag := flag, data := data, nonce := 9 }
def jobCtx : Context := { ctxOpen with ctxjob := 0x100000006 }
/-- Leaf flags of a page that peers may read, write and use atomically. -/
def pkSt : State := { lSt upL with contexts := [(1, jobCtx)] }
theorem witness_packet (p : Packet) (h : p.dst = 1 ∧ p.resv = 0 ∧ p.tagOk = true) : PacketGo pkSt 0 p ∧ Sound pkSt := ⟨⟨rfl, by decide, rfl, h.1, h.2.1, h.2.2, by intro x hx; simp [pkSt, lSt, devSt, readyPart, tabled, State.reset, wrNum, wrBytes, Tab.get] at hx⟩, ⟨rfl, rfl⟩⟩
theorem place_of (s : State) (h j va : Nat) (n : Need) (r : Option Place) (e : (homePlace s h j va n).2 = r) : ∃ s2, homePlace s h j va n = (s2, r) := ⟨_, Prod.ext rfl e⟩
def rdPk : Packet := pk 0x10008 8 []
theorem witness_read : rdPk.flag.toNat = 8 ∧ rdPk.va.toNat % 65536 + 8 ≤ 65536 ∧ homeHeld pkSt 7 0x10008 = false ∧ (∃ s2, homePlace (taken pkSt 0 0 rdPk) 7 6 0x10008 .read = (s2, some (.store (hbmKey 0x50008)))) ∧ RoomFor pkSt 0 rdPk 8
    ∧ RoomFor pkSt 0 (pk 0x20008 8 []) 0 ∧ ((pk 0x20008 993 []).flag.toNat = 0 ∨ 992 < (pk 0x20008 993 []).flag.toNat) ∧ ∃ s2, homePlace (taken pkSt 0 0 (pk 0x20008 8 [])) 7 6 0x20008 .read = (s2, none) :=
  ⟨by decide, by decide, by decide +kernel, place_of _ _ _ _ _ _ (by decide +kernel), by simp only [RoomFor]; decide +kernel, by simp only [RoomFor]; decide +kernel, by decide, place_of _ _ _ _ _ _ (by decide +kernel)⟩
def wrPk (va : BitVec 57) : Packet := pk va 0 [1, 2, 3, 4]
/-- The four bytes end with the page. -/
theorem witness_write : (wrPk 0x1FFFC).dst ≠ 0xFFF ∧ (wrPk 0x1FFFC).va.toNat % 65536 + (wrPk 0x1FFFC).data.length ≤ 65536 ∧ homeHeld pkSt 7 0x1FFFC = false
    ∧ (∃ s2, homePlace (taken pkSt 0 2 (wrPk 0x1FFFC)) 7 6 0x1FFFC .write = (s2, some (.store (hbmKey 0x5FFFC)))) ∧ ∃ s2, homePlace (taken pkSt 0 2 (wrPk 0x20000)) 7 6 0x20000 .write = (s2, none) :=
  ⟨by decide, by decide, by decide +kernel, place_of _ _ _ _ _ _ (by decide +kernel), place_of _ _ _ _ _ _ (by decide +kernel)⟩
def atPk : Packet := pk 0x10008 (BitVec.ofNat 21 (AtomOp.code .add * 16 + Ty.code .n32)) (bytesOf 8 5 ++ bytesOf 8 0)
theorem witness_atomic : atPk.flag.toNat = AtomOp.code .add * 16 + Ty.code .n32 ∧ atomicTy .add .n32 ∧ atPk.va.toNat % (Ty.width .n32 / 8) = 0 ∧ homeHeld pkSt 7 0x10008 = false
    ∧ (∃ s2, homePlace (taken pkSt 0 4 atPk) 7 6 0x10008 .atomic = (s2, some (.store (hbmKey 0x50008)))) ∧ RoomFor pkSt 0 atPk (Ty.width .n32 / 8) :=
  ⟨by decide, by simp only [atomicTy]; decide, by decide, by decide +kernel, place_of _ _ _ _ _ _ (by decide +kernel), by simp only [RoomFor]; decide +kernel⟩
/-- An MTINV at tile 0 of graph 0 of a group of context 1, and a page of that tile. -/
def invG : Group := { runG with image := { Image.empty with threads := [(0, haltedT)], graphs := [(0, oneGraph 0 { emptyTile with mt := some { fn := some (freshMtFn 0x28C), ag0 := none, ag1 := none } })] } }
def invkSt : State := tabled syncLeaf { pkSt with groups := [(1, invG)] }
def invPk : Packet := pk 0x10008 0 (bytesOf 8 9)
theorem pair_of {α β : Type} (x : α × β) (b : β) (e : x.2 = b) : ∃ a, x = (a, b) := ⟨_, Prod.ext rfl e⟩
theorem witness_invocation : homeCtx invkSt 7 = some 1 ∧ invalBlocks invkSt 1 0x10008 = false ∧ (ctx invkSt 1).ctxjob.toNat = 2 ^ 32 + 6 ∧ entryKind syncLeaf = 2
    ∧ (homeTranslate (taken invkSt 0 6 invPk) 1 0x10008).2.toOption = some (syncLeaf, 16) ∧ invTarget (homeTranslate (taken invkSt 0 6 invPk) 1 0x10008).1 1 (syncLeaf.toNat / 2 ^ 16 % 2 ^ 18) = some (1, 0) := by decide +kernel
def rq (ptype : Nat) (d : Dest) : Req := { tag := 3, ptype := ptype, home := 5, pkt := pk 0x20000 1 [], sent := 0, link := 0, dest := d }
def rqSt (r : Req) : State := { pkSt with reqs := [r], dtime := 1000000 }
theorem witness_response : (∀ t, (rqSt (rq t (.store (0, 0) none))).reqs.find? (fun r => decide (r.tag = 3) && decide (r.ptype = t) && decide (r.home = 5)) = some (rq t (.store (0, 0) none))) ∧ (pk 0 1 []).flag.getLsbD 0 = true ∧ (pk 0 2 []).flag.getLsbD 1 = true
    ∧ (pk 0 0 []).flag.getLsbD 0 = false ∧ (pk 0 0 []).flag.getLsbD 1 = false := ⟨by intro t; simp [rqSt, rq], by decide, by decide, by decide, by decide⟩
theorem witness_multicastAck : ∃ r, (rqSt { rq 2 (.multicast 0 0 192) with home := 0xFFF }).reqs.find? (fun r => decide (r.tag = 3) && decide (r.home = 0xFFF)) = some r ∧ r.dest = .multicast 0 0 192 ∧ 192 % 128 = 64 := ⟨_, rfl, rfl, rfl⟩
theorem witness_reqTimeout : ∃ r, (rqSt (rq 0 (.store (0, 0) none))).reqs.find? (fun r => decide (r.tag = (3 : BitVec 20).toNat)) = some r ∧ r.ptype ≠ 8 ∧ r.sent + 1000000 ≤ (rqSt (rq 0 (.store (0, 0) none))).dtime ∧ ∀ g th j, r.dest = .multicast g th j → j % 128 ≠ 64 :=
  ⟨_, rfl, by decide, by decide, by intro g th j h; cases h⟩
/-- A stream of three 8-byte writes from VA 0x1_0000, on lane group 5. -/
def cirFrame : Frame := agFrameBits 0x280 { stride3 := 0, stride2 := 0, stride1 := 0, cnt3 := 0, cnt2 := 0, cnt1 := 0, cnt0 := 2, spc := .gm, ndim := 0, ty := .n64, irel := false, wr := true, base := 0x10000 }
def cirPk (lg : Nat) : Packet := pk 0 0 (bytesOf 32 cirFrame.toNat ++ List.replicate 32 0 ++ bytesOf 8 lg)
theorem witness_setup : (cirPk 5).flag = 0 ∧ natOfBytes (((cirPk 5).data.drop 64).take 8) < 6 ∧ pkSt.hcircs = [] ∧ (agFrameOf (BitVec.ofNat 256 (natOfBytes ((cirPk 5).data.take 32)))).wr = true
    ∧ 8 ≤ Ty.width (agFrameOf (BitVec.ofNat 256 (natOfBytes ((cirPk 5).data.take 32)))).ty := by decide +kernel
def cir : HomeCirc := { link := 0, lg := 5, frame := cirFrame, src := 5, hasid := 7, jobid := 6, tag := 3, i := [1, 0, 0, 0], count := 1, buf := [], ended := false, bad := false }
def cirSt : State := { pkSt with hcircs := [cir] }
theorem witness_release : cirSt.hcircs.find? (fun c => decide (c.link = 0) && decide (c.src = (5 : BitVec 12).toNat) && decide (c.tag = (3 : BitVec 20).toNat)) = some cir ∧ RoomFor cirSt 0 (pk 0 2 []) 8 := ⟨rfl, by simp only [RoomFor]; decide +kernel⟩
def stepPk (kind idx : Nat) (w : List Nat) : Packet := pk 3 0 (bytesOf 8 (2 + 1 * 2 ^ 32 + kind * 2 ^ 40) ++ bytesOf 8 idx ++ w.flatMap (bytesOf 8))
theorem witness_step : stepKind (stepPk 0 0 [6]) < 3 ∧ stepKind (stepPk 2 7 []) = 2 ∧ stepKind (stepPk 3 0 [8]) = 3 ∧ stepKind (stepPk 4 0x105 []) = 4 := by decide +kernel

def pkOut (r : Host.Outcome State Fault Refusal) : Option (List (Nat × Nat × List Byte)) := stOut r fun s => (s.outbox.filter fun p => decide (p.2.1 < 32)).map fun p => (p.2.1, p.2.2.flag.toNat, p.2.2.data)
theorem test_readRequest : pkOut (exec (.readRequest 0 rdPk) (wrNum pkSt (hbmKey 0x50008) 8 0x0102)) = some [(1, 0, [2, 1, 0, 0, 0, 0, 0, 0])] ∧ pkOut (exec (.readRequest 0 (pk 0x20008 8 [])) pkSt) = some [(1, 1, [])] := by decide +kernel
theorem test_writeRequest : memOut (exec (.writeRequest 0 (wrPk 0x1FFFC)) pkSt) (hbmKey 0x5FFFC) 4 = some 0x4030201 ∧ pkOut (exec (.writeRequest 0 (wrPk 0x20000)) pkSt) = some [(3, 1, [])] := by decide +kernel
theorem test_atomicRequest : memOut (exec (.atomicRequest 0 atPk) (wrNum pkSt (hbmKey 0x50008) 4 (2 ^ 32 - 1))) (hbmKey 0x50008) 8 = some 4 ∧ pkOut (exec (.atomicRequest 0 atPk) (wrNum pkSt (hbmKey 0x50008) 4 7)) = some [(5, 0, [7, 0, 0, 0])] := by decide +kernel
theorem test_invocation : stOut (exec (.invocation 0 invPk) invkSt) (fun s => (mt? s 1 0 0).bind fun m => m.fn.map fun f => f.waiting.map (·.2)) = some (some [9]) ∧ pkOut (exec (.invocation 0 (pk 0x10008 0 [])) pkSt) = some [(7, 2, [])] := by decide +kernel
theorem test_readResponse : stOut (exec (.readResponse 0 (pk 0 0 [7])) (rqSt (rq 0 (.store (0, 0) none)))) (·.reqs.length) = some 0 := by decide +kernel
theorem test_writeAck : stOut (exec (.writeAcknowledgement 0 (pk 0 0 [])) (rqSt (rq 2 (.store (0, 0) none)))) (·.reqs.length) = some 0 ∧ stOut (exec (.writeAcknowledgement 0 (pk 0 0 [])) (rqSt (rq 0 (.store (0, 0) none)))) (·.reqs.length) = some 1 := by decide +kernel
theorem test_atomicResponse : stOut (exec (.atomicResponse 0 (pk 0 0 [7])) (rqSt (rq 4 (.store (0, 0) none)))) (·.reqs.length) = some 0 := by decide +kernel
theorem test_invocationResult : stOut (exec (.invocationResult 0 (pk 0 1 [])) (rqSt (rq 6 (.store (0, 0) none)))) (·.reqs.length) = some 0 := by decide +kernel
theorem test_multicastAck : stOut (exec (.multicastAcknowledgement 0 (pk 0 0 (bytesOf 8 1))) (rqSt { rq 2 (.multicast 0 0 64) with home := 0xFFF })) (·.reqs.length) = some 0 := by decide +kernel
theorem test_reqTimeout : stOut (exec (.requestTimeout 3) (rqSt (rq 0 (.store (0, 0) none)))) (·.reqs.length) = some 0 ∧ stOut (exec (.requestTimeout 3) { rqSt (rq 0 (.store (0, 0) none)) with dtime := 999999 }) (·.reqs.length) = some 1 := by decide +kernel
theorem test_circuitSetup : stOut (exec (.circuitSetup 0 (cirPk 5)) pkSt) (fun s => s.hcircs.map (·.lg)) = some [5] ∧ pkOut (exec (.circuitSetup 0 (cirPk 6)) pkSt) = some [(8, 3, bytesOf 8 0)] := by decide +kernel
theorem test_circuitRelease : pkOut (exec (.circuitSetup 0 (pk 0 2 [])) cirSt) = some [(8, 1, bytesOf 8 1)] := by decide +kernel
theorem test_circuitCompletion : stOut (exec (.circuitCompletion 0 (pk 0 1 (bytesOf 8 3))) (rqSt (rq 8 (.store (0, 0) none)))) (·.reqs.length) = some 0 := by decide +kernel
/-- R391: a read request of one flit, with its nonce and tag, is granted again at once. -/
theorem test_credit : stOut (exec (.readRequest 0 rdPk) pkSt) (fun s => (s.outbox.map (·.2.1), (link s 0).rgranted)) = some ([33, 1], [1, 0, 0]) := by decide +kernel
/-- Rank 1's head, of number 2 at COMMID 3. -/
theorem test_step : stOut (exec (.collectiveStep 0 (stepPk 0 0 [6])) pkSt) (fun s => s.meetings.map fun m => (m.commid, m.num, m.heads)) = some [(3, 2, [(1, [6])])] := by decide +kernel
theorem test_planRequest : stOut (exec (.planRequest 0 (stepPk 3 0 [8])) pkSt) (fun s => s.meetings.map (·.reqs)) = some [[(1, [8])]] := by decide +kernel
theorem test_plan : stOut (exec (.plan 0 (stepPk 4 0x105 [])) pkSt) (fun s => s.meetings.map (·.plan)) = some [some 0x105] := by decide +kernel

/-! ## Trust domains -/

def jx (st : JobSt) : Job := { Job.reset with st := st, jobid := 44, key := some 1, entries := [(0xAB, false, false)] }
def jSt (x : Job) (l : Link) : State := { lSt l with jobs := [(2, x)] }
def jv (code link : Nat) : Word := BitVec.ofNat 64 (code + link * 2 ^ 8)
theorem witness_job : JobCmdOk (jSt (jx .opened) upL) 2 (jx .opened) (jv 4 0) 4 false ∧ JobCmdOk (jSt { jx .free with jobid := 0 } upL) 2 { jx .free with jobid := 0 } (jv 1 0) 1 false ∧ JobCmdOk (jSt (jx .opened) upL) 2 (jx .opened) (jv 2 0) 2 true
    ∧ JobCmdOk (jSt (jx .opened) upL) 2 (jx .opened) (jv 3 35) 3 true := by
  refine ⟨?_, ?_, ?_, ?_⟩ <;> (simp only [JobCmdOk]; decide +kernel)
def attL : Link := { upL with st := .attesting, attestJob := some 2, peersw := true }
theorem witness_attest : AttestAt (jSt (jx .opened) attL) 0 2 attL ∧ attL.ownKeys = false ∧ (jx .opened).entries.find? (fun e => decide (e.1 = 0xAC) && e.2.1 == attL.peersw) = none
    ∧ (∃ e, (jx .opened).entries.find? (fun e => decide (e.1 = 0xAB) && e.2.1 == ({ attL with peersw := false, peerKeys := true } : Link).peersw) = some e) ∧ attL.attestStart + 200000000 ≤ ({ jSt (jx .opened) attL with dtime := 200000000 } : State).dtime
    ∧ AttestAt (jSt (jx .opened) { attL with peersw := false, ownKeys := true }) 0 2 { attL with peersw := false, ownKeys := true } :=
  ⟨⟨by decide +kernel, by decide, by decide +kernel, rfl, rfl⟩, rfl, by decide +kernel, ⟨(0xAB, false, false), by decide +kernel⟩, by decide, ⟨by decide +kernel, by decide, by decide +kernel, rfl, rfl⟩⟩
def heldL : Link := { upL with st := .trusted, heldBy := true, jobSlot := 2, ownKeys := true, peerKeys := true }
theorem witness_revoke : heldL.heldBy = true ∧ heldL.jobSlot = 2 ∧ upL.heldBy = false ∧ (jSt (jx .opened) { heldL with revoking := true }).hcircs = [] ∧ linkBusy (jSt (jx .opened) { heldL with revoking := true }) 0 = false
    ∧ job (jSt (jx .opened) { heldL with revoking := true }) heldL.jobSlot = jx .opened ∧ (jSt (jx .opened) heldL).groups = [] := by decide +kernel
theorem witness_close : (∃ p ∈ ({ jSt (jx .opened) upL with contexts := [(1, { ctxOpen with ctxjob := BitVec.ofNat 33 (2 ^ 32 + 44) })] } : State).contexts, p.2.st ≠ .free ∧ p.2.ctxjob.toNat = 2 ^ 32 + (jx .opened).jobid.toNat)
    ∧ (∀ p ∈ (jSt (jx .opened) upL).contexts, p.2.st = .free ∨ p.2.ctxjob.toNat ≠ 2 ^ 32 + (jx .opened).jobid.toNat) ∧ ∀ p ∈ (jSt (jx .opened) upL).links, p.2.heldBy = false ∨ p.2.jobSlot ≠ 2 :=
  ⟨⟨(1, { ctxOpen with ctxjob := BitVec.ofNat 33 (2 ^ 32 + 44) }), List.mem_cons_self .., by decide, by decide⟩, by decide +kernel, by decide +kernel⟩
def jOut (r : Host.Outcome State Fault Refusal) : Option (JobSt × Bool × Nat × LinkSt) := stOut r fun s => let x := job s 2; (x.st, x.busy, x.err.toNat, (link s 0).st)
theorem test_jcmdOpen : jOut (exec (.jcmdOpen 0 2 (jv 1 0)) (jSt { jx .free with jobid := 0 } upL)) = some (.free, false, 3, .up) ∧ jOut (exec (.jcmdOpen 0 2 (jv 1 0)) (jSt (jx .opened) upL)) = some (.opened, false, 2, .up) := by decide +kernel
theorem test_jcmdAttest : jOut (exec (.jcmdAttest 0 2 (jv 2 0)) (jSt (jx .opened) upL)) = some (.opened, true, 0, .attesting) ∧ jOut (exec (.jcmdAttest 0 2 (jv 2 36)) (jSt (jx .opened) upL)) = some (.opened, false, 1, .up) := by decide +kernel
theorem test_spdm : jOut (exec (.spdmResponse 0 true 0xAB) (jSt (jx .opened) { attL with peersw := false, peerKeys := true })) = some (.opened, false, 0, .trusted) ∧ jOut (exec (.spdmResponse 0 true 0xAB) (jSt (jx .opened) attL)) = some (.opened, false, 9, .up) := by decide +kernel
theorem test_spdmTimeout : jOut (exec (.spdmTimeout 0) { jSt (jx .opened) attL with dtime := 200000000 }) = some (.opened, false, 6, .up) ∧ jOut (exec (.spdmTimeout 0) { jSt (jx .opened) attL with dtime := 199999999 }) = some (.opened, false, 0, .attesting) := by decide +kernel
theorem test_peerAttestation : jOut (exec (.peerAttestationRequest 0 true true) (jSt (jx .opened) { attL with peersw := false, ownKeys := true })) = some (.opened, false, 0, .trusted) := by decide +kernel
theorem test_jcmdRevoke : stOut (exec (.jcmdRevoke 0 2 (jv 3 0)) (jSt (jx .opened) heldL)) (fun s => (link s 0).revoking) = some true ∧ jOut (exec (.jcmdRevoke 0 2 (jv 3 0)) (jSt (jx .opened) upL)) = some (.opened, false, 10, .up) := by decide +kernel
theorem test_revokeComplete : jOut (exec (.revokeComplete 0) (jSt { jx .opened with busy := true } { heldL with revoking := true })) = some (.opened, false, 0, .training) := by decide +kernel
theorem test_jcmdClose : jOut (exec (.jcmdClose 0 2 (jv 4 0)) (jSt (jx .opened) upL)) = some (.free, false, 0, .up) ∧ jOut (exec (.jcmdClose 0 2 (jv 4 0)) (jSt (jx .opened) heldL)) = some (.closing, true, 0, .trusted) := by decide +kernel
theorem test_spdmRequest : stOut (exec (.spdmRequest true [3, 64]) devSt) (fun s => ((fnOf s 3).ide, (fnOf s 0).ide)) = some (true, false) := by decide +kernel

/-! ## Debug units, the freeze wave, the capsule -/

/-- Unit 5 names group 1 of context 1. -/
def dU (st : DbgSt) : Dbg := { Dbg.reset with st := st, grp := BitVec.ofNat 64 (1 + 1 * 2 ^ 16) }
def dSt (d : Dbg) (x : Group) (cons : BitVec 32) : State := modCtx { gSt [(1, x)] with dbgs := [(5, d)] } 1 fun c => { c with dbgcons := cons }
def stoppedG : Group := { runG with state := .stopped }
theorem witness_dbg (st : DbgSt) (v : Word) : UnitCmdOk (dSt (dU st) runG 2) 5 (dU st) v v.toNat := ⟨rfl, by decide, rfl, rfl⟩
theorem witness_dbgAttach : ∃ x, grp? (dSt (dU .free) runG 2) ((dU .free).grp.toNat % 2 ^ 16) = some x ∧ x.ctx = (dU .free).grp.toNat / 2 ^ 16 % 2 ^ 12 ∧ x.ending = none ∧ x.state ≠ .admitted ∧ (ctx (dSt (dU .free) runG 2) x.ctx).conf = false
    ∧ (ctx (dSt (dU .free) runG 2) x.ctx).dbgcons.getLsbD 1 = true ∧ (∀ p ∈ (dSt (dU .free) runG 2).dbgs, p.2.st = .free ∨ p.2.grp.toNat % 2 ^ 16 ≠ (dU .free).grp.toNat % 2 ^ 16) ∧ (ctx (dSt (dU .free) runG 0) x.ctx).dbgcons.getLsbD 1 = false :=
  ⟨runG, rfl, by decide, rfl, by decide, by decide +kernel, by decide +kernel, by decide +kernel, by decide +kernel⟩
theorem witness_dbgStopped : ∃ x, grp? (dSt (dU .stopped) stoppedG 2) ((dU .stopped).grp.toNat % 2 ^ 16) = some x ∧ x.state = .stopped ∧ x.gang = none ∧ (ctx (dSt (dU .stopped) stoppedG 2) x.ctx).st ≠ .switching ∧ Tab.get? (dSt (dU .stopped) stoppedG 2).dbgs 5 = some (dU .stopped)
    ∧ Sound (dSt (dU .stopped) stoppedG 2) ∧ grp? ({ dSt (dU .stopped) stoppedG 2 with groups := [] } : State) 1 = none := ⟨stoppedG, rfl, rfl, rfl, by decide +kernel, rfl, ⟨rfl, rfl⟩, rfl⟩
theorem witness_dbgStop : ∃ x, grp? (dSt (dU .attached) runG 2) ((dU .attached).grp.toNat % 2 ^ 16) = some x ∧ x.gang = none ∧ x.cutWhy = none ∧ x.state ≠ .saved := ⟨runG, rfl, rfl, rfl, by decide⟩
/-- DBGSEL: unified pad of rank 0 at offset 8; rank 1 of a group of one cluster; a register of thread 3. -/
theorem witness_dbgRead : (∃ n, dbgRead (dSt (dU .stopped) stoppedG 2) 1 stoppedG (8 : Word) = (some n, false)) ∧ dbgRead (dSt (dU .stopped) stoppedG 2) 1 stoppedG (BitVec.ofNat 64 (2 ^ 49)) = (none, false)
    ∧ (8 : Word).toNat = 8 + 0 * 2 ^ 49 ∧ 0 < stoppedG.ncl ∧ ∃ k, padKey stoppedG .up (physCluster stoppedG 0) 8 8 = some k := ⟨⟨0, by decide +kernel⟩, by decide +kernel, by decide, by decide, ⟨_, rfl⟩⟩
def dOut (r : Host.Outcome State Fault Refusal) : Option (DbgSt × Nat × Nat) := stOut r fun s => let d := dbg s 5; (d.st, d.err.toNat, d.data.toNat)
theorem test_dbgAttach : dOut (exec (.dbgcmdAttach 0 5 1) (dSt (dU .free) runG 2)) = some (.attached, 0, 0) ∧ dOut (exec (.dbgcmdAttach 0 5 1) (dSt (dU .free) runG 0)) = some (.free, 5, 0) := by decide +kernel
theorem test_dbgDetach : dOut (exec (.dbgcmdDetach 0 5 2) (dSt (dU .stopped) stoppedG 2)) = some (.free, 0, 0) ∧ (gOut (exec (.dbgcmdDetach 0 5 2) (dSt (dU .stopped) stoppedG 2)) 1).map (·.state) = some .running := by decide +kernel
theorem test_dbgStop : dOut (exec (.dbgcmdStop 0 5 3) (dSt (dU .attached) runG 2)) = some (.stopping, 0, 0) ∧ (gOut (exec (.dbgcmdStop 0 5 3) (dSt (dU .attached) runG 2)) 1).map (·.cutWhy) = some (some .debug) := by decide +kernel
theorem test_dbgResume : dOut (exec (.dbgcmdResume 0 5 4) (dSt (dU .stopped) stoppedG 2)) = some (.attached, 0, 0) ∧ (gOut (exec (.dbgcmdResume 0 5 4) (dSt (dU .stopped) stoppedG 2)) 1).map (·.state) = some .running := by decide +kernel
theorem test_dbgRead : dOut (exec (.dbgcmdRead 0 5 5) (wrNum (dSt { dU .stopped with sel := 8 } stoppedG 2) (upKey 0 8) 8 77)) = some (.stopped, 0, 77) ∧ dOut (exec (.dbgcmdRead 0 5 5) (dSt { dU .stopped with sel := BitVec.ofNat 64 (2 ^ 49), data := 9 } stoppedG 2)) = some (.stopped, 8, 0) := by
  decide +kernel
theorem witness_fatal : coreUp devSt = true ∧ devSt.wave = none ∧ devSt.present.getLsbD 0 = true := by decide +kernel
def waveSt (todo : List Nat) (c : Capsule) : State := { devSt with wave := some { code := 0x43, origin := none, work := 0, time := 5, todo := todo, next := 0, hub := false }, capsule := c, fatal := 0x43 }
theorem witness_wave : (∃ w, (waveSt [0] Capsule.empty).wave = some w ∧ w.todo = 0 :: []) ∧ (∃ w, (waveSt [288, 0] Capsule.empty).wave = some w ∧ w.todo = 288 :: [0]) ∧ (waveSt [0] Capsule.empty).power = true ∧ (cluster (waveSt [0] Capsule.empty) 0).frozen = none
    ∧ Capsule.empty.resetPending = false ∧ Capsule.empty.held = false := ⟨⟨_, rfl, rfl⟩, ⟨_, rfl, rfl⟩, rfl, by decide +kernel, rfl, rfl⟩
def sealSt (reset : Bool) : State := { waveSt [] { Capsule.empty with sealing := true, cseq := 8, resetPending := reset } with dev := .frozen }
theorem witness_seal : (sealSt true).power = true ∧ (∃ w, (sealSt true).wave = some w ∧ w.todo = []) ∧ (sealSt true).capsule.sealing = true ∧ (sealSt true).capsule.resetPending = true ∧ (sealSt false).capsule.resetPending = false := ⟨rfl, ⟨_, rfl, rfl⟩, rfl, rfl, rfl⟩
def capSt (held : Bool) (x : Fn) : State := { devSt with capsule := { Capsule.empty with held := held, cseq := 8 }, fns := [(0, x)] }
def capFn (len : BitVec 32) : Fn := { Fn.reset with caplen := len, capbuf := 0x100000 }
def exportV : Word := BitVec.ofNat 64 (1 + 3 * 2 ^ 4 + 1 * 2 ^ 16)
theorem witness_cap : (capSt true (capFn 113335296)).power = true ∧ fnOf (capSt true (capFn 113335296)) 0 = capFn 113335296 ∧ exportV.toNat = 1 + 3 * 2 ^ 4 + boolBit true * 2 ^ 16 ∧ (capFn 113335295).caplen.toNat < 113335296 ∧ 113335296 ≤ (capFn 113335296).caplen.toNat
    ∧ (BitVec.ofNat 64 (2 + 8 * 2 ^ 32)).toNat = 2 + (capSt true (capFn 0)).capsule.cseq.toNat * 2 ^ 32
    ∧ ({ capFn 113335296 with exportWhat := some (true, 3, 0x100000) } : Fn).exportWhat = some (true, 3, 0x100000) ∧ 0x100000 < 2 ^ 40 := by decide +kernel
def flipV (sp : Nat) : Word := BitVec.ofNat 64 (1 + 0 * 2 ^ 4 + sp * 2 ^ 13)
def flipSt (off : Nat) (bad : List Nat) : State := { devSt with einjoff := BitVec.ofNat 64 off, poison := bad }
theorem witness_flip : (flipV 2).toNat = 1 + 0 * 2 ^ 4 + 2 * 2 ^ 13 ∧ (flipSt (2 ^ 23 - 8) []).einjoff.toNat < 2 ^ 23 ∧ (flipSt 16 []).present.getLsbD 0 = true ∧ (flipSt 16 []).groups = [] ∧ upKey 0 16 / 8 ∉ (flipSt 16 []).poison ∧ upKey 0 16 / 8 ∈ (flipSt 16 [upKey 0 16 / 8]).poison := by decide +kernel
theorem test_wdog : stOut (exec .secWdog devSt) (fun s => (s.fatal, s.wave.map (·.origin))) = some (0x43, some none) := by decide +kernel
theorem test_violation : stOut (exec (.securityViolation 0 7) devSt) (fun s => (s.fatal, s.wave.map (·.origin))) = some (0x42, some (some 0)) := by decide +kernel
theorem test_freezeWave : stOut (exec (.freezeWave 0 3) (waveSt [0] Capsule.empty)) (fun s => (s.dev, s.capsule.sealing, (cluster s 0).frozen)) = some (.frozen, true, some (0, 3))
    ∧ stOut (exec (.freezeWave 288 0) (waveSt [288, 0] Capsule.empty)) (fun s => (s.dev, s.wave.map (·.todo))) = some (.ready, some [0]) := by decide +kernel
theorem test_seal : stOut (exec .capsuleSeal (sealSt false)) (fun s => (s.capsule.held, s.capsule.cseq, s.capsule.ftime)) = some (true, 9, 5) ∧ stOut (exec .capsuleSeal (sealSt true)) (fun s => (s.capsule.held, s.dev)) = some (true, .booting) := by decide +kernel
theorem test_export : stOut (exec (.capcmdExport 0 exportV) (capSt true (capFn 113335295))) (fun s => (fnOf s 0).capErr) = some 4 ∧ stOut (exec (.capcmdExport 0 exportV) (capSt true (capFn 113335296))) (fun s => (fnOf s 0).capBusy) = some true := by decide +kernel
theorem test_ack : stOut (exec (.capcmdAck 0 (BitVec.ofNat 64 (2 + 8 * 2 ^ 32))) (capSt true (capFn 0))) (fun s => (s.capsule.held, (fnOf s 0).capErr)) = some (false, 0)
    ∧ stOut (exec (.capcmdAck 0 (BitVec.ofNat 64 (2 + 7 * 2 ^ 32))) (capSt true (capFn 0))) (fun s => (s.capsule.held, (fnOf s 0).capErr)) = some (true, 6) := by decide +kernel
theorem test_flip : memOut (exec (.einjcmdFlip 0 (flipV 0)) (flipSt 16 [])) (upKey 0 16) 8 = some 3 ∧ stOut (exec (.einjcmdFlip 0 (flipV 0)) (flipSt 16 [upKey 0 16 / 8])) (·.poison) = some [] := by decide +kernel

/-! ## Bring-up, resets, power -/

def offSt : State := { State.reset with power := false }
def bootSt (n : Nat) : State := { State.reset with bootStep := n, present := 1 }
def recovSt (len : BitVec 24) : State := { hostSt (.write [] (0, 0) none) with dev := .recovery, reclen := len }
theorem witness_boot : offSt.power = false ∧ ∀ n, (bootSt n).power = true ∧ (bootSt n).dev = .booting ∧ (bootSt n).bootStep = n := ⟨rfl, fun _ => ⟨rfl, rfl, rfl⟩⟩
theorem witness_recovery : (recovSt 8388608).power = true ∧ (recovSt 8388608).dev = .recovery ∧ hostUp (recovSt 8388608) = true ∧ (recovSt 8388608).reclen.toNat ≤ 8388608 := by decide +kernel
theorem witness_warm : devSt.power = true ∧ devSt.dev ≠ .failed ∧ devSt.capsule.sealing = false ∧ devSt.wave = none ∧ devSt.dstate = 0 ∧ (waveSt [] Capsule.empty).wave.any (fun w => w.todo.isEmpty) = true ∧ ({ waveSt [] Capsule.empty with dev := .frozen } : State).dev = .frozen := by decide +kernel
theorem witness_flr : devReady devSt = true ∧ devSt.dev ≠ .frozen ∧ (∀ p ∈ devSt.contexts, p.2.owner.toNat = 63 → p.2.st = .free ∨ p.2.st = .closing) ∧ devSt.contexts = [(1, ctxOpen)] ∧ ctxOpen.owner.toNat = 0 ∧ ctxOpen.st = .opened :=
  ⟨rfl, by decide, by decide +kernel, rfl, rfl, rfl⟩
def sagSt (k : Cluster) : State := { devSt with clusters := [(0, k)], cycle := 64 }
theorem witness_sag : coreUp (sagSt { Cluster.reset with droopCycles := 1 }) = true ∧ (cluster (sagSt { Cluster.reset with droopCycles := 1 }) 0).frozen = none ∧ (cluster (sagSt { Cluster.reset with droopCycles := 1 }) 0).droopClean + 64 ≤ (sagSt { Cluster.reset with droopCycles := 1 }).cycle := by decide +kernel
/-- Boundary temperatures, and a power one watt over the cap. -/
theorem witness_thermal : 125 ≤ (125 : BitVec 8).toNat ∧ (124 : BitVec 8).toNat < 125 ∧ 115 ≤ (115 : BitVec 8).toNat ∧ (114 : BitVec 8).toNat < 115 ∧ 105 ≤ (105 : BitVec 8).toNat ∧ devSt.pcap.toNat < (5601 : BitVec 13).toNat ∧ (104 : BitVec 8).toNat < 105
    ∧ (5600 : BitVec 13).toNat ≤ devSt.pcap.toNat ∧ devSt.level = 0 := by decide +kernel
def throttled : State := { devSt with level := 1, clearSince := some 0, dtime := 1000000 }
theorem witness_throttle : throttled.power = true ∧ throttled.clearSince = some 0 ∧ throttled.level ≠ 0 ∧ throttled.watts.toNat ≤ throttled.pcap.toNat ∧ throttled.junction.toNat < 105 ∧ 0 + 1000000 ≤ throttled.dtime := by decide +kernel
theorem witness_gate : GateOk devSt 1 1 0 ∧ GateOk { devSt with gated := 1 } 2 2 0 := by simp only [GateOk]; decide +kernel
theorem witness_d3 : devSt.power = true ∧ devSt.d3Pending = false ∧ devSt.groups = [] ∧ devSt.dbgs = [] ∧ (∀ p ∈ devSt.contexts, p.2.trace = none) ∧ ({ devSt with dstate := 3 } : State).dstate ≠ 0 := by decide +kernel
theorem witness_setpcap : 1000 ≤ (1000 : BitVec 13).toNat ∧ (6000 : BitVec 13).toNat ≤ 6000 ∧ (999 : BitVec 13).toNat < 1000 ∧ 6000 < (6001 : BitVec 13).toNat := by decide
def bOut (r : Host.Outcome State Fault Refusal) : Option (Bool × DevSt × Nat × Nat × Nat) := stOut r fun s => (s.power, s.dev, s.bootStep, s.booterr.toNat, s.dstate)
theorem test_powerGood : bOut (exec .powerGood offSt) = some (true, .booting, 1, 0, 0) ∧ bOut (exec .powerGood devSt) = some (true, .ready, 1, 0, 0) := by decide +kernel
theorem test_powerLoss : bOut (exec .powerLoss devSt) = some (false, .booting, 1, 0, 3) := by decide +kernel
theorem test_bringup : bOut (exec (.bringupStep false [] false) State.reset) = some (true, .recovery, 1, 1, 0) ∧ stOut (exec (.bringupStep true [3, 287] false) (bootSt 2)) (fun s => (s.present.getLsbD 2, s.present.getLsbD 3, s.present.getLsbD 287)) = some (true, false, false) := by
  decide +kernel
theorem test_bringupEnd : bOut (exec (.bringupStep false [] false) (bootSt 4)) = some (true, .failed, 4, 4, 0) ∧ bOut (exec (.bringupStep true [] true) (bootSt 5)) = some (true, .ready, 0, 0, 0) := by decide +kernel
theorem test_reccmd : bOut (exec (.reccmdLoad 0 true) (recovSt 8388608)) = some (true, .booting, 2, 0, 0) ∧ bOut (exec (.reccmdLoad 0 true) (recovSt 8388609)) = some (true, .recovery, 1, 2, 0) := by decide +kernel
theorem test_rstcmd : bOut (exec (.rstcmdWarm 0 1) devSt) = some (true, .booting, 1, 0, 0) ∧ stOut (exec (.rstcmdWarm 0 1) (waveSt [0] Capsule.empty)) (·.capsule.resetPending) = some true := by decide +kernel
theorem test_warmrst : bOut (exec .warmrst devSt) = some (true, .booting, 1, 0, 0) := by decide +kernel
theorem test_flr : ctxOut (exec (.functionLevelReset 0) devSt) = some (.closing, 0) ∧ ctxOut (exec (.functionLevelReset 1) devSt) = some (.opened, 0) := by decide +kernel
theorem test_sag : stOut (exec (.supplySag 0 9) (sagSt Cluster.reset)) (fun s => let k := cluster s 0; (k.droopCycles, k.droopMax, k.droopClean)) = some (1, 8, 64) := by decide +kernel
theorem test_droopEnd : stOut (exec (.droopEpisodeEnd 0) (sagSt { Cluster.reset with droopCycles := 1, droopMax := 8 })) (fun s => (cluster s 0).droopCycles) = some 0
    ∧ stOut (exec (.droopEpisodeEnd 0) (sagSt { Cluster.reset with droopCycles := 1, droopMax := 8, droopClean := 1 })) (fun s => (cluster s 0).droopCycles) = some 1 := by decide +kernel
theorem test_thermal : stOut (exec (.thermal 5601 20) devSt) (·.level) = some 1 ∧ stOut (exec (.thermal 5600 115) devSt) (·.level) = some 2 := by decide +kernel
theorem test_thermalOff : bOut (exec (.thermal 100 125) devSt) = some (false, .booting, 1, 0, 3) := by decide +kernel
theorem test_throttleClear : stOut (exec .throttleClear throttled) (·.level) = some 0 ∧ stOut (exec .throttleClear { throttled with dtime := 999999 }) (·.level) = some 1 := by decide +kernel
theorem test_gatecmdGate : stOut (exec (.gatecmdGate 0 1) (wrNum devSt (cpKey 0 8) 8 5)) (fun s => (s.gated, rdNum s (cpKey 0 8) 8)) = some (1, 0) ∧ stOut (exec (.gatecmdGate 0 1) (gSt [(1, runG)])) (fun s => (s.gated, s.gateErr)) = some (0, 2) := by decide +kernel
theorem test_gatecmdUngate : stOut (exec (.gatecmdUngate 0 2) { devSt with gated := 1 }) (·.gated) = some 0 := by decide +kernel
theorem test_d3hot : bOut (exec .d3hot devSt) = some (true, .ready, 1, 0, 3) ∧ stOut (exec .d3hot devSt) (·.gated) = some 1 := by decide +kernel
theorem test_d0 : bOut (exec .d0 { devSt with dstate := 3, gated := 1 }) = some (true, .ready, 1, 0, 0) ∧ stOut (exec .d0 { devSt with dstate := 3, gated := 1 }) (·.gated) = some 0 := by decide +kernel
theorem test_getstat : stOut (exec .getstat devSt) (·.mctpReply) = some [0x11, 0, 0] := by decide +kernel
theorem test_getpres : stOut (exec .getpres devSt) (·.mctpReply.length) = some 10 := by decide +kernel
theorem test_setpcap : stOut (exec (.setpcap 999) devSt) (fun s => (s.pcap, s.mctpReply)) = some (0x15E0, [0x15E0]) ∧ stOut (exec (.setpcap 6000) devSt) (·.pcap) = some 6000 := by decide +kernel
theorem test_mctp : stOut (exec .mctpControl { devSt with mctpReply := [1] }) (·.mctpReply) = some [] := by decide +kernel

/-! ## The machine as a whole -/

theorem witness_roundTrip : (∃ i, decodeWord .block 0x054487C008020064 = .ok i) ∧ Instr.wf .block (.add g0) = true ∧ Instr.frameOp (.add g0) = none
    ∧ (∃ i, decodeFrame .su 0x211 = .ok i ∧ Instr.wf .block i = true ∧ Instr.frameOp i = some 0x211) := by
  refine ⟨⟨.cmp { gim .i32 100 with t0 := some ⟨7, .p⟩ } .lt, by decide⟩, by decide, by decide, ⟨.reduce { valbase := 0, param := 0, len := 0, segbase := 0, crdbase := 0, mtsel := 0, bcout := false, bcin := false, level := 0, redop := 0, duppol := 0, strict := false }, ?_, ?_, ?_⟩⟩ <;> decide
def headAt (s : State) (site : Site) : State := { s with agenda := [{ ns := 5, cycles := 0, site := site, act := .fire }], site := .none }
def addW : Word := (encode (.add g0)).getD 0
theorem witness_stepBlock : ∃ k, block? (headAt (modBlock (blkSt 1 2 0 1) 0 0 0 fun k => { k with words := [addW] }) (.block 0 0 0 0)) 0 0 0 = some k ∧ k.words[0]? = some addW ∧ decodeWord .block addW = .ok (.add g0) := ⟨_, rfl, rfl, by decide +kernel⟩
theorem witness_stepCe : ∃ c, ce? (headAt (ceTileSt (oneCe 0x0007820008020200) []) (.ce 0 0 128 0 0)) 0 0 128 = some c ∧ c.words[0]? = some 0x0007820008020200 ∧ (decodeWord .graph 0x0007820008020200).toOption.isSome = true := ⟨_, rfl, rfl, by decide +kernel⟩
theorem witness_stepEngine : ∃ t e, thread? (headAt (engSt .tm (engE 0 0 0)) (.engine 0 0 .tm)) 0 0 = some t ∧ engCurrent t .tm = some e := ⟨_, _, rfl, rfl⟩
theorem witness_stepElem : ∃ x p, tile? (headAt (suSt 0x211 freshSuState []) (.elem 0 0 64 0)) 0 0 64 = some x ∧ elemFrame x 0 = some p ∧ decodeFrame p.1 p.2 = .ok (.reduce { valbase := 0, param := 0, len := 0, segbase := 0, crdbase := 0, mtsel := 0, bcout := false, bcin := false, level := 0, redop := 0, duppol := 0, strict := false }) :=
  ⟨_, (.su, 0x211), rfl, by decide +kernel, by decide +kernel⟩
theorem witness_stepEvent : Instr.isEvent .powerGood = true ∧ Instr.isEvent (.add g0) = false ∧ State.reset.agenda = [] := by decide
/-- A step fires the slot at the agenda's head, and time passes. -/
theorem test_stepFires : laneOut (step (headAt (modBlock (blkSt (l0 2) (l0 3) 0 1) 0 0 0 fun k => { k with words := [addW] }) (.block 0 0 0 0))) 0 = some 5 ∧ stOut (step (headAt devSt .none)) (fun s => (s.dtime, s.agenda.length)) = some (5, 0) := by decide +kernel
theorem test_stepEvent : bOut (step { offSt with agenda := [{ ns := 0, cycles := 0, site := .none, act := .event .powerGood }] }) = some (true, .booting, 1, 0, 0) := by decide +kernel
theorem witness_stepKeeps : Memory.wf devSt.mem = true ∧ stOut (step devSt) (fun _ => ()) = some () := by decide +kernel

end Sys2Proof.Tests
end

section
/-! PROOFS. Element-wise instructions in a block: ROUND into a36 and the immediates, the elements of a lane and of a value, the element loop with its flags and draws, and the rows of the integer arithmetic. -/

namespace Sys2Proof.Laws

open Sys2Proof.Machine Sys2Proof.Claims

/-! ## Rounding into a36 -/

/-- The comparison of `log2Ratio` on naturals is that of num / den with 2^e. -/
theorem zpow_le_ratio_iff (num : Nat) {den : Nat} (hd : 0 < den) (e : Int) :
    (if e ≥ 0 then decide (num ≥ den * 2 ^ e.toNat) else decide (num * 2 ^ (-e).toNat ≥ den)) = decide ((2 : ℚ) ^ e ≤ num / den) := by
  have hd' : (0 : ℚ) < den := by exact_mod_cast hd
  split
  case isTrue h =>
    lift e to ℕ using h
    rw [decide_eq_decide, le_div_iff₀ hd', Int.toNat_natCast, zpow_natCast, mul_comm]
    norm_cast
  case isFalse h =>
    obtain ⟨n, rfl⟩ : ∃ n : ℕ, e = -n := ⟨(-e).toNat, by omega⟩
    rw [decide_eq_decide, le_div_iff₀ hd', neg_neg, Int.toNat_natCast, zpow_neg, zpow_natCast, inv_mul_le_iff₀ (by positivity), mul_comm]
    norm_cast

/-- `log2Ratio` is floor(log2 (num / den)). -/
theorem log2Ratio_spec {num den : Nat} (hn : 0 < num) (hd : 0 < den) :
    (2 : ℚ) ^ log2Ratio num den ≤ num / den ∧ (num / den : ℚ) < 2 ^ (log2Ratio num den + 1) := by
  have hd' : (0 : ℚ) < den := by exact_mod_cast hd
  have hnlo : (2 : ℚ) ^ Nat.log2 num ≤ num := by exact_mod_cast Nat.log2_self_le hn.ne'
  have hnhi : (num : ℚ) < 2 ^ (Nat.log2 num + 1) := by exact_mod_cast Nat.lt_log2_self
  have hdlo : (2 : ℚ) ^ Nat.log2 den ≤ den := by exact_mod_cast Nat.log2_self_le hd.ne'
  have hdhi : (den : ℚ) < 2 ^ (Nat.log2 den + 1) := by exact_mod_cast Nat.lt_log2_self
  generalize he : (Nat.log2 num : Int) - (Nat.log2 den : Int) = e
  have hlow : (2 : ℚ) ^ (e - 1) ≤ num / den := by
    rw [le_div_iff₀ hd']
    calc (2 : ℚ) ^ (e - 1) * den ≤ 2 ^ (e - 1) * 2 ^ (Nat.log2 den + 1) := by gcongr
      _ = 2 ^ Nat.log2 num := by
        rw [← zpow_natCast, ← zpow_natCast, ← zpow_add₀ two_ne_zero]; congr 1; push_cast; omega
      _ ≤ num := hnlo
  have hhigh : (num / den : ℚ) < 2 ^ (e + 1) := by
    rw [div_lt_iff₀ hd']
    calc (num : ℚ) < 2 ^ (Nat.log2 num + 1) := hnhi
      _ = 2 ^ (e + 1) * 2 ^ Nat.log2 den := by
        rw [← zpow_natCast, ← zpow_natCast, ← zpow_add₀ two_ne_zero]; congr 1; push_cast; omega
      _ ≤ 2 ^ (e + 1) * den := by gcongr
  simp only [log2Ratio, he, zpow_le_ratio_iff num hd, decide_eq_true_eq]
  split
  case isTrue h => exact ⟨h, hhigh⟩
  case isFalse h => exact ⟨hlow, by simpa using h⟩

/-- `scaleRatio` divides by 2^q. -/
theorem scaleRatio_div (num den : Nat) (q : Int) :
    ((scaleRatio num den q).1 : ℚ) / (scaleRatio num den q).2 = num / den / 2 ^ q := by
  unfold scaleRatio
  split
  case isTrue h =>
    lift q to ℕ using h
    simp [div_div]
  case isFalse h =>
    obtain ⟨n, rfl⟩ : ∃ n : ℕ, q = -n := ⟨(-q).toNat, by omega⟩
    simp [div_eq_mul_inv, mul_right_comm]

/-- A rounded multiple is the floor of num / den / 2^q, or one more. -/
theorem roundTo_bounds (mode : Rnd) (neg : Bool) (num den : Nat) (q : Int) (u : BitVec 32) :
    ⌊(num / den / 2 ^ q : ℚ)⌋₊ ≤ (roundTo mode neg num den q u).1 ∧ (roundTo mode neg num den q u).1 ≤ ⌊(num / den / 2 ^ q : ℚ)⌋₊ + 1 := by
  rw [← scaleRatio_div, Nat.floor_div_eq_div]
  refine ⟨Nat.le_add_right _ _, Nat.add_le_add_left ?_ _⟩
  unfold boolBit
  split <;> decide

theorem roundTo_le {num den k : Nat} {q : Int} (mode : Rnd) (neg : Bool) (u : BitVec 32) (h : (num / den : ℚ) < 2 ^ (q + k)) :
    (roundTo mode neg num den q u).1 ≤ 2 ^ k := by
  have hfloor : ⌊(num / den / 2 ^ q : ℚ)⌋₊ < 2 ^ k := by
    rw [Nat.floor_lt (by positivity), div_lt_iff₀ (by positivity)]
    calc (num / den : ℚ) < 2 ^ (q + k) := h
      _ = (2 ^ k : ℕ) * 2 ^ q := by rw [zpow_add₀ two_ne_zero]; push_cast; rw [zpow_natCast, mul_comm]
  exact (roundTo_bounds mode neg num den q u).2.trans hfloor

theorem le_roundTo {num den k : Nat} {q : Int} (mode : Rnd) (neg : Bool) (u : BitVec 32) (h : (2 : ℚ) ^ (q + k) ≤ num / den) :
    2 ^ k ≤ (roundTo mode neg num den q u).1 := by
  have hfloor : 2 ^ k ≤ ⌊(num / den / 2 ^ q : ℚ)⌋₊ := by
    rw [Nat.le_floor_iff (by positivity), le_div_iff₀ (by positivity)]
    calc ((2 ^ k : ℕ) : ℚ) * 2 ^ q = 2 ^ (q + k) := by rw [zpow_add₀ two_ne_zero]; push_cast; rw [zpow_natCast, mul_comm]
      _ ≤ num / den := h
  exact hfloor.trans (roundTo_bounds mode neg num den q u).1

theorem withSign_a36_lt (neg : Bool) {mag : Nat} (h : mag < 2 ^ 35) : withSign .a36 neg mag < 2 ^ 36 := by
  cases neg <;> simp only [withSign, boolBit, signBit, expBits, fracBits, Bool.false_eq_true, if_true, if_false] <;> omega

theorem overflowBits_a36_lt (mode : Rnd) (neg away : Bool) : overflowBits .a36 mode neg away < 2 ^ 35 :=
  iteInduction (motive := (· < 2 ^ 35)) (fun _ => by decide) fun _ => by decide

theorem decodeF_den_pos {t : Ty} {bits n d : Nat} {neg : Bool} (h : decodeF t bits = .fin neg n d) : 0 < d := by
  simp only [decodeF] at h
  split at h
  · cases h
  split at h
  · split at h <;> cases h
  · generalize (if bits / 2 ^ fracBits t % 2 ^ expBits t = 0 then 1 else bits / 2 ^ fracBits t % 2 ^ expBits t) = k at h
    split at h <;> (cases h; positivity)

/-- The pattern of a number that `gtScaled` finds within the range of a36 (R47, R51) fits under the sign bit. -/
theorem a36_magnitude_lt {e : Int} {m : Nat} (hhi : m ≤ 2 ^ 28) (hlo : -126 ≤ e → 2 ^ 27 ≤ m)
    (hfit : gtScaled m (max e (-126) - 27) (2 ^ 28 - 1) 100 = false) :
    (max e (-126) - 27 + 27 + 127 - 1).toNat * 2 ^ 27 + m < 2 ^ 35 := by
  unfold gtScaled at hfit
  split at hfit
  case isTrue h =>
    -- 2^(e - 127) times m is below 2^28, and m has its 28 bits: e is 127
    obtain ⟨k, rfl⟩ : ∃ k : ℕ, e = 127 + k := ⟨(e - 127).toNat, by omega⟩
    have hm := hlo (by omega)
    have hk : m * 2 ^ k < 2 ^ 28 := by
      rw [show (max (127 + (k : Int)) (-126) - 27 - 100).toNat = k by omega] at hfit
      simp only [decide_eq_false_iff_not] at hfit
      omega
    cases k with
    | zero => simp at hk ⊢; omega
    | succ k =>
      have : 2 ^ 27 * 2 ≤ m * 2 ^ (k + 1) := Nat.mul_le_mul hm (by rw [pow_succ]; have := Nat.one_le_two_pow (n := k); omega)
      omega
  case isFalse h => omega

/-- ROUND of a non-zero number into a36: the overflow table, or exponent and fraction under the sign (R51, R52, R63). -/
theorem roundF_a36_fin (mode : Rnd) (u : BitVec 32) (neg : Bool) {num den : Nat} (hn : num ≠ 0) :
    (roundF .a36 mode u (.fin neg num den)).1 =
      let q := max (log2Ratio num den) (-126) - 27
      let r := roundTo mode neg num den q u
      withSign .a36 neg (if gtScaled r.1 q (2 ^ 28 - 1) 100 then overflowBits .a36 mode neg r.2.2 else (q + 27 + 127 - 1).toNat * 2 ^ 27 + r.1) := by
  have hq : (1 : Int) - (bias .a36 : Nat) = -126 := rfl
  simp only [roundF, if_neg hn, hq, apply_ite Prod.fst, apply_ite (withSign .a36 neg)]
  rfl

/-- ROUND into a36 gives a pattern of 36 bits (R47, R63). -/
theorem roundF_a36_lt (mode : Rnd) (u : BitVec 32) {x : Ex} (hx : ∀ neg n d, x = .fin neg n d → 0 < d) : (roundF .a36 mode u x).1 < 2 ^ 36 := by
  cases x with
  | nan => exact (by decide : canonNaN .a36 < 2 ^ 36)
  | inf neg => exact withSign_a36_lt neg (by decide : (2 ^ 8 - 1) * 2 ^ 27 < 2 ^ 35)
  | fin neg num den =>
    have hd := hx neg num den rfl
    by_cases hn : num = 0
    · subst hn; exact withSign_a36_lt neg (by decide)
    obtain ⟨hlo, hhi⟩ := log2Ratio_spec (Nat.pos_of_ne_zero hn) hd
    set e := log2Ratio num den
    set q := max e (-126) - 27 with hq
    set m := (roundTo mode neg num den q u).1
    have hmhi : m ≤ 2 ^ 28 := roundTo_le mode neg u (hhi.trans_le (zpow_le_zpow_right₀ (by norm_num) (by push_cast; omega)))
    have hmlo : -126 ≤ e → 2 ^ 27 ≤ m := fun h => le_roundTo mode neg u (by rwa [show q + (27 : ℕ) = e by push_cast; omega])
    rw [roundF_a36_fin mode u neg hn]
    apply withSign_a36_lt
    split
    case isTrue h => exact overflowBits_a36_lt ..
    case isFalse h => exact a36_magnitude_lt hmhi hmlo (by simpa using h)

/-! ## Elements and lanes -/

theorem signBit_lt_width (t : Ty) : signBit t < Ty.width t := by cases t <;> decide

theorem width_mul_perLane (t : Ty) : Ty.width t * Ty.perLane t = 64 := by cases t <;> rfl

theorem count_eq_perLane (t : Ty) : Ty.count t = Ty.perLane t * 16 := by cases t <;> rfl

theorem perLane_pos (t : Ty) : 0 < Ty.perLane t := by cases t <;> decide

/-- An element k of a lane lies within the lane's 64 bits (R44). -/
theorem width_mul_add_le {t : Ty} {k : Nat} (hk : k < Ty.perLane t) : Ty.width t * k + Ty.width t ≤ 64 :=
  calc Ty.width t * k + Ty.width t = Ty.width t * (k + 1) := rfl
    _ ≤ Ty.width t * Ty.perLane t := Nat.mul_le_mul_left _ hk
    _ = 64 := width_mul_perLane t

/-- Element k of lane i of a value is its element q i + k, where a lane has q elements (R44). -/
theorem elem_lane (t : Ty) (v : Value) (i : Nat) {k : Nat} (hk : k < Ty.perLane t) :
    elem (lane v i) (Ty.width t) k = elem v (Ty.width t) (Ty.perLane t * i + k) := by
  have hin := width_mul_add_le hk
  have hat : Ty.width t * (Ty.perLane t * i + k) = 64 * i + Ty.width t * k := by
    rw [Nat.mul_add, ← Nat.mul_assoc, width_mul_perLane]
  apply Nat.eq_of_testBit_eq
  intro n
  simp only [elem, fieldOf, lane, hat, Nat.testBit_mod_two_pow, Nat.testBit_shiftRight, BitVec.extractLsb'_toNat]
  by_cases hn : n < Ty.width t
  · have : Ty.width t * k + n < 64 := by omega
    simp [hn, this, Nat.add_assoc]
  · simp [hn]

theorem elemTy_lane (t : Ty) (v : Value) (i : Nat) {k : Nat} (hk : k < Ty.perLane t) :
    elemTy t (lane v i) k = elemTy t v (Ty.perLane t * i + k) := by
  unfold elemTy
  split
  · subst t; exact congrArg (· % 2 ^ 36) (elem_lane .a36 v i hk)
  · exact elem_lane t v i hk

theorem elem_xor {n : Nat} (x y : BitVec n) (w k : Nat) : elem (x ^^^ y) w k = elem x w k ^^^ elem y w k := by
  simp only [elem, fieldOf, BitVec.toNat_xor, Nat.shiftRight_xor_distrib, Nat.xor_mod_two_pow]

theorem elem_splatLane (t : Ty) (x : Nat) {k : Nat} (hk : k < Ty.perLane t) :
    elem (splatLane (Ty.width t) x) (Ty.width t) k = x % 2 ^ Ty.width t :=
  elem_ofElems _ k (width_mul_perLane t).le hk

/-- An element with its sign bit inverted where the instruction says so (R67, R141). -/
def signedElem (t : Ty) (neg : Bool) (x : Nat) : Nat := if neg then x ^^^ 2 ^ signBit t else x

theorem opElem_eq (t : Ty) (neg : Bool) (v : Value) (j : Nat) : opElem t neg v j = signedElem t neg (elemTy t v j) := rfl

theorem opImm_eq (t : Ty) (neg : Bool) (n : Nat) (imm : BitVec 20) :
    opImm t neg n imm = signedElem t neg (immElem t n imm.toNat % 2 ^ Ty.width t) := rfl

/-- Inverting the sign bits of a lane inverts each element's (R67). -/
theorem elemTy_negLane (t : Ty) (neg : Bool) (x : Word) {k : Nat} (hk : k < Ty.perLane t) :
    elemTy t (negLane t neg x) k = signedElem t neg (elemTy t x k) := by
  cases neg with
  | false => rfl
  | true =>
    have hflip : elem (negLane t true x) (Ty.width t) k = elem x (Ty.width t) k ^^^ 2 ^ signBit t := by
      show elem (x ^^^ splatLane (Ty.width t) (2 ^ signBit t)) _ k = _
      rw [elem_xor, elem_splatLane t _ hk, Nat.mod_eq_of_lt (Nat.pow_lt_pow_right (by norm_num) (signBit_lt_width t))]
    show elemTy t _ k = elemTy t x k ^^^ 2 ^ signBit t
    unfold elemTy
    split
    · subst t
      change elem (negLane .a36 true x) 64 k = elem x 64 k ^^^ 2 ^ signBit .a36 at hflip
      rw [hflip, Nat.xor_mod_two_pow]
      rfl
    · exact hflip

/-- The immediate element of a36 has no bit above its sign (R47, R68). -/
theorem immElem_a36_lt (n imm : Nat) : immElem .a36 n imm < 2 ^ 36 :=
  roundF_a36_lt .rne 0 (x := decodeF .f32 (imm % 2 ^ n * 2 ^ (32 - n))) fun _ _ _ h => decodeF_den_pos h

/-- Every element of the immediate's lane is the immediate's element (R68). -/
theorem elemTy_immLane (f : GFields) (n : Nat) {k : Nat} (hk : k < Ty.perLane f.ty) :
    elemTy f.ty (immLane f n) k = immElem f.ty n f.imm.toNat % 2 ^ Ty.width f.ty := by
  have hel : elem (immLane f n) (Ty.width f.ty) k = _ := elem_splatLane f.ty (immElem f.ty n f.imm.toNat) hk
  unfold elemTy
  split
  case isTrue h =>
    -- an a36 element is the low 36 bits of its container, and the immediate has no others
    simp only [h] at hel ⊢
    have hlt := immElem_a36_lt n f.imm.toNat
    change elem _ 64 k = _ at hel
    rw [hel]
    exact Nat.mod_eq_of_lt ((Nat.mod_le _ _).trans_lt hlt)
  case isFalse => exact hel

/-! ## The LFSR and the flags of a run of elements -/

/-- The LFSR after n elements: one step each under RSR (R53). -/
def lfsrAt (rsr : Bool) (n : Nat) (l : BitVec 32) : BitVec 32 := if rsr then lfsrAfter n l else l

theorem drawOf_eq (rsr : Bool) (l : BitVec 32) (j : Nat) : drawOf rsr l j = lfsrAt rsr (j + 1) l := rfl

theorem lfsrAfter_add (m n : Nat) (l : BitVec 32) : lfsrAfter (m + n) l = lfsrAfter n (lfsrAfter m l) := by
  induction m generalizing l with
  | zero => rw [Nat.zero_add]; rfl
  | succ m ih => rw [Nat.succ_add]; exact ih (lfsrStep l)

theorem lfsrAt_add (rsr : Bool) (m n : Nat) (l : BitVec 32) : lfsrAt rsr (m + n) l = lfsrAt rsr n (lfsrAt rsr m l) := by
  cases rsr with
  | false => rfl
  | true => exact lfsrAfter_add m n l

theorem lfsrAt_zero (rsr : Bool) (l : BitVec 32) : lfsrAt rsr 0 l = l := by cases rsr <;> rfl

theorem lfsrAt_one (rsr : Bool) (l : BitVec 32) : lfsrAt rsr 1 l = if rsr then lfsrStep l else l := rfl

/-- The draws after m elements are those of the LFSR that they leave (R53). -/
theorem drawOf_lfsrAt (rsr : Bool) (l : BitVec 32) (m k : Nat) : drawOf rsr (lfsrAt rsr m l) k = drawOf rsr l (m + k) := by
  rw [drawOf_eq, drawOf_eq, Nat.add_assoc m, lfsrAt_add rsr m]

/-- The flags that n elements raise (R57). -/
def flagsUpTo (n : Nat) (fl : Nat → FlagSet) : FlagSet := (List.range n).foldl (fun acc j => acc ||| fl j) 0

theorem foldl_or_init (g : Nat → FlagSet) (l : List Nat) (x : FlagSet) : l.foldl (fun acc j => acc ||| g j) x = x ||| l.foldl (fun acc j => acc ||| g j) 0 := by
  induction l generalizing x with
  | nil => simp
  | cons j r ih => rw [List.foldl_cons, List.foldl_cons, ih, ih (0 ||| g j)]; simp only [BitVec.ofNat_eq_ofNat, BitVec.zero_or, BitVec.or_assoc]

theorem flagsUpTo_add (m n : Nat) (g : Nat → FlagSet) : flagsUpTo (m + n) g = flagsUpTo m g ||| flagsUpTo n fun k => g (m + k) := by
  unfold flagsUpTo
  rw [List.range_add, List.foldl_append, foldl_or_init, List.foldl_map]

theorem flagsUpTo_congr {n : Nat} {g h : Nat → FlagSet} (hgh : ∀ j < n, g j = h j) : flagsUpTo n g = flagsUpTo n h :=
  List.foldl_ext _ _ _ fun _ j hj => by rw [hgh j (List.mem_range.mp hj)]

theorem flagsUpTo_one (g : Nat → FlagSet) : flagsUpTo 1 g = g 0 := BitVec.zero_or

/-! ## The element loop -/

/-- What `mapElems` gives for n elements from element a on: each drawn in order, the flags together, the LFSR after n (R53). -/
theorem mapElems_range' (rsr : Bool) (f : Nat → BitVec 32 → Nat × FlagSet) (n a : Nat) (l : BitVec 32) :
    mapElems rsr f (List.range' a n) l =
      ((List.range n).map fun k => (f (a + k) (drawOf rsr l k)).1, flagsUpTo n fun k => (f (a + k) (drawOf rsr l k)).2, lfsrAt rsr n l) := by
  induction n generalizing a l with
  | zero => rw [lfsrAt_zero]; rfl
  | succ n ih =>
    have hdraw (k : Nat) : drawOf rsr (lfsrAt rsr 1 l) k = drawOf rsr l (k + 1) := by rw [drawOf_lfsrAt, Nat.add_comm]
    rw [List.range'_succ, List.range_succ_eq_map, Nat.add_comm n 1, flagsUpTo_add, lfsrAt_add]
    simp only [mapElems, ← lfsrAt_one, ih, hdraw, flagsUpTo_one, List.map_cons, List.map_map, drawOf_eq, Nat.add_zero, Nat.zero_add, Function.comp_def,
      Nat.add_assoc, Nat.add_comm 1]

theorem mapElems_range (rsr : Bool) (f : Nat → BitVec 32 → Nat × FlagSet) (n : Nat) (l : BitVec 32) :
    mapElems rsr f (List.range n) l =
      ((List.range n).map fun k => (f k (drawOf rsr l k)).1, flagsUpTo n fun k => (f k (drawOf rsr l k)).2, lfsrAt rsr n l) := by
  simpa [List.range_eq_range'] using mapElems_range' rsr f n 0 l

theorem flagsUpTo_mul (q n : Nat) (g : Nat → FlagSet) : flagsUpTo (q * n) g = flagsUpTo n fun i => flagsUpTo q fun k => g (q * i + k) := by
  induction n with
  | zero => rfl
  | succ n ih => rw [Nat.mul_succ, flagsUpTo_add, ih, flagsUpTo_add, flagsUpTo_one]; rfl

/-- One lane's work joined to that of the lanes before it (R53, R143). -/
def laneStep (F : LaneFn) (a b c : Value) (acc : List Nat × FlagSet × BitVec 32) (i : Nat) : List Nat × FlagSet × BitVec 32 :=
  let r := F (lane a i) (lane b i) (lane c i) acc.2.2
  (acc.1 ++ [r.1.toNat], acc.2.1 ||| r.2.1, r.2.2)

theorem laneWise_eq_foldl (F : LaneFn) (a b c : Value) (l : BitVec 32) :
    laneWise F a b c l = let r := (List.range 16).foldl (laneStep F a b c) ([], 0, l); (packList 1024 64 r.1, r.2.1, r.2.2) := rfl

/-- The first n lanes, when the work of lane i from the LFSR that the lanes before it leave is known: words V, flags G, LFSR L (R53). -/
theorem foldl_laneStep {F : LaneFn} {a b c : Value} {V : Nat → Word} {G : Nat → FlagSet} {L : Nat → BitVec 32}
    (hF : ∀ i, F (lane a i) (lane b i) (lane c i) (L i) = (V i, G i, L (i + 1))) (n : Nat) :
    (List.range n).foldl (laneStep F a b c) ([], 0, L 0) = ((List.range n).map fun i => (V i).toNat, flagsUpTo n G, L n) := by
  induction n with
  | zero => rfl
  | succ n ih =>
    rw [List.range_succ, List.foldl_append, ih, List.map_append, flagsUpTo_add, flagsUpTo_one]
    simp only [List.foldl_cons, List.foldl_nil, laneStep, hF, List.map_cons, List.map_nil, Nat.add_zero]

/-- A lane of the value that `laneWise` packs. -/
theorem lane_packList (V : Nat → Word) {i : Nat} (h : i < 16) : lane (packList 1024 64 ((List.range 16).map fun i => (V i).toNat)) i = V i := by
  apply BitVec.eq_of_toNat_eq
  rw [lane_toNat, elem_packList _ _ (by simp), List.getElem?_map, List.getElem?_range h]
  exact Nat.mod_eq_of_lt (V i).isLt

/-! ## An operation on elements, over a whole value -/

section
variable (f : GFields) (n : Nat) (rounds : Bool) (op : Nat → Nat → Nat → BitVec 32 → Nat × FlagSet) (va vb vc : Value) (l : BitVec 32)

/-- What an operation gives for element j of the operands of a G-format instruction: negated, with the immediate in place, and with the element's draw (R53, R67, R68). -/
def elemOut (j : Nat) : Nat × FlagSet :=
  op (opElem f.ty f.na va j) (if f.i then opImm f.ty f.nb n f.imm else opElem f.ty f.nb vb j) (opElem f.ty f.nc vc j) (drawOf (rounds && f.rnd == .rsr) l j)

/-- Element k of a lane's operand B: the immediate or element q i + k of the value (R68, R141). -/
theorem elemTy_operandB (i : Nat) {k : Nat} (hk : k < Ty.perLane f.ty) :
    elemTy f.ty (negLane f.ty f.nb (if f.i then immLane f n else lane vb i)) k =
      if f.i then opImm f.ty f.nb n f.imm else opElem f.ty f.nb vb (Ty.perLane f.ty * i + k) := by
  rw [elemTy_negLane _ _ _ hk]
  split
  · rw [elemTy_immLane f n hk, opImm_eq]
  · rw [elemTy_lane _ _ _ hk, opElem_eq]

theorem elemTy_operand (neg : Bool) (v : Value) (i : Nat) {k : Nat} (hk : k < Ty.perLane f.ty) :
    elemTy f.ty (negLane f.ty neg (lane v i)) k = opElem f.ty neg v (Ty.perLane f.ty * i + k) := by
  rw [elemTy_negLane _ _ _ hk, elemTy_lane _ _ _ hk, opElem_eq]

/-- The work of lane i: its q elements, in order, from the LFSR that the q i elements before them leave (R53, R143). -/
theorem elemLane_lane (i : Nat) :
    elemLane f n rounds op (lane va i) (lane vb i) (lane vc i) (lfsrAt (rounds && f.rnd == .rsr) (Ty.perLane f.ty * i) l) =
      (packList 64 (Ty.width f.ty) ((List.range (Ty.perLane f.ty)).map fun k => (elemOut f n rounds op va vb vc l (Ty.perLane f.ty * i + k)).1),
        flagsUpTo (Ty.perLane f.ty) (fun k => (elemOut f n rounds op va vb vc l (Ty.perLane f.ty * i + k)).2),
        lfsrAt (rounds && f.rnd == .rsr) (Ty.perLane f.ty * (i + 1)) l) := by
  have hel (k : Nat) (hk : k < Ty.perLane f.ty) :
      op (elemTy f.ty (negLane f.ty f.na (lane va i)) k) (elemTy f.ty (negLane f.ty f.nb (if f.i then immLane f n else lane vb i)) k)
        (elemTy f.ty (negLane f.ty f.nc (lane vc i)) k) (drawOf (rounds && f.rnd == .rsr) (lfsrAt (rounds && f.rnd == .rsr) (Ty.perLane f.ty * i) l) k)
      = elemOut f n rounds op va vb vc l (Ty.perLane f.ty * i + k) := by
    rw [elemTy_operand f _ _ _ hk, elemTy_operandB f n vb i hk, elemTy_operand f _ _ _ hk, drawOf_lfsrAt, elemOut]
  simp only [elemLane, mapElems_range, ← Ty.perLane.eq_def]
  rw [Nat.mul_succ, lfsrAt_add, List.map_congr_left fun k hk => congrArg Prod.fst (hel k (List.mem_range.mp hk)), flagsUpTo_congr fun k hk => congrArg Prod.snd (hel k hk)]

/-- An operation over a whole value: its elements, the flags of all of them, and the LFSR stepped once for each under RSR (R53, R143). -/
theorem laneWise_elemLane :
    ∃ v : Value,
      laneWise (elemLane f n rounds op) va vb vc l =
        (v, flagsUpTo (Ty.count f.ty) (fun j => (elemOut f n rounds op va vb vc l j).2), lfsrAt (rounds && f.rnd == .rsr) (Ty.count f.ty) l)
      ∧ ∀ j < Ty.count f.ty, elem v (Ty.width f.ty) j = (elemOut f n rounds op va vb vc l j).1 % 2 ^ Ty.width f.ty := by
  set V : Nat → Word := fun i => packList 64 (Ty.width f.ty) ((List.range (Ty.perLane f.ty)).map fun k => (elemOut f n rounds op va vb vc l (Ty.perLane f.ty * i + k)).1) with hV
  refine ⟨packList 1024 64 ((List.range 16).map fun i => (V i).toNat), ?_, fun j hj => ?_⟩
  · have hall := foldl_laneStep (V := V) (L := fun i => lfsrAt (rounds && f.rnd == .rsr) (Ty.perLane f.ty * i) l) (elemLane_lane f n rounds op va vb vc l) 16
    rw [Nat.mul_zero, lfsrAt_zero] at hall
    rw [laneWise_eq_foldl, hall, count_eq_perLane, flagsUpTo_mul]
  · have hk : j % Ty.perLane f.ty < Ty.perLane f.ty := Nat.mod_lt _ (perLane_pos f.ty)
    have hi : j / Ty.perLane f.ty < 16 := Nat.div_lt_of_lt_mul (count_eq_perLane f.ty ▸ hj)
    calc elem _ (Ty.width f.ty) j = elem (V (j / Ty.perLane f.ty)) (Ty.width f.ty) (j % Ty.perLane f.ty) := by
          rw [← lane_packList V hi, elem_lane _ _ _ hk, Nat.div_add_mod]
      _ = (elemOut f n rounds op va vb vc l j).1 % 2 ^ Ty.width f.ty := by
          rw [hV, elem_packList _ _ (by simp [width_mul_perLane]), List.getElem?_map, List.getElem?_range hk]
          simp only [Option.map_some, Option.getD_some, Nat.div_add_mod]

end

/-! ## Rows -/

/-- A row completes when its instruction runs an operation that agrees with the row's, element for element, up to the element's width. -/
theorem rowCompletes_of_elemOp {i : Instr} {r : ElemRow} {op : Nat → Nat → Nat → BitVec 32 → Nat × FlagSet}
    (hexec : ∀ s, exec i s = .next (elemOp s r.f r.imm r.ub r.uc r.rounds op))
    (hval : ∀ a b c u, (op a b c u).1 % 2 ^ Ty.width r.f.ty = (r.out a b c u).1 % 2 ^ Ty.width r.f.ty)
    (hflag : ∀ a b c u, (op a b c u).2 = (r.out a b c u).2) : RowCompletes i r := by
  rintro s g th b slot x k va vb vc ⟨hsite, hx, hk, ht, hl⟩
  obtain ⟨v, hv, hel⟩ := laneWise_elemLane r.f r.imm r.rounds op va vb vc (lfsrOf x (ceTile k th slot))
  refine ⟨v, ?_, fun j hj => (hel j hj).trans (hval ..)⟩
  simp only [hexec, elemOp, elementWise, hsite, fireBlock_go s g th b slot _ _ _ _ _ _ _ k x va vb vc hk ht hl hx, hv, elemOut, hflag]
  rfl

/-- A row without flags or rounding completes when its instruction's numbers agree with the row's. -/
theorem plainRow_completes {i : Instr} {f : GFields} {n : Nat} {ub uc : Bool} {op out : Nat → Nat → Nat → Nat}
    (hexec : ∀ s, exec i s = .next (elemOp s f n ub uc false fun a b c _ => (op a b c, 0)))
    (hval : ∀ a b c, op a b c % 2 ^ Ty.width f.ty = out a b c % 2 ^ Ty.width f.ty) : RowCompletes i (plainRow f n ub uc out) :=
  rowCompletes_of_elemOp hexec (fun a b c _ => hval a b c) fun _ _ _ _ => rfl

/-! ## Integers -/

theorem width_pos (t : Ty) : 0 < Ty.width t := by cases t <;> decide

/-- Twice the half of a type's range is the range (R45). -/
theorem two_pow_width (t : Ty) : 2 ^ Ty.width t = 2 * 2 ^ (Ty.width t - 1) := by
  rw [← pow_succ', Nat.sub_add_cancel (width_pos t)]

/-- The number that bits read as: the bits, less 2^w where the type is signed and their top bit set (R45, R63). -/
theorem decodeI_eq (t : Ty) (bits : Nat) :
    decodeI t bits = ((bits % 2 ^ Ty.width t : Nat) : Int) -
      (if Ty.isSigned t = true ∧ 2 ^ (Ty.width t - 1) ≤ bits % 2 ^ Ty.width t then ((2 ^ Ty.width t : Nat) : Int) else 0) := by
  unfold decodeI sext
  rw [if_neg (width_pos t).ne']
  by_cases hs : Ty.isSigned t = true
  · by_cases hlow : bits % 2 ^ Ty.width t < 2 ^ (Ty.width t - 1)
    · simp [hs, hlow, Nat.not_le.mpr hlow]
    · simp [hs, hlow, Nat.not_lt.mp hlow]
  · simp [hs]

/-- A number read from bits lies within its type's limits (R55). -/
theorem decodeI_mem_limits (t : Ty) (bits : Nat) : minI t ≤ decodeI t bits ∧ decodeI t bits ≤ maxI t := by
  have hlt : bits % 2 ^ Ty.width t < 2 ^ Ty.width t := Nat.mod_lt _ (by positivity)
  have hcast (n : Nat) : (2 : Int) ^ n = ((2 ^ n : Nat) : Int) := by push_cast; rfl
  rw [decodeI_eq]
  simp only [minI, maxI, hcast]
  generalize bits % 2 ^ Ty.width t = m at hlt ⊢
  rw [two_pow_width] at hlt ⊢
  cases Ty.isSigned t with
  | false => simp only [Bool.false_eq_true, false_and, if_false]; omega
  | true => simp only [true_and, if_true]; split <;> omega

theorem satI_decodeI (t : Ty) (bits : Nat) : satI t (decodeI t bits) = decodeI t bits := by
  obtain ⟨hmin, hmax⟩ := decodeI_mem_limits t bits
  rw [satI, min_eq_right hmax, max_eq_right hmin]

/-- LOW gives back the bits that a number was read from (R63). -/
theorem lowNat_decodeI (t : Ty) (bits : Nat) : lowNat (Ty.width t) (decodeI t bits) = bits % 2 ^ Ty.width t := by
  have hmod : decodeI t bits % ((2 ^ Ty.width t : Nat) : Int) = (bits % 2 ^ Ty.width t : Nat) := by
    rw [decodeI_eq]
    split
    · rw [Int.sub_emod_right, ← Int.natCast_mod, Nat.mod_mod]
    · rw [Int.sub_zero, ← Int.natCast_mod, Nat.mod_mod]
  rw [lowNat, hmod, Int.toNat_natCast]

/-- A number of the type delivered again has the bits that it was read from, with SAT or without (R142). -/
theorem deliverI_decodeI (t : Ty) (sat : Bool) (bits : Nat) : deliverI t sat (decodeI t bits) = bits % 2 ^ Ty.width t := by
  rw [deliverI, satI_decodeI, ite_self, lowNat_decodeI]

theorem decodeI_eq_zero_iff (t : Ty) (bits : Nat) : decodeI t bits = 0 ↔ bits % 2 ^ Ty.width t = 0 := by
  have hlt : bits % 2 ^ Ty.width t < 2 ^ Ty.width t := Nat.mod_lt _ (by positivity)
  have hhalf : 0 < 2 ^ (Ty.width t - 1) := by positivity
  rw [decodeI_eq]
  split <;> omega

/-- MIN delivers the bits of the lesser operand (R148). -/
theorem deliverI_min (t : Ty) (sat : Bool) (a b : Nat) :
    deliverI t sat (min (decodeI t a) (decodeI t b)) = (if decodeI t a ≤ decodeI t b then a else b) % 2 ^ Ty.width t := by
  rw [min_def]
  split <;> exact deliverI_decodeI ..

/-- MAX delivers the bits of the greater operand (R148). -/
theorem deliverI_max (t : Ty) (sat : Bool) (a b : Nat) :
    deliverI t sat (max (decodeI t a) (decodeI t b)) = (if decodeI t a ≤ decodeI t b then b else a) % 2 ^ Ty.width t := by
  rw [max_def]
  split <;> exact deliverI_decodeI ..

/-- DIV of R148, all ones where b is zero (R149). -/
theorem divElem_eq (t : Ty) (sat : Bool) (a b : Nat) :
    divElem t sat a b = if decodeI t b = 0 then 2 ^ Ty.width t - 1 else deliverI t sat ((decodeI t a).tdiv (decodeI t b)) := by
  simp only [divElem, decodeI_eq_zero_iff]

/-- REM of R148, a itself where b is zero (R149). -/
theorem remElem_mod (t : Ty) (a b : Nat) :
    remElem t a b % 2 ^ Ty.width t =
      (if decodeI t b = 0 then a else lowNat (Ty.width t) (decodeI t a - decodeI t b * (decodeI t a).tdiv (decodeI t b))) % 2 ^ Ty.width t := by
  simp only [remElem, decodeI_eq_zero_iff, Int.tmod_def]
  split
  · exact Nat.mod_mod _ _
  · rfl

/-- MULH of R148: the division by 2^w is the floor. -/
theorem deliverI_mulh (t : Ty) (x : Int) : deliverI t false (x / ((2 : Int) ^ Ty.width t)) = lowNat (Ty.width t) (Int.fdiv x (2 ^ Ty.width t)) := by
  rw [Int.fdiv_eq_ediv_of_nonneg _ (by positivity)]
  rfl

/-- Settles O1: each instruction runs its row's operation on every element (R143), and what it delivers is the row's e of R148 and R149 under R142. -/
theorem integerArithmeticCompletes : Obligations.IntegerArithmeticCompletes := by
  intro i r hr
  cases i <;> cases hr
  case add f => exact plainRow_completes (fun _ => rfl) fun _ _ _ => rfl
  case sub f => exact plainRow_completes (fun _ => rfl) fun _ _ _ => rfl
  case mul f => exact plainRow_completes (fun _ => rfl) fun _ _ _ => rfl
  case mulh f => exact plainRow_completes (fun _ => rfl) fun a b _ => congrArg (· % _) (deliverI_mulh f.ty _)
  case div f => exact plainRow_completes (fun _ => rfl) fun a b _ => congrArg (· % _) (divElem_eq f.ty f.sat a b)
  case rem f => exact plainRow_completes (fun _ => rfl) fun a b _ => remElem_mod f.ty a b
  case min f => exact plainRow_completes (fun _ => rfl) fun a b _ => by rw [deliverI_min, Nat.mod_mod]
  case max f => exact plainRow_completes (fun _ => rfl) fun a b _ => by rw [deliverI_max, Nat.mod_mod]
  case abs f => exact plainRow_completes (fun _ => rfl) fun a _ _ => congrArg (deliverI f.ty f.sat · % _) (Int.natCast_natAbs _)
  case mad f => exact plainRow_completes (fun _ => rfl) fun _ _ _ => rfl

end Sys2Proof.Laws
end

section
/-! PROOFS. Tile moves at the head of their queue: what an engine's access finds in sound storage, the loop of a move as phases of steps, and the four forms of R201. -/

namespace Sys2Proof.Laws

open Sys2Proof.Machine Sys2Proof.Claims

/-! ## Changing the instruction at the head of a queue -/

@[simp] theorem engQueue_setQu (t : Thread) (q : Qu) (l : List EngEntry) : engQueue (setQu t q l) q = l := by cases q <;> rfl

@[simp] theorem setQu_setQu (t : Thread) (q : Qu) (l l' : List EngEntry) : setQu (setQu t q l) q l' = setQu t q l' := by cases q <;> rfl

/-- Two changes of the entry that acts next are one, when the first leaves it unfinished. -/
theorem modFirst_modFirst {f : EngEntry → EngEntry} (hf : ∀ e, (f e).done = e.done) (f' : EngEntry → EngEntry) (l : List EngEntry) :
    modFirst f' (modFirst f l) = modFirst (f' ∘ f) l := by
  induction l with
  | nil => rfl
  | cons e r ih => by_cases hd : e.done = true <;> simp [modFirst, hd, hf, ih]

/-- The entry that acts next, after a change that leaves it unfinished. -/
theorem find?_modFirst {f : EngEntry → EngEntry} (hf : ∀ e, (f e).done = e.done) (l : List EngEntry) :
    (modFirst f l).find? (fun e => !e.done) = (l.find? fun e => !e.done).map f := by
  induction l with
  | nil => rfl
  | cons e r ih => by_cases hd : e.done = true <;> simp [modFirst, hd, hf, ih]

theorem modThread_modThread (s : State) (g th : Nat) (f f' : Thread → Thread) : modThread (modThread s g th f) g th f' = modThread s g th (f' ∘ f) := by
  simp only [modThread, modImage, modGrp, modify_modify]
  congr 2
  funext x
  simp only [Function.comp_apply, modify_modify]

theorem modEng_modEng (s : State) (g th : Nat) (q : Qu) {f : EngEntry → EngEntry} (hf : ∀ e, (f e).done = e.done) (f' : EngEntry → EngEntry) :
    modEng (modEng s g th q f) g th q f' = modEng s g th q (f' ∘ f) := by
  simp only [modEng, modThread_modThread]
  congr 1
  funext t
  simp only [Function.comp_apply, engQueue_setQu, setQu_setQu, modFirst_modFirst hf]

theorem grpOpt_modEng (s : State) (g th : Nat) (q : Qu) (f : EngEntry → EngEntry) :
    grp? (modEng s g th q f) g = (grp? s g).map fun x =>
      { x with image := { x.image with threads := Tab.modify x.image.threads th fun t => setQu t q (modFirst f (engQueue t q)) } } :=
  grpOpt_modImage_self s g _

theorem engNow_modEng (s : State) (g th : Nat) (q : Qu) {f : EngEntry → EngEntry} (hf : ∀ e, (f e).done = e.done) :
    engNow (modEng s g th q f) g th q = (engNow s g th q).map f := by
  simp only [engNow, modEng, threadOpt_modThread_self]
  cases thread? s g th with
  | none => rfl
  | some t => simp only [Option.map_some, Option.bind_some, engCurrent, engQueue_setQu, find?_modFirst hf]

/-- Dropping answers twice drops nothing more. -/
theorem engClear_engClear (s : State) (g th : Nat) (q : Qu) : engClear (engClear s g th q) g th q = engClear s g th q :=
  modEng_modEng s g th q (f := fun e => { e with buf := [], asked := [] }) (fun _ => rfl) _

theorem engDone_engClear (s : State) (g th : Nat) (q : Qu) : engDone (engClear s g th q) g th q = engDone s g th q :=
  modEng_modEng s g th q (f := fun e => { e with buf := [], asked := [] }) (fun _ => rfl) _

/-! ## Storage without errors -/

section
variable {t : State} (h : Sound t)
include h

theorem eccFix_sound (hit : Nat → Bool) : eccFix t hit = t := if_pos h.2

theorem eccTouch_sound (k n : Nat) (wr : Bool) : eccTouch t k n wr = t := by
  simp only [eccTouch, eccFix_sound h, h.1, List.find?_nil]

theorem eccStore_sound (l : List (Nat × Byte)) : eccStore t l = t := by
  simp only [eccStore, eccFix_sound h, h.1, List.find?_nil]

theorem eccOf_sound (k n : Nat) : eccOf t k n = none := by
  simp [eccOf, poisoned, h.1]

/-- A write to sound storage changes its bytes alone. -/
theorem wrBytes_sound (k : Nat) (l : List Byte) : wrBytes t k l = { t with mem := cellsWrite t.mem k l } := by
  obtain ⟨hp, hs⟩ := h
  simp only [wrBytes, hp, hs, outside, List.filter_nil]

theorem putBytes_sound (k : Nat) (l : List Byte) : putBytes t (keyed k l) = { t with mem := cellsWrite t.mem k l } := by
  obtain ⟨hp, hs⟩ := h
  simp only [putBytes, hp, hs, mendPoison, List.filter_nil, cellsPut_keyed]

end

/-! ## What an engine's access finds -/

theorem lastByte_none {l : List (Nat × Byte)} {k : Nat} (h : ∀ p ∈ l, p.1 ≠ k) : lastByte l k = none := by
  induction l with
  | nil => rfl
  | cons p r ih =>
    have hr := ih fun p' hp' => h p' (List.mem_cons_of_mem _ hp')
    simpa [lastByte, h p (List.mem_cons_self ..)] using hr

/-- Where no queued store overlaps a range, every party finds none of its bytes in the queue. -/
theorem lastByte_queuedFor {t : State} {cl k n : Nat} (h : queueOverlaps t cl k n = false) (party : Nat × Nat) {i : Nat} (hi : i < n) :
    lastByte (queuedFor t cl party) (k + i) = none := by
  refine lastByte_none fun p hp => ?_
  obtain ⟨⟨e, j⟩, he, hpe⟩ := List.mem_flatMap.mp hp
  have hmem : e ∈ (cluster t cl).writeq := (List.mem_zipIdx (List.mem_of_mem_filter he)).2.2 ▸ List.getElem_mem _
  have hno := List.any_eq_false.mp (Bool.eq_false_iff.mpr (List.any_eq_false.mp h e hmem)) p hpe
  simp only [Bool.and_eq_true, decide_eq_true_eq] at hno
  omega

/-- Where no queued store overlaps a range, a party sees storage (R118). -/
theorem viewBytes_storage {t : State} {cl k n : Nat} (h : queueOverlaps t cl k n = false) (party : Nat × Nat) :
    viewBytes t cl party [] k n = memBytes t.mem k n := by
  refine List.ext_getElem (by simp [viewBytes, heldBytes, memBytes]) fun i hi hi' => ?_
  have hn : i < n := by simpa [memBytes] using hi'
  have hown : lastByte [] (k + i) = none := rfl
  simp [viewBytes, heldBytes, memBytes, hown, lastByte_queuedFor h party hn, rdByte]

/-- An access that a held extent of a normal page serves (R343, R344, R348). -/
theorem gmFind_held {t : State} {x : Group} {h g a n : Nat} {need : Need} {e : Extent} (hx : grp? t g = some x) (hn : need ≠ .sync) (ha : a % n = 0)
    (hinv : invalBlocks t x.ctx a = false) (he : findExtent (Tab.get t.extents h []) x.ctx a = some e) (hk : entryKind e.leaf = 0) (hok : needOk e.leaf need = true) :
    gmFind t h g a n need = (t, .at_ (hbmKey (fieldOf e.leaf 16 24 * 65536 + a % 2 ^ e.size)) none) := by
  have hsync : (need == .sync) = false := beq_eq_false_iff_ne.mpr hn
  have hres : resolve t h x.ctx g a need = (t, .ok (.store (hbmKey (fieldOf e.leaf 16 24 * 65536 + a % 2 ^ e.size)))) := by
    simp only [resolve, Machine.translate, he, placeOf, hsync, hok, hk, Bool.false_and, Bool.not_true, Bool.false_eq_true, if_false]
  simp only [gmFind, hx, ha, ne_eq, not_true_eq_false, if_false, hinv, Bool.false_eq_true, hres, servesNow, Bool.and_false, keyOfPlace]

theorem isHost_hbmKey (pa : Nat) : isHost (hbmKey pa) = false := by
  have : hbmKey pa < 2 ^ 40 := Nat.mod_lt _ (by positivity)
  simp only [isHost, Bool.and_eq_false_iff, decide_eq_false_iff_not]
  omega

theorem isPeer_hbmKey (pa : Nat) : isPeer (hbmKey pa) = false := by
  have : hbmKey pa < 2 ^ 40 := Nat.mod_lt _ (by positivity)
  exact decide_eq_false (Nat.not_le.mpr (this.trans (by decide)))

theorem engAt_pad {t : State} {x : Group} {th a n k : Nat} {sp : MvSpace} {need : Need} (hsp : sp ≠ .gm) (hat : EngAt t x th sp need a n k) :
    padKey x sp (clusterOfThread x th) n a = some k := by
  cases sp with
  | gm => exact absurd rfl hsp
  | _ => exact hat

section
variable {t : State} {x : Group} {g th a n k : Nat} {sp : MvSpace} (q : Qu) (hs : Sound t) (hw : Unwatched t) (hx : grp? t g = some x)
include hs hw hx

/-- In sound storage that nothing watches, an engine reads the bytes that its address reaches, and the read leaves no mark. -/
theorem engRead_at {en : EngEntry} (hen : engNow t g th q = some en) (hat : EngAt t x th sp .read a n k) :
    engRead t g th q sp a n = (t, .ok (memBytes t.mem k n)) := by
  by_cases hsp : sp = .gm
  · subst hsp
    obtain ⟨ha, hinv, hq, e, he, hkind, hok, rfl⟩ := hat
    simp only [engRead, hx, hen, ne_eq, not_true_eq_false, if_false, gmFind_held hx (by decide) ha hinv he hkind hok, isHost_hbmKey, isPeer_hbmKey, Bool.or_self,
      Bool.false_and, Bool.false_eq_true, eccOf_sound hs, eccFixAt, eccFix_sound hs, viewBytes_storage (hq (by decide))]
  · simp only [engRead, hx, hen, ne_eq, hsp, not_false_eq_true, if_true, padRead, engAt_pad hsp hat, watchPad_none _ _ _ _ _ _ hw, eccTouch_sound hs]
    rfl

/-- And what it writes is there at once, and nothing else has changed. -/
theorem engWrite_at {l : List Byte} (hat : EngAt t x th sp .write a l.length k) :
    engWrite t g th q sp a l = ({ t with mem := cellsWrite t.mem k l }, .ok ()) := by
  by_cases hsp : sp = .gm
  · subst hsp
    obtain ⟨ha, hinv, -, e, he, hkind, hok, rfl⟩ := hat
    simp only [engWrite, hx, ne_eq, not_true_eq_false, if_false, gmFind_held hx (by decide) ha hinv he hkind hok, isHost_hbmKey, isPeer_hbmKey, Bool.false_eq_true,
      eccStore_sound hs, wrBytes_sound hs]
  · simp only [engWrite, hx, ne_eq, hsp, not_false_eq_true, if_true, padWriteKeys, padKeysOr, engAt_pad hsp hat, watchPad_none _ _ _ _ _ _ hw, eccStore_sound hs, putBytes_sound hs]

end

/-! ## The states of a move -/

/-- A state that a move passes through: storage holds `m`, and its queue is as it was, or with its answers dropped. -/
def Moving (s : State) (g th : Nat) (q : Qu) (m : List Host.Cell) (t : State) : Prop := t = { s with mem := m } ∨ t = { engClear s g th q with mem := m }

section
variable {s t : State} {g th : Nat} {q : Qu} {m : List Host.Cell}

theorem moving_start : Moving s g th q s.mem s := .inl rfl

theorem Moving.clear (ht : Moving s g th q m t) : Moving s g th q m (engClear t g th q) := by
  rcases ht with rfl | rfl
  · exact .inr rfl
  · exact .inr (congrArg (fun u : State => { u with mem := m }) (engClear_engClear s g th q))

theorem Moving.write (ht : Moving s g th q m t) (m' : List Host.Cell) : Moving s g th q m' { t with mem := m' } := by
  rcases ht with rfl | rfl
  · exact .inl rfl
  · exact .inr rfl

theorem Moving.mem_eq (ht : Moving s g th q m t) : t.mem = m := by rcases ht with rfl | rfl <;> rfl

/-- A move that ends from any of its states leaves what R201 names: its instruction done, and storage. -/
theorem Moving.engDone_eq (ht : Moving s g th q m t) : engDone t g th q = engFinished s g th q m := by
  rcases ht with rfl | rfl
  · rfl
  · exact congrArg (fun u : State => { u with mem := m }) (engDone_engClear s g th q)

theorem Moving.sound (hs : Sound s) (ht : Moving s g th q m t) : Sound t := by rcases ht with rfl | rfl <;> exact hs

theorem Moving.unwatched (hw : Unwatched s) (ht : Moving s g th q m t) : Unwatched t := by rcases ht with rfl | rfl <;> exact hw

/-- Its group stands, and what an engine reaches in the first state it reaches in every one. -/
theorem Moving.grp {x : Group} (hx : grp? s g = some x) (ht : Moving s g th q m t) :
    ∃ y, grp? t g = some y ∧ ∀ {sp need a n k}, EngAt s x th sp need a n k → EngAt t y th sp need a n k := by
  rcases ht with rfl | rfl
  · exact ⟨x, hx, fun {sp} _ _ _ _ hat => by cases sp <;> exact hat⟩
  · have hy := grpOpt_modEng s g th q fun e => { e with buf := [], asked := [] }
    rw [hx] at hy
    exact ⟨_, hy, fun {sp} _ _ _ _ hat => by cases sp <;> exact hat⟩

theorem Moving.engNow {en : EngEntry} (hen : engNow s g th q = some en) (ht : Moving s g th q m t) : ∃ en', engNow t g th q = some en' := by
  rcases ht with rfl | rfl
  · exact ⟨en, hen⟩
  · exact ⟨_, (engNow_modEng s g th q (f := fun e => { e with buf := [], asked := [] }) fun _ => rfl).trans (congrArg _ hen)⟩

end

/-! ## Accesses of a move -/

theorem memBytes_length (m : List Host.Cell) (k n : Nat) : (memBytes m k n).length = n := by simp [memBytes]

section
variable {s : State} {g th : Nat} {q : Qu} {x : Group} {en : EngEntry}

theorem grpOpt_of_engGo (hgo : EngGo s g th q x en) : grp? s g = some x := by
  obtain ⟨-, -, hx, -⟩ := hgo
  exact hx

theorem engNow_of_engGo (hgo : EngGo s g th q x en) : engNow s g th q = some en := by
  obtain ⟨-, -, -, -, -, t, ht, hcur, -⟩ := hgo
  simp only [engNow, ht, Option.bind_some, hcur]

/-- An engine that may act does. -/
theorem engAct_of_engGo (hgo : EngGo s g th q x en) (go : Nat → Nat → Qu → Group → EngEntry → State) : engAct s go = go g th q x en := by
  obtain ⟨hsite, -, hx, hlive, hissued, t, ht, hcur, hstop⟩ := hgo
  simp only [engAct, hsite, hx, ht, hcur, hlive, hissued, hstop, Option.isNone_none, Bool.and_self, if_true]

variable {t : State} {m : List Host.Cell} {sp dsp : MvSpace} {a b n k j : Nat} (hs : Sound s) (hw : Unwatched s) (hgo : EngGo s g th q x en) (ht : Moving s g th q m t)
include hs hw hgo ht

theorem Moving.engRead (hat : EngAt s x th sp .read a n k) : engRead t g th q sp a n = (t, .ok (memBytes m k n)) := by
  obtain ⟨y, hy, hsame⟩ := ht.grp (th := th) (grpOpt_of_engGo hgo)
  obtain ⟨en', hen⟩ := ht.engNow (engNow_of_engGo hgo)
  rw [engRead_at q (ht.sound hs) (ht.unwatched hw) hy hen (hsame hat), ht.mem_eq]

theorem Moving.engWrite {l : List Byte} (hl : l.length = n) (hat : EngAt s x th sp .write a n k) :
    ∃ t', engWrite t g th q sp a l = (t', .ok ()) ∧ Moving s g th q (cellsWrite m k l) t' := by
  obtain ⟨y, hy, hsame⟩ := ht.grp (th := th) (grpOpt_of_engGo hgo)
  subst hl
  refine ⟨_, engWrite_at q (ht.sound hs) (ht.unwatched hw) hy (hsame hat), ?_⟩
  rw [ht.mem_eq]
  exact ht.write _

theorem Moving.engCopy (hr : EngAt s x th sp .read a n k) (hd : EngAt s x th dsp .write b n j) :
    ∃ t', engCopy t g th q sp dsp a b n = (t', .ok ()) ∧ Moving s g th q (cellsWrite m j (memBytes m k n)) t' := by
  obtain ⟨t', hw', ht'⟩ := ht.engWrite hs hw hgo (memBytes_length m k n) hd
  exact ⟨_, by simp only [Machine.engCopy, ht.engRead hs hw hgo hr, hw'], ht'.clear⟩

end

/-! ## Addresses of elements and records (R201) -/

theorem mvAddr_elem (base : Nat) (stride : Int) (cols n p : Nat) :
    mvAddr base (((p / cols : Nat) : Int) * stride + ((p % cols : Nat) : Int) * (n : Int)) = elemAt base stride cols n p := by
  rw [mvAddr, lowNat, ← Int.add_assoc]
  rfl

theorem mvAddr_across (base : Nat) (stride : Int) (cols n p : Nat) :
    mvAddr base (((p % cols : Nat) : Int) * stride + ((p / cols : Nat) : Int) * (n : Int)) = elemAcross base stride cols n p := by
  rw [mvAddr, lowNat, ← Int.add_assoc]
  rfl

theorem mvAddr_record (base j : Nat) : mvAddr base (8 + 8 * (j : Int)) = addrPlus base (8 + 8 * j) := by
  rw [mvAddr, lowNat, addrPlus]
  omega

/-! ## Turns of a move's loop -/

/-- N turns of a move's loop take it from storage and position `c` to `c'`, from whatever state it has. -/
def Turns (s : State) (g th : Nat) (q : Qu) (k : MvKind) (e : MvEng) (src dst : Nat) (d : MvDesc) (N : Nat) (c c' : List Host.Cell × Nat) : Prop :=
  ∀ t, Moving s g th q c.1 t → ∃ t', Moving s g th q c'.1 t' ∧
    ∀ fuel, mvLoop (mvDone k d) (mvStep k e g th q src dst d) (N + fuel) t c.2 = mvLoop (mvDone k d) (mvStep k e g th q src dst d) fuel t' c'.2

section
variable {s : State} {g th : Nat} {q : Qu} {k : MvKind} {e : MvEng} {src dst : Nat} {d : MvDesc}

theorem Turns.trans {M N : Nat} {c c' c'' : List Host.Cell × Nat} (h : Turns s g th q k e src dst d M c c') (h' : Turns s g th q k e src dst d N c' c'') :
    Turns s g th q k e src dst d (M + N) c c'' := by
  intro t ht
  obtain ⟨u, hu, hloop⟩ := h t ht
  obtain ⟨v, hv, hloop'⟩ := h' u hu
  exact ⟨v, hv, fun fuel => by rw [Nat.add_assoc, hloop, hloop']⟩

/-- A step that is not the last is one turn. -/
theorem Turns.of_step {c c' : List Host.Cell × Nat} (hgo : mvDone k d c.2 = false)
    (hstep : ∀ t, Moving s g th q c.1 t → ∃ t', mvStep k e g th q src dst d t c.2 = (t', .ok c'.2) ∧ Moving s g th q c'.1 t') :
    Turns s g th q k e src dst d 1 c c' := by
  intro t ht
  obtain ⟨t', hs, ht'⟩ := hstep t ht
  refine ⟨t', ht', fun fuel => ?_⟩
  rw [Nat.add_comm]
  simp only [mvLoop, hgo, hs, Bool.false_eq_true, if_false]

/-- A phase of N turns, one from each of its places to the next. -/
theorem Turns.phase {N : Nat} (c : Nat → List Host.Cell × Nat) (h : ∀ i < N, Turns s g th q k e src dst d 1 (c i) (c (i + 1))) :
    Turns s g th q k e src dst d N (c 0) (c N) := by
  induction N with
  | zero => exact fun t ht => ⟨t, ht, fun fuel => by rw [Nat.zero_add]⟩
  | succ N ih => exact (ih fun i hi => h i (hi.trans N.lt_succ_self)).trans (h N N.lt_succ_self)

end

theorem mvLoop_done {done : Nat → Bool} (step : State → Nat → State × Except MvStop Nat) {m : Nat} (h : done m = true) (fuel : Nat) (t : State) :
    mvLoop done step fuel t m = (t, m, none) := by
  cases fuel with
  | zero => rfl
  | succ fuel => simp only [mvLoop, h, if_true]

/-- A move at the head of its queue whose turns come to an end leaves its instruction done, and the storage at which they ended. -/
theorem tileMove_of_turns {s : State} {g th : Nat} {q : Qu} {x : Group} {en : EngEntry} (hgo : EngGo s g th q x en) (hun : Unbegun en) {k : MvKind} (f : EFields)
    {e : MvEng} {N pos : Nat} {m : List Host.Cell} (h : Turns s g th q k e (lane en.a 0).toNat (lane en.b 0).toNat (mvDesc en.c) N (s.mem, 0) (m, pos))
    (hN : N ≤ 2 * ((mvDesc en.c).rows * (mvDesc en.c).cols) + 4) (hdone : mvDone k (mvDesc en.c) pos = true) :
    tileMove k f e s = engFinished s g th q m := by
  have ⟨hsite, hpart, _⟩ := hgo
  obtain ⟨hmark, -⟩ := hun
  obtain ⟨t, ht, hloop⟩ := h s moving_start
  have hact : tileMove k f e s = mvRun s g th q x en (2 * ((mvDesc en.c).rows * (mvDesc en.c).cols) + 4) (mvDone k (mvDesc en.c))
      (mvStep k e g th q (lane en.a 0).toNat (lane en.b 0).toNat (mvDesc en.c)) := by
    simp only [tileMove, hsite]
    exact engAct_of_engGo hgo _
  obtain ⟨fuel, hfuel⟩ := Nat.exists_eq_add_of_le hN
  rw [hact, ← ht.engDone_eq]
  simp only [mvRun, partOf, hpart, if_true, hmark, hfuel, hloop, mvLoop_done _ hdone, hdone]

/-! ## What each form has done after a number of elements (R201) -/

theorem copyAll_succ (from_ dest_ : Nat → Nat) (n i : Nat) (m : List Host.Cell) :
    copyAll from_ dest_ n (i + 1) m = cellsWrite (copyAll from_ dest_ n i m) (dest_ i) (memBytes (copyAll from_ dest_ n i m) (from_ i) n) := by
  rw [copyAll, List.range_succ, List.foldl_append]
  rfl

/-- TMOVC at element p, with storage and the count of records so far: none of it, where it is zero, and otherwise its record. -/
def compressOne (from_ record_ : Nat → Nat) (n : Nat) (r : List Host.Cell × Nat) (p : Nat) : List Host.Cell × Nat :=
  let v := natOfBytes (memBytes r.1 (from_ p) n)
  if v = 0 then r else (cellsWrite r.1 (record_ r.2) (bytesOf 8 (v % 2 ^ 32 + p % 2 ^ 32 * 2 ^ 32)), r.2 + 1)

/-- Storage and the count of records once TMOVC has looked at i elements. -/
def compressed (from_ record_ : Nat → Nat) (n : Nat) (m : List Host.Cell) (i : Nat) : List Host.Cell × Nat :=
  (List.range i).foldl (compressOne from_ record_ n) (m, 0)

theorem compressAll_eq (from_ record_ : Nat → Nat) (countAt n total : Nat) (m : List Host.Cell) :
    compressAll from_ record_ countAt n total m = cellsWrite (compressed from_ record_ n m total).1 countAt (bytesOf 8 (compressed from_ record_ n m total).2) := rfl

theorem compressed_zero (from_ record_ : Nat → Nat) (n : Nat) (m : List Host.Cell) : compressed from_ record_ n m 0 = (m, 0) := rfl

theorem compressed_succ (from_ record_ : Nat → Nat) (n : Nat) (m : List Host.Cell) (i : Nat) :
    compressed from_ record_ n m (i + 1) = compressOne from_ record_ n (compressed from_ record_ n m i) i := by
  rw [compressed, List.range_succ, List.foldl_append]
  rfl

/-- There are no more records than elements. -/
theorem compressed_count_le (from_ record_ : Nat → Nat) (n : Nat) (m : List Host.Cell) (i : Nat) : (compressed from_ record_ n m i).2 ≤ i := by
  induction i with
  | zero => exact le_rfl
  | succ i ih =>
    rw [compressed_succ, compressOne]
    split
    · exact ih.trans i.le_succ
    · exact Nat.succ_le_succ ih

/-- Storage once TMOVE has zeroed i elements. -/
def zeroed (dest_ : Nat → Nat) (n : Nat) (m : List Host.Cell) (i : Nat) : List Host.Cell :=
  (List.range i).foldl (fun m p => cellsWrite m (dest_ p) (List.replicate n 0)) m

/-- TMOVE at record j: its element goes to its place, where the tile has that place. -/
def expandOne (record_ dest_ : Nat → Nat) (n total : Nat) (m : List Host.Cell) (j : Nat) : List Host.Cell :=
  let v := natOfBytes (memBytes m (record_ j) 8)
  if v / 2 ^ 32 < total then cellsWrite m (dest_ (v / 2 ^ 32)) (bytesOf n (v % 2 ^ 32)) else m

/-- Storage once TMOVE has taken j records. -/
def expanded (record_ dest_ : Nat → Nat) (n total : Nat) (m : List Host.Cell) (j : Nat) : List Host.Cell :=
  (List.range j).foldl (expandOne record_ dest_ n total) m

theorem expandAll_eq (record_ dest_ : Nat → Nat) (countAt n total : Nat) (m : List Host.Cell) :
    expandAll record_ dest_ countAt n total m =
      expanded record_ dest_ n total (zeroed dest_ n m total) (min (natOfBytes (memBytes (zeroed dest_ n m total) countAt 8)) total) := rfl

theorem zeroed_succ (dest_ : Nat → Nat) (n : Nat) (m : List Host.Cell) (i : Nat) :
    zeroed dest_ n m (i + 1) = cellsWrite (zeroed dest_ n m i) (dest_ i) (List.replicate n 0) := by
  rw [zeroed, List.range_succ, List.foldl_append]
  rfl

theorem expanded_succ (record_ dest_ : Nat → Nat) (n total : Nat) (m : List Host.Cell) (j : Nat) :
    expanded record_ dest_ n total m (j + 1) = expandOne record_ dest_ n total (expanded record_ dest_ n total m j) j := by
  rw [expanded, List.range_succ, List.foldl_append]
  rfl

/-! ## One turn of each form -/

/-- A position holds a place among elements, and a count of records above bit 40. -/
theorem position_mod {p : Nat} (hp : p < 2 ^ 40) (c : Nat) : (p + c * 2 ^ 40) % 2 ^ 40 = p := by omega

theorem position_div {p : Nat} (hp : p < 2 ^ 40) (c : Nat) : (p + c * 2 ^ 40) / 2 ^ 40 = c := by omega

section
variable {s : State} {g th : Nat} {q : Qu} {x : Group} {en : EngEntry} {e : MvEng} {src dst p c j kr kw : Nat} {d : MvDesc} (m : List Host.Cell)
  (hs : Sound s) (hw : Unwatched s) (hgo : EngGo s g th q x en)
include hs hw hgo

theorem turn_plain (hp : p < d.rows * d.cols) (hmax : d.rows * d.cols < 2 ^ 40)
    (hr : EngAt s x th e.ssp .read (elemAt src d.sstr d.cols (2 ^ e.esz.toNat) p) (2 ^ e.esz.toNat) kr)
    (hd : EngAt s x th e.dsp .write (elemAt dst d.dstr d.cols (2 ^ e.esz.toNat) p) (2 ^ e.esz.toNat) kw) :
    Turns s g th q .plain e src dst d 1 (m, p) (cellsWrite m kw (memBytes m kr (2 ^ e.esz.toNat)), p + 1) := by
  have hp' : p % 2 ^ 40 = p := Nat.mod_eq_of_lt (hp.trans hmax)
  refine .of_step (by simp only [mvDone, hp', decide_eq_false (Nat.not_le.mpr hp)]) fun t ht => ?_
  obtain ⟨t', hc, ht'⟩ := ht.engCopy hs hw hgo hr hd
  exact ⟨t', by simp only [mvStep, hp', mvAddr_elem, hc], ht'⟩

theorem turn_transpose (hp : p < d.rows * d.cols) (hmax : d.rows * d.cols < 2 ^ 40)
    (hr : EngAt s x th e.ssp .read (elemAt src d.sstr d.cols (2 ^ e.esz.toNat) p) (2 ^ e.esz.toNat) kr)
    (hd : EngAt s x th e.dsp .write (elemAcross dst d.dstr d.cols (2 ^ e.esz.toNat) p) (2 ^ e.esz.toNat) kw) :
    Turns s g th q .transpose e src dst d 1 (m, p) (cellsWrite m kw (memBytes m kr (2 ^ e.esz.toNat)), p + 1) := by
  have hp' : p % 2 ^ 40 = p := Nat.mod_eq_of_lt (hp.trans hmax)
  refine .of_step (by simp only [mvDone, hp', decide_eq_false (Nat.not_le.mpr hp)]) fun t ht => ?_
  obtain ⟨t', hc, ht'⟩ := ht.engCopy hs hw hgo hr hd
  exact ⟨t', by simp only [mvStep, hp', mvAddr_elem, mvAddr_across, hc], ht'⟩

/-- TMOVC at an element. -/
theorem turn_compress {from_ record_ : Nat → Nat} (r : List Host.Cell × Nat) (hp : p < d.rows * d.cols) (hmax : d.rows * d.cols < 2 ^ 40)
    (hr : EngAt s x th e.ssp .read (elemAt src d.sstr d.cols (2 ^ e.esz.toNat) p) (2 ^ e.esz.toNat) (from_ p))
    (hd : EngAt s x th e.dsp .write (addrPlus dst (8 + 8 * r.2)) 8 (record_ r.2)) :
    Turns s g th q .compress e src dst d 1 (r.1, p + r.2 * 2 ^ 40)
      ((compressOne from_ record_ (2 ^ e.esz.toNat) r p).1, p + 1 + (compressOne from_ record_ (2 ^ e.esz.toNat) r p).2 * 2 ^ 40) := by
  have hp' := position_mod (hp.trans hmax) r.2
  have hnext : p + r.2 * 2 ^ 40 + 1 + 2 ^ 40 = p + 1 + (r.2 + 1) * 2 ^ 40 := by omega
  refine .of_step (by simp only [mvDone, hp', decide_eq_false hp.not_gt]) fun t ht => ?_
  have hread := ht.engRead hs hw hgo hr
  unfold compressOne
  dsimp only at ht ⊢
  split
  case isTrue hv =>
    refine ⟨_, ?_, ht.clear⟩
    simp only [mvStep, hp', hp, if_true, mvAddr_elem, hread, hv, Nat.add_right_comm]
  case isFalse hv =>
    obtain ⟨t', hwr, ht'⟩ := ht.engWrite hs hw hgo (bytesOf_length 8 _) hd
    refine ⟨_, ?_, ht'.clear⟩
    simp only [mvStep, hp', hp, if_true, mvAddr_elem, hread, hv, if_false, position_div (hp.trans hmax), mvAddr_record, hwr, hnext]

/-- TMOVC writes its count last. -/
theorem turn_compressCount (hmax : d.rows * d.cols < 2 ^ 40) (hd : EngAt s x th e.dsp .write dst 8 kw) :
    Turns s g th q .compress e src dst d 1 (m, d.rows * d.cols + c * 2 ^ 40) (cellsWrite m kw (bytesOf 8 c), d.rows * d.cols + 1 + c * 2 ^ 40) := by
  have hp' := position_mod hmax c
  refine .of_step (by simp only [mvDone, hp', decide_eq_false (lt_irrefl _)]) fun t ht => ?_
  obtain ⟨t', hwr, ht'⟩ := ht.engWrite hs hw hgo (bytesOf_length 8 _) hd
  refine ⟨t', ?_, ht'⟩
  simp only [mvStep, hp', lt_irrefl, if_false, position_div hmax, hwr, Nat.add_right_comm]

/-- TMOVE zeroes an element. -/
theorem turn_zero (hp : p < d.rows * d.cols) (hmax : d.rows * d.cols < 2 ^ 40)
    (hd : EngAt s x th e.dsp .write (elemAt dst d.dstr d.cols (2 ^ e.esz.toNat) p) (2 ^ e.esz.toNat) kw) :
    Turns s g th q .expand e src dst d 1 (m, p) (cellsWrite m kw (List.replicate (2 ^ e.esz.toNat) 0), p + 1) := by
  have hp' : p % 2 ^ 40 = p := Nat.mod_eq_of_lt (hp.trans hmax)
  refine .of_step (by simp only [mvDone, hp', decide_eq_false hp.not_gt, Bool.false_and]) fun t ht => ?_
  obtain ⟨t', hwr, ht'⟩ := ht.engWrite hs hw hgo List.length_replicate hd
  exact ⟨t', by simp only [mvStep, hp', hp, if_true, mvAddr_elem, hwr], ht'⟩

/-- TMOVE reads the count of its records once the tile is zeroed, and keeps it above bit 40 of its position. -/
theorem turn_expandCount (hmax : d.rows * d.cols < 2 ^ 40) (hr : EngAt s x th e.ssp .read src 8 kr) :
    Turns s g th q .expand e src dst d 1 (m, d.rows * d.cols) (m, d.rows * d.cols + 1 + min (natOfBytes (memBytes m kr 8)) (d.rows * d.cols) * 2 ^ 40) := by
  have hp' : d.rows * d.cols % 2 ^ 40 = d.rows * d.cols := Nat.mod_eq_of_lt hmax
  refine .of_step (by simp only [mvDone, hp', decide_eq_false (lt_irrefl _), Bool.false_and]) fun t ht => ⟨_, ?_, ht.clear⟩
  simp only [mvStep, hp', lt_irrefl, if_false, if_true, ht.engRead hs hw hgo hr]

/-- TMOVE at a record. -/
theorem turn_expand {record_ dest_ : Nat → Nat} (hj : j < c) (hc : c ≤ d.rows * d.cols) (hmax : 2 * (d.rows * d.cols) + 2 < 2 ^ 40)
    (hr : EngAt s x th e.ssp .read (addrPlus src (8 + 8 * j)) 8 (record_ j))
    (hd : ∀ p, p < d.rows * d.cols → EngAt s x th e.dsp .write (elemAt dst d.dstr d.cols (2 ^ e.esz.toNat) p) (2 ^ e.esz.toNat) (dest_ p)) :
    Turns s g th q .expand e src dst d 1 (m, d.rows * d.cols + 1 + j + c * 2 ^ 40)
      (expandOne record_ dest_ (2 ^ e.esz.toNat) (d.rows * d.cols) m j, d.rows * d.cols + 1 + (j + 1) + c * 2 ^ 40) := by
  have hlt : d.rows * d.cols + 1 + j < 2 ^ 40 := by omega
  have hp' := position_mod hlt c
  have hbeyond : ¬ d.rows * d.cols + 1 + j < d.rows * d.cols := by omega
  have hne : ¬ d.rows * d.cols + 1 + j = d.rows * d.cols := by omega
  have hj' : d.rows * d.cols + 1 + j - d.rows * d.cols - 1 = j := by omega
  have hnext : d.rows * d.cols + 1 + j + c * 2 ^ 40 + 1 = d.rows * d.cols + 1 + (j + 1) + c * 2 ^ 40 := by omega
  refine .of_step (by simp only [mvDone, hp', position_div hlt, Bool.and_eq_false_iff, decide_eq_false_iff_not]; omega) fun t ht => ?_
  have hread := ht.engRead hs hw hgo hr
  unfold expandOne
  dsimp only at ht ⊢
  split
  case isTrue hv =>
    obtain ⟨t', hwr, ht'⟩ := ht.engWrite hs hw hgo (bytesOf_length _ _) (hd _ hv)
    refine ⟨_, ?_, ht'.clear⟩
    simp only [mvStep, hp', hbeyond, hne, hj', if_false, mvAddr_record, hread, hv, if_true, mvAddr_elem, hwr, hnext]
  case isFalse hv =>
    refine ⟨_, ?_, ht.clear⟩
    simp only [mvStep, hp', hbeyond, hne, hj', if_false, mvAddr_record, hread, hv, hnext]

end

/-! ## The four forms at the head of their queue -/

section
variable {s : State} {g th : Nat} {q : Qu} {x : Group} {en : EngEntry} (hs : Sound s) (hw : Unwatched s) (hgo : EngGo s g th q x en) (hun : Unbegun en)
include hgo hun

/-- A form that copies one element a turn copies them all, in order. -/
theorem tileMove_copies {k : MvKind} (f : EFields) {e : MvEng} {n : Nat} {from_ dest_ : Nat → Nat}
    (hdone : mvDone k (mvDesc en.c) ((mvDesc en.c).rows * (mvDesc en.c).cols) = true)
    (hturn : ∀ p, p < (mvDesc en.c).rows * (mvDesc en.c).cols → ∀ m, Turns s g th q k e (lane en.a 0).toNat (lane en.b 0).toNat (mvDesc en.c) 1
      (m, p) (cellsWrite m (dest_ p) (memBytes m (from_ p) n), p + 1)) :
    tileMove k f e s = engFinished s g th q (copyAll from_ dest_ n ((mvDesc en.c).rows * (mvDesc en.c).cols) s.mem) :=
  tileMove_of_turns hgo hun f (.phase (fun i => (copyAll from_ dest_ n i s.mem, i)) fun i hi => by rw [copyAll_succ]; exact hturn i hi _) (by omega) hdone

include hs hw

theorem tileMove_compress (f : EFields) {e : MvEng} {from_ record_ : Nat → Nat} {countAt : Nat} (hmax : (mvDesc en.c).rows * (mvDesc en.c).cols + 1 < 2 ^ 40)
    (hr : ∀ p, p < (mvDesc en.c).rows * (mvDesc en.c).cols →
      EngAt s x th e.ssp .read (elemAt (lane en.a 0).toNat (mvDesc en.c).sstr (mvDesc en.c).cols (2 ^ e.esz.toNat) p) (2 ^ e.esz.toNat) (from_ p))
    (hd : ∀ j, j < (mvDesc en.c).rows * (mvDesc en.c).cols → EngAt s x th e.dsp .write (addrPlus (lane en.b 0).toNat (8 + 8 * j)) 8 (record_ j))
    (hn : EngAt s x th e.dsp .write (lane en.b 0).toNat 8 countAt) :
    tileMove .compress f e s = engFinished s g th q (compressAll from_ record_ countAt (2 ^ e.esz.toNat) ((mvDesc en.c).rows * (mvDesc en.c).cols) s.mem) := by
  have hlt : (mvDesc en.c).rows * (mvDesc en.c).cols < 2 ^ 40 := by omega
  rw [compressAll_eq]
  have hrecords := Turns.phase (fun i => ((compressed from_ record_ (2 ^ e.esz.toNat) s.mem i).1, i + (compressed from_ record_ (2 ^ e.esz.toNat) s.mem i).2 * 2 ^ 40))
    fun i hi => by
      rw [compressed_succ]
      exact turn_compress hs hw hgo _ hi hlt (hr i hi) (hd _ ((compressed_count_le ..).trans_lt hi))
  simp only [compressed_zero, Nat.zero_mul] at hrecords
  exact tileMove_of_turns hgo hun f (hrecords.trans (turn_compressCount _ hs hw hgo hlt hn)) (by omega) (by simp only [mvDone, position_mod hmax, Nat.lt_succ_self, decide_true])

theorem tileMove_expand (f : EFields) {e : MvEng} {record_ dest_ : Nat → Nat} {countAt : Nat} (hmax : 2 * ((mvDesc en.c).rows * (mvDesc en.c).cols) + 2 < 2 ^ 40)
    (hd : ∀ p, p < (mvDesc en.c).rows * (mvDesc en.c).cols →
      EngAt s x th e.dsp .write (elemAt (lane en.b 0).toNat (mvDesc en.c).dstr (mvDesc en.c).cols (2 ^ e.esz.toNat) p) (2 ^ e.esz.toNat) (dest_ p))
    (hr : ∀ j, j < (mvDesc en.c).rows * (mvDesc en.c).cols → EngAt s x th e.ssp .read (addrPlus (lane en.a 0).toNat (8 + 8 * j)) 8 (record_ j))
    (hn : EngAt s x th e.ssp .read (lane en.a 0).toNat 8 countAt) :
    tileMove .expand f e s = engFinished s g th q (expandAll record_ dest_ countAt (2 ^ e.esz.toNat) ((mvDesc en.c).rows * (mvDesc en.c).cols) s.mem) := by
  rw [expandAll_eq]
  set n := 2 ^ e.esz.toNat
  set total := (mvDesc en.c).rows * (mvDesc en.c).cols
  set z := zeroed dest_ n s.mem total
  set count := min (natOfBytes (memBytes z countAt 8)) total
  have hlt : total < 2 ^ 40 := by omega
  have hcount : count ≤ total := Nat.min_le_right ..
  have hzero := Turns.phase (fun i => (zeroed dest_ n s.mem i, i)) fun i hi => by
    rw [zeroed_succ]
    exact turn_zero (src := (lane en.a 0).toNat) _ hs hw hgo hi hlt (hd i hi)
  have hplace := Turns.phase (fun j => (expanded record_ dest_ n total z j, total + 1 + j + count * 2 ^ 40)) fun j hj => by
    rw [expanded_succ]
    exact turn_expand _ hs hw hgo hj hcount hmax (hr j (hj.trans_le hcount)) hd
  refine tileMove_of_turns hgo hun f ((hzero.trans (turn_expandCount _ hs hw hgo hlt hn)).trans hplace) (by omega) ?_
  have hend : total + 1 + count < 2 ^ 40 := by omega
  simp only [mvDone, position_mod hend, position_div hend, Bool.and_eq_true, decide_eq_true_eq]
  exact ⟨by omega, le_rfl⟩

end

/-- Settles O26: the turns of each form add up to what R201 writes for it, element by element, and ENOP changes its queue alone (R197). -/
theorem tileMovesComplete : Obligations.TileMovesComplete := by
  intro f e s g th q x en from_ dest_ across record_ countAt hs hw hgo hun n cols total src dst reads writes
  have hdone : total < 2 ^ 40 → decide (total ≤ total % 2 ^ 40) = true := fun hmax => decide_eq_true (Nat.mod_eq_of_lt hmax).ge
  refine ⟨?_, fun hmax hr hd => ?_, fun hmax hr hd => ?_, fun hmax hr hd hn => ?_, fun hmax hd hr hn => ?_⟩
  · have ⟨hsite, _⟩ := hgo
    have henop : exec (.enop f q) s = .next (engAct s fun g th q _ _ => engDone s g th q) := by simp only [exec, execEnop, hsite]
    rw [henop, engAct_of_engGo hgo, moving_start.engDone_eq]
  · exact congrArg _ (tileMove_copies (k := .plain) hgo hun f (hdone hmax) fun p hp m => turn_plain m hs hw hgo hp hmax (hr p hp) (hd p hp))
  · exact congrArg _ (tileMove_copies (k := .transpose) hgo hun f (hdone hmax) fun p hp m => turn_transpose m hs hw hgo hp hmax (hr p hp) (hd p hp))
  · exact congrArg _ (tileMove_compress hs hw hgo hun f hmax hr hd hn)
  · exact congrArg _ (tileMove_expand hs hw hgo hun f hmax hd hr hn)

end Sys2Proof.Laws
end
